-- ==== Sys2Proof/Word.lean ====
section
/-! DEFINITION. The words of the machine: scalars and LC are 64 bits, lanes 32 bits, memory is bytes (R2, R25, R176). -/

namespace Sys2Proof

abbrev Word := BitVec 64
abbrev W32 := BitVec 32
abbrev Byte := BitVec 8

end Sys2Proof
end

