-- ==== Sys2Proof/Machine/Bits.lean ====
section
/-! DEFINITION. Bit fields, sign extension, byte order and lanes (R2, R5, R136, R176). -/

namespace Sys2Proof.Machine

/-- The field of width `w` at bit `lo` of a number (R2: x[lo+w-1 : lo]). -/
def bits (x lo w : Nat) : Nat := x / 2 ^ lo % 2 ^ w

/-- Bit n of a number. -/
def bit (x n : Nat) : Bool := x / 2 ^ n % 2 == 1

/-- R136: sign_extend(x, n), the 64-bit pattern of the n-bit field x read as two's complement. -/
def signExtend (x n : Nat) : Word := (BitVec.ofNat n x).signExtend 64

/-- R136: zero_extend(x, n). -/
def zeroExtend (x n : Nat) : Word := BitVec.ofNat 64 (x % 2 ^ n)

/-- R136: wrap64(v). -/
def wrap64 (v : Int) : Word := BitVec.ofInt 64 v

/-- The value of an n-bit pattern read as two's complement. -/
def toSigned (n x : Nat) : Int := (BitVec.ofNat n x).toInt

/-- The n-bit pattern of an integer modulo 2^n. -/
def wrapN (n : Nat) (v : Int) : Nat := (v % (2 ^ n : Nat)).toNat

/-- Rounding an integer division toward minus infinity. -/
def floorDiv (a b : Int) : Int := Int.fdiv a b

def ceilDiv (a b : Nat) : Nat := (a + b - 1) / b

/-- The number a list of bytes stands for, the first byte lowest (R2). -/
def leNat : List Byte → Nat
  | [] => 0
  | b :: r => b.toNat + 256 * leNat r

/-- The `n` bytes of a number, the lowest first (R2). -/
def leBytes : Nat → Nat → List Byte
  | 0, _ => []
  | n + 1, x => BitVec.ofNat 8 x :: leBytes n (x / 256)

/-- A number from the values of its `w`-bit fields, the first lowest. -/
def packNat (w : Nat) : List Nat → Nat
  | [] => 0
  | x :: r => x % 2 ^ w + 2 ^ w * packNat w r

/-- The `n` fields of width `w` of a number, the lowest first. -/
def unpackNat (w : Nat) : Nat → Nat → List Nat
  | 0, _ => []
  | n + 1, x => x % 2 ^ w :: unpackNat w n (x / 2 ^ w)

/-- Lane i of a vector register or accumulator row (R176). -/
def lane (v : BitVec 2048) (i : Nat) : W32 := BitVec.ofNat 32 (v.toNat / 2 ^ (32 * i))

/-- A vector from its lanes. -/
def vecOf (l : List W32) : BitVec 2048 := BitVec.ofNat 2048 (packNat 32 (l.map (·.toNat)))

def lanes (v : BitVec 2048) : List W32 := (unpackNat 32 64 v.toNat).map (BitVec.ofNat 32)

/-- A bit mask of the lanes at which a predicate holds. -/
def maskOf (p : Nat → Bool) : Nat → BitVec 64
  | 0 => 0
  | n + 1 => maskOf p n ||| (if p n then BitVec.ofNat 64 (2 ^ n) else 0)

/-- The lanes of `old`, with those of the mask taken from `new`. -/
def mergeLanes (mask : BitVec 64) (old new : BitVec 2048) : BitVec 2048 :=
  vecOf ((List.range 64).map fun i => if mask.getLsbD i then lane new i else lane old i)

/-- The number of one bits. -/
def popCount (n x : Nat) : Nat := ((List.range n).filter (bit x)).length

/-- The number of leading zero bits of an n-bit pattern. -/
def leadingZeros : Nat → Nat → Nat
  | 0, _ => 0
  | n + 1, x => if bit x n then 0 else leadingZeros n x + 1

/-- The place of the lowest one bit below n, or n. -/
def lowestBit (n x : Nat) : Nat := ((List.range n).find? (bit x)).getD n

/-- The lowest `i` below `n` with the property. -/
def firstBelow (n : Nat) (p : Nat → Bool) : Option Nat := (List.range n).find? p

/-- A word's bits [47:0]. -/
def low48 (w : Word) : BitVec 48 := w.setWidth 48

end Sys2Proof.Machine
end

