-- ==== Sys2Proof/Syntax.lean ====
section
/-! DEFINITION. The operations of the opcode table: one constructor per row, slot operations first (R120-R127), then the part's other steps. -/

namespace Sys2Proof

/-! Operand kinds of R119. -/
abbrev SReg := Fin 64
abbrev PReg := Fin 16
abbrev VReg := Fin 32
abbrev MReg := Fin 8
abbrev TReg := Fin 16
abbrev QReg := Fin 4
abbrev WReg := Fin 8
abbrev Chan := Fin 8
abbrev TileIx := Fin 512
abbrev Circ := Fin 256
abbrev Window := Fin 64

/-- Element formats of R49. -/
inductive Fmt where
  | raw32 | fp32 | bf16 | fp16 | tap32 | tap16 | tap8 | i16 | i8 | tri2 | tri5
  deriving DecidableEq, Repr

/-- Rounding modes (R67, R126). -/
inductive RM where
  | rne | rtz | rup | rdn
  deriving DecidableEq, Repr

/-- Overflow policies (R64, R126). -/
inductive OV where
  | sat | inf | nan | trap
  deriving DecidableEq, Repr

/-- Integer comparisons of R169. -/
inductive ICC where
  | eq | ne | lt | le | gt | ge | ltn | len | gtn | gen
  deriving DecidableEq, Repr

/-- Floating comparisons of R173. -/
inductive FCC where
  | eq | ne | lt | le | gt | ge | un | ord
  deriving DecidableEq, Repr

/-- Comparisons of tapered codes (R186). -/
inductive TCC where
  | eq | ne | lt | le | gt | ge
  deriving DecidableEq, Repr

/-- Element types of the integer VV instructions (R176): TY and FN[0]. -/
inductive ITy where
  | i32 | n32 | i16p | n16p | i8q | n8q
  deriving DecidableEq, Repr

/-- Element types of the integer VS instructions (R185). -/
inductive STy where
  | i32 | n32 | i16p | i8q
  deriving DecidableEq, Repr

/-- Element types of VBCAST (R195). -/
inductive BTy where
  | b32 | b16 | b8
  deriving DecidableEq, Repr

/-- Code types of VTCMP (R186). -/
inductive TTy where
  | tap32 | tap16 | tap8
  deriving DecidableEq, Repr

/-- How a compare combines with the old mask (R186). -/
inductive MaskOp where
  | set | and | or
  deriving DecidableEq, Repr

/-- Functions of VFUN (R184). -/
inductive FunCode where
  | exp2 | log2 | rcp | rsqrt | sqrt | tanh | sigm | sin
  deriving DecidableEq, Repr

/-- Patterns of VSHUF (R194). -/
inductive ShufFn where
  | rot | slidedn | slideup | bcastl | xorsw | ziplo | ziphi | unzipe | unzipo | rev
  deriving DecidableEq, Repr

/-- Operations of VRED (R197). -/
inductive RedFn where
  | add | min | max | and | or | xor
  deriving DecidableEq, Repr

/-- Operations of VFRED (R197). -/
inductive FRedFn where
  | add | min | max
  deriving DecidableEq, Repr

/-- Summation shapes (R73). -/
inductive Shape where
  | linear | tree8 | tree64 | exact
  deriving DecidableEq, Repr

/-- Memory spaces (R78). -/
inductive Space where
  | localS | cluster | device
  deriving DecidableEq, Repr

/-- Scopes (R249). -/
inductive Scope where
  | task | cl | dev | dom | sys
  deriving DecidableEq, Repr

/-- Ordering of an access (R126). -/
inductive Ord where
  | plain | acqRel | strong
  deriving DecidableEq, Repr

/-- Atomic operations (R226). -/
inductive Opk where
  | add | min | max | minn | maxn | and | or | xor | xchg | cas | fadd32 | faddbf
  deriving DecidableEq, Repr

/-- Fence kinds (R145). -/
inductive FenceKind where
  | full | acq | rel
  deriving DecidableEq, Repr

/-- Access sizes of LD, ST and LDW (R213): 2^SZ bytes. -/
inductive Size where
  | b1 | b2 | b4 | b8
  deriving DecidableEq, Repr

/-- The kinds of host atomic request (R268, R333); each has an operand beside, the addend or the new value. -/
inductive HostAtomic where
  | fetchAdd | swap | cas (compare : Word)
  deriving DecidableEq, Repr

/-- Which packet of which repair copy a flit of class 7 belongs to (R428): the circuit and the ordinal of the message, and the packet's number. -/
structure Repair where
  circ : Nat
  ordinal : BitVec 16
  index : Nat
  deriving DecidableEq, Repr

/-- What the wire does not carry of a flit (R305, R307, R310, R428): the device that sent its message or packet and the one that its packet goes to, the
logical cycle of the neighbour's hub at which it left, and the repair copy that a packet of class 7 is part of. -/
structure OffWire where
  src : Nat
  dst : Nat
  left : Nat
  repair : Option Repair := none
  deriving DecidableEq, Repr

/-- What a page-request response says (R369). -/
inductive PrgStatus where
  | success | invalidRequest | responseFailure
  deriving DecidableEq, Repr

/-- One operation of the opcode table. The constructors up to `kop` are slot operations; the others are the
part's steps that no slot encodes, with what the outside world supplies to them as arguments. -/
inductive Instr where
  -- C slot (R136-R160)
  | nop
  | br (off : BitVec 32)
  | call (off : BitVec 32)
  | bri (a : SReg)
  | ret
  | loop (a : SReg) (body : Fin 1024)
  | endt
  | align
  | sstep (exchange : Bool)
  | fence (kind : FenceKind) (sco : Scope)
  | qmark
  | waitcImm (ch : Chan) (imm : BitVec 38)
  | waitcReg (ch : Chan) (a : SReg)
  | trap (code : BitVec 8)
  | rft
  | rewind
  | csrr (d : SReg) (csr : Fin 4096)
  | csrw (csr : Fin 4096) (a : SReg)
  | lcrd (d : SReg)
  | plog (pd pa pb : PReg) (fn : BitVec 4)
  | movps (d : SReg) (mask : BitVec 16)
  | movsp (a : SReg) (mask : BitVec 16)
  -- C slot of the command core (R161)
  | launch (a b : SReg) (node : BitVec 32)
  | nodew (d : SReg)
  | sigh (a b : SReg) (vec : BitVec 8)
  | yield
  | gdone
  -- A slot (R166-R174)
  | add (d a b : SReg)
  | sub (d a b : SReg)
  | addi (d a : SReg) (imm : BitVec 36)
  | mul (d a b : SReg)
  | mulh (d a b : SReg)
  | mulhn (d a b : SReg)
  | div (d a b : SReg)
  | divn (d a b : SReg)
  | rem (d a b : SReg)
  | remn (d a b : SReg)
  | and (d a b : SReg)
  | or (d a b : SReg)
  | xor (d a b : SReg)
  | andi (d a : SReg) (imm : BitVec 36)
  | ori (d a : SReg) (imm : BitVec 36)
  | xori (d a : SReg) (imm : BitVec 36)
  | shl (d a b : SReg)
  | shr (d a b : SReg)
  | sha (d a b : SReg)
  | shli (d a : SReg) (n : Fin 64)
  | shri (d a : SReg) (n : Fin 64)
  | shai (d a : SReg) (n : Fin 64)
  | min (d a b : SReg)
  | max (d a b : SReg)
  | minn (d a b : SReg)
  | maxn (d a b : SReg)
  | li (d : SReg) (imm : BitVec 42)
  | lih (d : SReg) (imm : BitVec 22)
  | cmp (pd : PReg) (a b : SReg) (cc : ICC)
  | cmpi (pd : PReg) (a : SReg) (cc : ICC) (imm : BitVec 34)
  | sel (d a b : SReg) (p : PReg)
  | clz (d a : SReg)
  | popc (d a : SReg)
  | bfx (d a : SReg) (pos len : Fin 64)
  | bfi (d a b : SReg) (pos len : Fin 64)
  | addr (d a b : SReg) (x : Fin 64)
  | chkeq (a b : SReg)
  | sfadd (d a b : SReg) (rm : RM)
  | sfmul (d a b : SReg) (rm : RM)
  | sffma (d a b c : SReg) (rm : RM)
  | sfcmp (pd : PReg) (a b : SReg) (cc : FCC)
  | scvt (d a : SReg) (sf df : Fmt) (rm : RM) (ov : OV)
  -- V slot (R181-R198)
  | vadd (vd va vb : VReg) (m : MReg) (ty : ITy)
  | vsub (vd va vb : VReg) (m : MReg) (ty : ITy)
  | vmul (vd va vb : VReg) (m : MReg) (ty : ITy)
  | vmulh (vd va vb : VReg) (m : MReg) (ty : ITy)
  | vmin (vd va vb : VReg) (m : MReg) (ty : ITy)
  | vmax (vd va vb : VReg) (m : MReg) (ty : ITy)
  | vand (vd va vb : VReg) (m : MReg) (ty : ITy)
  | vor (vd va vb : VReg) (m : MReg) (ty : ITy)
  | vxor (vd va vb : VReg) (m : MReg) (ty : ITy)
  | vshl (vd va vb : VReg) (m : MReg) (ty : ITy)
  | vshr (vd va vb : VReg) (m : MReg) (ty : ITy)
  | vsha (vd va vb : VReg) (m : MReg) (ty : ITy)
  | vabs (vd va : VReg) (m : MReg) (ty : ITy)
  | vfadd (vd va vb : VReg) (m : MReg) (sm : BitVec 3) (rm : RM)
  | vfsub (vd va vb : VReg) (m : MReg) (sm : BitVec 3) (rm : RM)
  | vfmul (vd va vb : VReg) (m : MReg) (sm : BitVec 3) (rm : RM)
  | vfma (vd va vb vc : VReg) (m : MReg) (sm : BitVec 4) (rm : RM)
  | vfmin (vd va vb : VReg) (m : MReg) (sm : BitVec 3)
  | vfmax (vd va vb : VReg) (m : MReg) (sm : BitVec 3)
  | vfun (vd va : VReg) (m : MReg) (fn : FunCode) (sm : BitVec 2) (rm : RM)
  | vadds (vd va : VReg) (sa : SReg) (m : MReg) (ty : STy)
  | vmuls (vd va : VReg) (sa : SReg) (m : MReg) (ty : STy)
  | vfadds (vd va : VReg) (sa : SReg) (m : MReg) (sm : BitVec 3) (rm : RM)
  | vfmuls (vd va : VReg) (sa : SReg) (m : MReg) (sm : BitVec 3) (rm : RM)
  | vfmas (vd va : VReg) (sa : SReg) (m : MReg) (sm : BitVec 4) (rm : RM)
  | vcmp (md : MReg) (va vb : VReg) (m : MReg) (cc : ICC) (w : MaskOp)
  | vfcmp (md : MReg) (va vb : VReg) (m : MReg) (cc : FCC) (w : MaskOp)
  | vtcmp (md : MReg) (va vb : VReg) (m : MReg) (ty : TTy) (cc : TCC) (w : MaskOp)
  | vsel (vd va vb : VReg) (m : MReg)
  | mlog (md ma mb : MReg) (fn : BitVec 4)
  | mpop (d : SReg) (ma : MReg)
  | viota (vd : VReg) (m : MReg)
  | vcvt (vd va : VReg) (sf df : Fmt) (rm : RM) (ov : OV) (m : MReg)
  | vpack (vd va : VReg) (sf df : Fmt) (rm : RM) (ov : OV) (part : Fin 4)
  | vunpk (vd va : VReg) (sf df : Fmt) (rm : RM) (ov : OV) (part : Fin 4)
  | vperm (vd va vb : VReg) (m : MReg)
  | vshuf (vd va vb : VReg) (fn : ShufFn) (k : Fin 64) (m : MReg)
  | vbcast (vd : VReg) (sa : SReg) (m : MReg) (ty : BTy)
  | vext (d : SReg) (va : VReg) (ln : Fin 64)
  | vins (vd : VReg) (sa : SReg) (ln : Fin 64)
  | vred (d : SReg) (va : VReg) (m : MReg) (isUnsigned : Bool) (fn : RedFn)
  | vfred (d : SReg) (va : VReg) (m : MReg) (fn : FRedFn) (rm : RM)
  | vpop (vd : VReg) (q : QReg)
  | vmov (vd va : VReg) (m : MReg)
  -- X slot (R203-R212)
  | movtc (t : TReg) (a : SReg)
  | movfc (d : SReg) (t : TReg)
  | tld (t : TReg) (bs : SReg) (tr tc : Bool) (tagx : Fin 16)
  | tzero (t : TReg)
  | mma (aw : Window) (ta tb : TReg) (neg clr : Bool) (sum : Shape)
  | mmt (aw : Window) (ta tb : TReg) (neg clr : Bool) (sum : Shape)
  | aclr (aw : Window)
  | ald (row : Fin 512) (col ncol : Fin 64) (nrow : Fin 128) (bs : SReg)
  | acpy (row : Fin 512) (col ncol : Fin 64) (nrow : Fin 128) (bs : SReg)
  | drain (aw : Window) (q : QReg) (nrow : Fin 128) (df : Fmt) (rm : RM) (ov : OV) (scl : BitVec 3) (a : SReg)
  | agive (aw : Window)
  | qclr (q : QReg)
  | qcnt (d : SReg) (q : QReg)
  -- L slot (R213-R230)
  | ld (d bs : SReg) (off : BitVec 20) (sz : Size) (sg : Bool) (sp : Space) (tc : Bool) (tagx : Fin 16) (ord : Ord) (sco : Scope)
  | st (d bs : SReg) (off : BitVec 20) (sz : Size) (sp : Space) (tc : Bool) (tagx : Fin 16) (ord : Ord) (sco : Scope)
  | vld (vd : VReg) (bs : SReg) (off : BitVec 18) (str : Fin 64) (m : MReg) (sp : Space) (tc : Bool) (tagx : Fin 16)
  | vst (vd : VReg) (bs : SReg) (off : BitVec 18) (str : Fin 64) (m : MReg) (sp : Space) (tc : Bool) (tagx : Fin 16)
  | vldg (vd vi : VReg) (bs : SReg) (m : MReg) (sp : Space) (sc : Fin 4)
  | vsts (vd vi : VReg) (bs : SReg) (m : MReg) (sp : Space) (sc : Fin 4)
  | ldw (d : SReg) (w : WReg) (off : BitVec 32) (sz : Size) (sg : Bool)
  | vldw (vd : VReg) (w : WReg) (off : BitVec 32)
  | give (tile : TileIx) (out : Bool) (cnt : Fin 128)
  | tagrd (d : SReg) (tile : TileIx)
  | tfmt (tile : TileIx) (fmt : Fmt)
  | sbind (f : Fin 8) (a : SReg)
  | sfree (f : Fin 8)
  | copygo (ch : Chan) (a : SReg)
  | qst (q : QReg) (bs : SReg) (off : BitVec 20)
  | atom (d bs b c : SReg) (opk : Opk) (wide : Bool) (sp : Space) (sco : Scope)
  | atomd (bs b : SReg) (opk : Opk) (wide : Bool) (sco : Scope)
  | casw (d bs x y : SReg) (four : Bool) (sco : Scope)
  | enq (d bs b : SReg)
  | chase (d bs : SReg) (cnt : Fin 64) (off : BitVec 16)
  | rst (bs b chip : SReg) (wide : Bool)
  | ratom (d bs b chip : SReg) (opk : Opk) (wide : Bool)
  | rld (d bs chip : SReg) (wide : Bool)
  | flusha (chip : SReg)
  | flushaAll
  -- F slot (R237-R245)
  | send (v : VReg) (circ : Circ) (lanes : Fin 64)
  | recv (v : VReg) (circ : Circ) (delta : BitVec 24) (lanes : Fin 64)
  | sendt (tile : TileIx) (circ : Circ)
  | recvt (tile : TileIx) (circ : Circ) (delta : BitVec 24)
  | qsend (q : QReg) (circ : Circ) (nrow : Fin 128)
  | coll (tmpl : Fin 256) (a : SReg) (ch : Chan) (inc : Fin 256)
  | ksrch (a : SReg) (stk : Fin 8) (ch : Chan) (inc : Fin 256)
  | kred (a : SReg) (stk : Fin 8) (ch : Chan) (inc : Fin 256)
  | kop (a : SReg) (stk : Fin 8) (ch : Chan) (inc : Fin 256)
  -- steps of the cores (R29-R41, R352, R357)
  | bundleNullified (core : Nat)
  | fixedLatencyResult (core : Nat)
  | heldBundleIssue (core : Nat)
  | variableLatencyReply (id : Nat)
  | timingTrap (core : Nat)
  | segmentExpansion (core : Nat)
  | alignComplete
  | clusterAccessPerformed (id : Nat)
  | tileUnitArrival (core tile : Nat)
  | deferredReport (core : Nat)
  | nodeEnd
  -- steps of the memory side (R250, R269-R281)
  | storeEntersPort (id : Nat)
  | storePerformed (id : Nat)
  | wqAtomicPerformed (id : Nat)
  | mergeEntryClose (line : Nat)
  | chaseHopForward (id : Nat)
  | accessCountWindow
  | aggElementEntry (id : Nat)
  | aggBufferAgeTimeout (dst : Nat)
  | aggPacketApply (src : Nat)
  | aggAckReceived (dst : Nat)
  | operationPacketReceived (src task : Nat)
  | opPacketResendTimeout (id : Nat)
  | aggPacketResendTimeout (dst : Nat)
  | missingSeqHoldTimeout (agg : Bool) (src task : Nat)
  | migreq (v : Word)
  | migrationHold
  | migrationComplete
  -- steps of the fabric (R303-R321, R422-R444)
  | routerSlot (router : Nat) (expect : List (Nat × Nat))
  | wireFlitReceived (link : Nat) (flit : BitVec 576) (via : OffWire)
  | nakReceived (link : Nat)
  | ackReceived (link : Nat)
  | ackTimer (link : Nat)
  | replayTimer (link : Nat)
  | linkTrainingComplete (link : Nat)
  | retrainTimeout (link : Nat)
  | deadNotifyTimer (link : Nat)
  | alignFlitReceived (link : Nat)
  | messageTagCheck (circ : Nat)
  | reRequestTimer (circ : Nat)
  | reRequestReceived (circ dst : Nat)
  | repairCopyReceived (circ : Nat)
  | deliveryConfirmationReceived (circ : Nat)
  | abortFlitReceived
  | collAccept (core : Nat)
  | collMessageReceived
  | collPatienceExpiry
  -- steps of the engines (R221-R224, R282-R297, R406-R416)
  | copyCommandAccept (core : Nat)
  | copyChunk (cluster : Nat)
  | followOn (cluster : Nat)
  | kredAccept (core : Nat)
  | kredChunk (id : Nat)
  | kopAccept (core : Nat)
  | kopBankRun (id : Nat)
  | ksrchAccept (core : Nat)
  | distanceRequest (id node : Nat)
  | distanceReply (id node : Nat)
  -- steps of the host, the driver and the firmware (R324-R338, R400-R410, R439, R453-R456)
  | rvk (v : Word)
  | xlinv (v : Word)
  | graphStartStore (slot : Fin 64) (v : Word)
  | gctl (slot : Fin 64) (v : Word)
  | hostAtomicop (off : Nat) (wide : Bool) (op : HostAtomic) (v : Word)
  | hostBar2Read (off : Nat) (len : Nat)
  | hostBar2Write (off : Nat) (data : List Byte)
  | prgResponse (index : Nat) (status : PrgStatus)
  | atsInvalidation (pasid va : Nat)
  | negotiateAlgorithms (sha256Offered : Bool)
  | getCertificate (slot off len : Nat)
  | challenge (slot : Nat) (nonce : List Byte)
  | getMeasurements (block : Nat) (signed : Bool) (nonce : List Byte)
  | bootFirmwareVerify (index : Nat) (image : List Byte)
  | serviceLevelChange (level : Fin 3)
  | clockChange (code : Nat) (mhz : Nat)
  | patrolScrub (tier : Bool) (pa : Nat) (uncorrectable : Bool)
  | ceWindow (ctrl : Nat)
  | bpladd (v : Word)
  | lnkctlRetrain (link : Fin 12)
  | lnkctlDown (link : Fin 12)
  | registerWrite (off : Nat) (v : Word)
  | pageWalkComplete (cluster slot : Nat) (va : Nat) (grant : Option (Nat × Bool))
  -- steps of the host and of the device itself that carry nothing (R327, R328, R335, R402, R453-R458)
  | graphStart
  | saveComplete
  | restoreComplete
  | getVersion
  | getCapabilities
  | getDigests
  | coldReset
  | warmReset
  | bplCommit
  | scrctlFreeze
  | scrctlFrozen
  deriving DecidableEq, Repr

/-- The six slot classes (R116). -/
inductive SlotClass where
  | c | a | v | x | l | f
  deriving DecidableEq, Repr

/-- One valid slot: its guard (R117, R118) and its operation. -/
structure Slot where
  g : PReg
  gn : Bool
  op : Instr
  deriving DecidableEq, Repr

/-- A decoded bundle (R115, R116): its STALL, RESTART and one optional operation for each class. -/
structure Bundle where
  stall : Fin 16
  restart : Bool
  c : Option Slot
  a : Option Slot
  v : Option Slot
  x : Option Slot
  l : Option Slot
  f : Option Slot
  deriving DecidableEq, Repr

end Sys2Proof
end

