-- ==== Sys2Proof/Machine/Num.lean ====
section
/-! DEFINITION. Number formats and arithmetic (R49-R77): exact values, decoding, rounding, conversion, the function unit and the
summation shapes. -/

namespace Sys2Proof.Machine

/-- An extended real (R62): a finite value ± m × 2^e with a signed zero, an infinity, or a NaN whose 23-bit fraction holds its payload. -/
inductive Val where
  | fin (neg : Bool) (m : Nat) (e : Int)
  | inf (neg : Bool)
  | nan (neg : Bool) (frac : Nat)
  deriving DecidableEq, Repr

/-- The canonical NaN (R50, R51). -/
def Val.qnan : Val := .nan false 0x400000
def Val.zero : Val := .fin false 0 0
def Val.ofInt (i : Int) : Val := .fin (i < 0) i.natAbs 0
def Val.isNan : Val → Bool
  | .nan _ _ => true
  | _ => false

/-- The number of bits of m: floor(log2 m) + 1, and 0 for 0. -/
def bitLen (m : Nat) : Nat := if m = 0 then 0 else Nat.log2 m + 1

/-! ## Formats -/

/-- Bits of one element; a TRI5 element has no whole number of bits (R49). -/
def Fmt.width : Fmt → Nat
  | .raw32 | .fp32 | .tap32 => 32
  | .bf16 | .fp16 | .tap16 | .i16 => 16
  | .tap8 | .i8 | .tri5 => 8
  | .tri2 => 2

/-- The format a 4-bit attribute names; unassigned codes are read as RAW32 where a check has let them pass. -/
def fmtOfCode : Nat → Fmt
  | 1 => .fp32 | 2 => .bf16 | 3 => .fp16 | 4 => .tap32 | 5 => .tap16 | 6 => .tap8 | 7 => .i16 | 8 => .i8 | 9 => .tri2
  | 10 => .tri5 | _ => .raw32

def fmtCode : Fmt → Nat
  | .raw32 => 0 | .fp32 => 1 | .bf16 => 2 | .fp16 => 3 | .tap32 => 4 | .tap16 => 5 | .tap8 => 6 | .i16 => 7 | .i8 => 8
  | .tri2 => 9 | .tri5 => 10

/-- An IEEE format (R50): fraction bits, exponent of the least subnormal, exponent bits. -/
structure Ieee where
  frac : Nat
  emin : Int
  ebits : Nat
  deriving DecidableEq, Repr

def ieee32 : Ieee := ⟨23, -149, 8⟩
def ieeeBf : Ieee := ⟨7, -133, 8⟩
def ieee16 : Ieee := ⟨10, -24, 5⟩

def Ieee.infCode (f : Ieee) : Nat := (2 ^ f.ebits - 1) * 2 ^ f.frac
def Ieee.sign (f : Ieee) (neg : Bool) : Nat := if neg then 2 ^ (f.frac + f.ebits) else 0

/-- The value of an IEEE code (R50, R62). -/
def Ieee.decode (f : Ieee) (code : Nat) : Val :=
  let neg := bit code (f.frac + f.ebits)
  let ex := bits code f.frac f.ebits
  let fr := bits code 0 f.frac
  if ex = 2 ^ f.ebits - 1 then
    if fr = 0 then .inf neg else .nan neg (fr * 2 ^ (23 - f.frac))
  else if ex = 0 then .fin neg fr f.emin
  else .fin neg (fr + 2 ^ f.frac) (f.emin + (ex - 1 : Nat))

/-- m × 2^sh rounded to an integer, for a magnitude whose sign is given (R67). -/
def roundInt (rm : RM) (neg : Bool) (m : Nat) (sh : Int) : Nat :=
  if 0 ≤ sh then m * 2 ^ sh.toNat
  else
    let d := 2 ^ (-sh).toNat
    let q := m / d
    let r := m % d
    match rm with
    | .rne => if d < 2 * r || (2 * r = d && q % 2 = 1) then q + 1 else q
    | .rtz => q
    | .rup => if !neg && r ≠ 0 then q + 1 else q
    | .rdn => if neg && r ≠ 0 then q + 1 else q

/-- The magnitude's code after rounding to the format's precision with the exponent unbounded above (R63). -/
def Ieee.roundMag (f : Ieee) (rm : RM) (neg : Bool) (m : Nat) (e : Int) : Nat :=
  if m = 0 then 0
  else
    let q := max f.emin (e + bitLen m - 1 - f.frac)
    (q - f.emin).toNat * 2 ^ f.frac + roundInt rm neg m (e - q)

/-- A NaN's code: quiet bit set, the payload's high bits, the sign kept (R63). -/
def Ieee.nanCode (f : Ieee) (neg : Bool) (frac : Nat) : Nat :=
  let fr := frac / 2 ^ (23 - f.frac)
  f.sign neg + f.infCode + (if bit fr (f.frac - 1) then fr else fr + 2 ^ (f.frac - 1))

/-- round_fp32 (R67): overflow follows IEEE 754. -/
def roundFp32 (rm : RM) : Val → W32
  | .nan _ _ => 0x7FC00000
  | .inf neg => if neg then 0xFF800000 else 0x7F800000
  | .fin neg m e =>
    let c := ieee32.roundMag rm neg m e
    let beyond := match rm with
      | .rne => true
      | .rtz => false
      | .rup => !neg
      | .rdn => neg
    let c := if c < 0x7F800000 then c else if beyond then 0x7F800000 else 0x7F7FFFFF
    BitVec.ofNat 32 (ieee32.sign neg + c)

def fp32 (w : W32) : Val := ieee32.decode w.toNat
/-- rne32 as a value (R67). -/
def rneV (v : Val) : Val := fp32 (roundFp32 .rne v)

/-! ## Tapered formats (R53-R56) -/

/-- The run of bits equal to b from bit i downwards. -/
def runLength (u : Nat) (b : Bool) : Nat → Nat
  | 0 => 0
  | i + 1 => if bit u i == b then runLength u b i + 1 else 0

def decodeTap (n code : Nat) : Val :=
  let code := code % 2 ^ n
  if code = 0 then .zero
  else if code = 2 ^ (n - 1) then .qnan
  else
    let neg := bit code (n - 1)
    let u := if neg then 2 ^ n - code else code
    let b := bit u (n - 2)
    let m := runLength u b (n - 1)
    let k : Int := if b then (m : Int) - 1 else -(m : Int)
    let at' (j : Int) : Nat := if 0 ≤ j then (bit u j.toNat).toNat else 0
    let e := 2 * at' ((n : Int) - 3 - m) + at' ((n : Int) - 4 - m)
    let fb := n - 4 - m
    .fin neg (2 ^ fb + bits u 0 fb) (4 * k + e - fb)

/-- The overflow policies of an encoding into a tapered code (R56, R64): a code or the sub-cause of R376. -/
def encodeTap (n : Nat) (ov : OV) (v : Val) : Except Nat Nat :=
  let sgn (neg : Bool) (y : Nat) : Nat := if neg then 2 ^ n - y else y
  let beyond (neg : Bool) : Except Nat Nat :=
    match ov with
    | .sat => .ok (sgn neg (2 ^ (n - 1) - 1))
    | .inf | .nan => .ok (2 ^ (n - 1))
    | .trap => .error 1
  match v with
  | .nan _ _ => .ok (2 ^ (n - 1))
  | .inf neg => beyond neg
  | .fin neg m e =>
    if m = 0 then .ok 0
    else
      let s : Int := e + bitLen m - 1
      let top : Int := 4 * ((n : Int) - 2)
      if top < s || (s = top && m ≠ 2 ^ (bitLen m - 1)) then beyond neg
      else if s < -top then .ok (sgn neg 1)
      else
        let k := Int.fdiv s 4
        let ex := (s - 4 * k).toNat
        let regLen := if 0 ≤ k then k.toNat + 2 else (-k).toNat + 1
        let reg := if 0 ≤ k then (2 ^ (k.toNat + 1) - 1) * 2 else 1
        let fl := bitLen m - 1
        let str := (reg * 4 + ex) * 2 ^ fl + (m - 2 ^ fl)
        let total := regLen + 2 + fl
        let y :=
          if n - 1 ≤ total then
            let d := 2 ^ (total - (n - 1))
            let q := str / d
            let r := str % d
            if d < 2 * r || (2 * r = d && q % 2 = 1) then q + 1 else q
          else str * 2 ^ (n - 1 - total)
        .ok (sgn neg y)

/-! ## Decoding and conversion (R62-R65) -/

/-- A trit (R57): the value, and whether the code is reserved. -/
def decodeTri2 (code : Nat) : Int × Bool :=
  match code % 4 with
  | 1 => (1, false)
  | 3 => (-1, false)
  | 2 => (0, true)
  | _ => (0, false)

/-- Digit j of a TRI5 byte (R58). -/
def decodeTri5 (byte j : Nat) : Int × Bool :=
  if 243 ≤ byte then (0, true)
  else match byte / 3 ^ j % 3 with
    | 1 => (1, false)
    | 2 => (-1, false)
    | _ => (0, false)

/-- decode(fmt, code) (R62); a TRI5 element is decoded by decodeTri5 from its byte. -/
def decodeVal (fmt : Fmt) (code : Nat) : Val :=
  match fmt with
  | .fp32 => ieee32.decode code
  | .bf16 => ieeeBf.decode code
  | .fp16 => ieee16.decode code
  | .tap32 => decodeTap 32 code
  | .tap16 => decodeTap 16 code
  | .tap8 => decodeTap 8 code
  | .raw32 => .ofInt (toSigned 32 code)
  | .i16 => .ofInt (toSigned 16 code)
  | .i8 => .ofInt (toSigned 8 code)
  | .tri2 => .ofInt (decodeTri2 code).1
  | .tri5 => .ofInt (decodeTri5 code 0).1

/-- A code of the format is a reserved ternary code (R59). -/
def reservedCode (fmt : Fmt) (code : Nat) : Bool :=
  match fmt with
  | .tri2 => (decodeTri2 code).2
  | .tri5 => 243 ≤ code
  | _ => false

def encodeIeee (f : Ieee) (rm : RM) (ov : OV) : Val → Except Nat Nat
  | .nan neg fr => .ok (f.nanCode neg fr)
  | .inf neg => .ok (f.sign neg + f.infCode)
  | .fin neg m e =>
    let c := f.roundMag rm neg m e
    if c < f.infCode then .ok (f.sign neg + c)
    else match ov with
      | .sat => .ok (f.sign neg + f.infCode - 1)
      | .inf => .ok (f.sign neg + f.infCode)
      | .nan => .ok (f.nanCode false 0)
      | .trap => .error 1

def encodeInt (n : Nat) (rm : RM) (ov : OV) (v : Val) : Except Nat Nat :=
  let lo : Int := -(2 ^ (n - 1) : Nat)
  let hi : Int := (2 ^ (n - 1) : Nat) - 1
  let beyond (neg : Bool) : Except Nat Nat :=
    match ov with
    | .sat | .inf => .ok (wrapN n (if neg then lo else hi))
    | .nan => .ok (wrapN n lo)
    | .trap => .error 1
  match v with
  | .nan _ _ =>
    match ov with
    | .sat | .inf => .ok 0
    | .nan => .ok (wrapN n lo)
    | .trap => .error 2
  | .inf neg => beyond neg
  | .fin neg m e =>
    let mag := roundInt rm neg m e
    let i : Int := if neg then -(mag : Int) else mag
    if lo ≤ i && i ≤ hi then .ok (wrapN n i) else beyond neg

/-- The encoding of a value into DF under RM and OV: convert after its decode (R63, R64, R210). -/
def encodeVal (df : Fmt) (rm : RM) (ov : OV) (v : Val) : Except Nat Nat :=
  match df with
  | .fp32 => encodeIeee ieee32 rm ov v
  | .bf16 => encodeIeee ieeeBf rm ov v
  | .fp16 => encodeIeee ieee16 rm ov v
  | .tap32 => encodeTap 32 ov v
  | .tap16 => encodeTap 16 ov v
  | .tap8 => encodeTap 8 ov v
  | .raw32 => encodeInt 32 rm ov v
  | .i16 => encodeInt 16 rm ov v
  | .i8 => encodeInt 8 rm ov v
  | .tri2 | .tri5 => .ok 0

/-- convert(sf, df, x, rm, ov) (R63): a code, or the sub-cause of R64. -/
def convert (sf df : Fmt) (x : Nat) (rm : RM) (ov : OV) : Except Nat Nat := encodeVal df rm ov (decodeVal sf x)

/-- convert where the overflow policy cannot trap. -/
def convertD (sf df : Fmt) (x : Nat) (rm : RM) (ov : OV) : Nat :=
  match convert sf df x rm ov with
  | .ok y => y
  | .error _ => 0

/-- load_fp32(fmt, code) (R62). -/
def loadFp32 (fmt : Fmt) (code : Nat) : W32 :=
  match fmt with
  | .fp32 => BitVec.ofNat 32 code
  | .bf16 | .fp16 => BitVec.ofNat 32 (convertD fmt .fp32 code .rne .sat)
  | _ => roundFp32 .rne (decodeVal fmt code)

/-! ## Exact arithmetic on values (R51, R67) -/

/-- The integer a finite value is at the exponent e0, which is not above its own. -/
def atExp (neg : Bool) (m : Nat) (e e0 : Int) : Int :=
  let v : Int := m * (2 ^ (e - e0).toNat : Nat)
  if neg then -v else v

def Val.neg : Val → Val
  | .fin n m e => .fin (!n) m e
  | .inf n => .inf (!n)
  | .nan n f => .nan (!n) f
def Val.abs : Val → Val
  | .fin _ m e => .fin false m e
  | .inf _ => .inf false
  | .nan _ f => .nan false f

/-- The exact sum; an exact zero takes the sign of R67 under rm. -/
def Val.add (rm : RM) : Val → Val → Val
  | .nan _ _, _ => .qnan
  | _, .nan _ _ => .qnan
  | .inf a, .inf b => if a == b then .inf a else .qnan
  | .inf a, .fin _ _ _ => .inf a
  | .fin _ _ _, .inf b => .inf b
  | .fin n1 m1 e1, .fin n2 m2 e2 =>
    let e := min e1 e2
    let s := atExp n1 m1 e1 e + atExp n2 m2 e2 e
    if s = 0 then .fin (if n1 == n2 then n1 else rm == .rdn) 0 0 else .fin (s < 0) s.natAbs e

/-- The exact product under IEEE 754's rules for signs, zeros, infinities and NaNs. -/
def Val.mul : Val → Val → Val
  | .nan _ _, _ => .qnan
  | _, .nan _ _ => .qnan
  | .inf a, .inf b => .inf (a != b)
  | .inf a, .fin b m _ => if m = 0 then .qnan else .inf (a != b)
  | .fin a m _, .inf b => if m = 0 then .qnan else .inf (a != b)
  | .fin a m e, .fin b n f => .fin (a != b) (m * n) (e + f)

/-- IEEE 754 order, in which −0 equals +0: none when unordered (R173). -/
def Val.cmp : Val → Val → Option Ordering
  | .nan _ _, _ => none
  | _, .nan _ _ => none
  | .inf a, .inf b => some (if a == b then .eq else if a then .lt else .gt)
  | .inf a, .fin _ _ _ => some (if a then .lt else .gt)
  | .fin _ _ _, .inf b => some (if b then .gt else .lt)
  | .fin n1 m1 e1, .fin n2 m2 e2 =>
    let e := min e1 e2
    some (compare (atExp n1 m1 e1 e) (atExp n2 m2 e2 e))

/-! ## Sums (R71-R74) -/

/-- One level of the truss (R72): neighbours added, an odd last member carried up. -/
def trussLevel (add : Val → Val → Val) : List Val → List Val
  | a :: b :: r => add a b :: trussLevel add r
  | l => l

def trussFuel (add : Val → Val → Val) : Nat → List Val → Val
  | _, [] => .zero
  | _, [a] => a
  | 0, a :: _ => a
  | n + 1, l => trussFuel add n (trussLevel add l)

/-- The truss with the given addition. -/
def trussBy (add : Val → Val → Val) (l : List Val) : Val := trussFuel add l.length l

def addRne (a b : Val) : Val := rneV (a.add .rne b)

/-- truss_sum (R72). -/
def trussSum (l : List Val) : Val := trussBy addRne l

/-- A list cut into groups of g. -/
def chunksOf {α : Type} (g : Nat) : Nat → List α → List (List α)
  | 0, _ => []
  | _, [] => []
  | n + 1, l => l.take g :: chunksOf g n (l.drop g)

/-- sum_shape(shape, acc, products) (R73, R74). -/
def sumShape (sh : Shape) (acc : Val) (p : List Val) : Val :=
  match sh with
  | .linear => p.foldl addRne acc
  | .tree8 => (chunksOf 8 p.length p).foldl (fun a g => addRne a (trussSum g)) acc
  | .tree64 => (chunksOf 64 p.length p).foldl (fun a g => addRne a (trussSum g)) acc
  | .exact => rneV (p.foldl (fun a b => a.add .rne b) acc)

/-! ## The function unit (R70) -/

/-- The integer square root of n, bit by bit from bit i downwards. -/
def isqrtFrom (n : Nat) : Nat → Nat → Nat
  | 0, r => r
  | i + 1, r =>
    let c := r + 2 ^ i
    isqrtFrom n i (if c * c ≤ n then c else r)

def isqrt (n : Nat) : Nat := isqrtFrom n (bitLen n / 2 + 1) 0

/-- √(m × 2^e) with a sticky bit below. -/
def sqrtVal (m : Nat) (e : Int) : Val :=
  let e2 := e - 64 - (e % 2)
  let n := m * 2 ^ (e - e2).toNat
  let r := isqrt n
  .fin false (2 * r + (if r * r = n then 0 else 1)) (e2 / 2 - 1)

/-- 1 / (m × 2^e) with a sticky bit below. -/
def rcpVal (neg : Bool) (m : Nat) (e : Int) : Val :=
  let n := 2 ^ (bitLen m + 40)
  .fin neg (2 * (n / m) + (if n % m = 0 then 0 else 1)) (-(bitLen m + 40 : Nat) - e - 1)

/-- 1 / √(m × 2^e) with a sticky bit below. -/
def rsqrtVal (m : Nat) (e : Int) : Val :=
  let odd := (e % 2).toNat
  let m := m * 2 ^ odd
  let e := e - odd
  let k := bitLen m + 40
  let r := isqrt (2 ^ (2 * k) / m)
  .fin false (2 * r + (if r * r * m = 2 ^ (2 * k) then 0 else 1)) (-(k : Int) - e / 2 - 1)

/-- Fraction bits of the fixed-point arithmetic below. A correctly rounded FP32 result needs far fewer (log entry 71). -/
def fxBits : Nat := 800
def fxOne : Nat := 2 ^ fxBits

/-- Σ t^(2i+1) / (2i+1), the terms' signs alternating or not, for t = num / den in fixed point. -/
def oddSeries (alt : Bool) (t2 : Nat) : Nat → Nat → Nat → Bool → Int
  | 0, _, _, _ => 0
  | n + 1, i, pow, neg =>
    (if neg then -((pow / (2 * i + 1) : Nat) : Int) else (pow / (2 * i + 1) : Nat))
      + oddSeries alt t2 n (i + 1) (pow * t2 / fxOne) (if alt then !neg else false)

/-- atan(1/k) and atanh in fixed point. -/
def fxAtan (t : Nat) : Nat := (oddSeries true (t * t / fxOne) 400 0 t false).toNat
def fxAtanh (t : Nat) : Nat := (oddSeries false (t * t / fxOne) 400 0 t false).toNat

def fxPi : Nat := 16 * fxAtan (fxOne / 5) - 4 * fxAtan (fxOne / 239)
def fxLn2 : Nat := 2 * fxAtanh (fxOne / 3)

/-- Σ (±r)^i / i! in fixed point. -/
def expSeries (r : Nat) : Nat → Nat → Nat → Bool → Bool → Int
  | 0, _, _, _, _ => 0
  | n + 1, i, term, alt, neg =>
    (if neg then -(term : Int) else term) + expSeries r n (i + 1) (term * r / fxOne / (i + 1)) alt (if alt then !neg else false)

def fxExp (r : Nat) : Nat := (expSeries r 200 0 fxOne false false).toNat

/-- e^(−y) in fixed point for y ≥ 0. -/
def fxExpNeg (y : Nat) : Nat :=
  let k := y / fxLn2
  let r := y % fxLn2
  (expSeries r 200 0 fxOne true false).toNat / 2 ^ k

/-- Σ (−1)^i r^(2i+1) / (2i+1)!. -/
def sinSeries (r2 : Nat) : Nat → Nat → Nat → Bool → Int
  | 0, _, _, _ => 0
  | n + 1, i, term, neg =>
    (if neg then -(term : Int) else term) + sinSeries r2 n (i + 1) (term * r2 / fxOne / ((2 * i + 2) * (2 * i + 3))) (!neg)

/-- sin of r in [0, 2π), in fixed point: its sign and magnitude. -/
def fxSin (r : Nat) : Bool × Nat :=
  let neg := fxPi < r
  let r := if neg then r - fxPi else r
  let r := if fxPi < 2 * r then fxPi - r else r
  (neg, (sinSeries (r * r / fxOne) 120 0 r false).toNat)

/-- An irrational magnitude from its fixed-point approximation: a sticky bit keeps it off every tie. -/
def stickyVal (neg : Bool) (x : Nat) (e : Int) : Val := .fin neg (2 * x + 1) (e - fxBits - 1)

/-- |m × 2^e| in fixed point; FP32's least exponent is −149. -/
def toFx (m : Nat) (e : Int) : Nat := if 0 ≤ e + fxBits then m * 2 ^ (e + fxBits).toNat else m / 2 ^ (-(e + fxBits)).toNat

def exp2Val (neg : Bool) (m : Nat) (e : Int) : Val :=
  if m = 0 then .fin false 1 0
  else if 10 ≤ e + bitLen m then (if neg then .fin false 1 (-1000) else .fin false 1 1000)
  else
    let x : Int := if neg then -(toFx m e : Int) else toFx m e
    let n := Int.fdiv x fxOne
    let f := (x - n * fxOne).toNat
    if f = 0 then .fin false 1 n else stickyVal false (fxExp (f * fxLn2 / fxOne)) n

def log2Val (m : Nat) (e : Int) : Val :=
  let s : Int := e + bitLen m - 1
  if m = 2 ^ (bitLen m - 1) then .ofInt s
  else
    let y := m * 2 ^ (fxBits - (bitLen m - 1))
    let t := (y - fxOne) * fxOne / (y + fxOne)
    let v : Int := s * fxOne + (2 * fxAtanh t * fxOne / fxLn2 : Nat)
    stickyVal (v < 0) v.natAbs 0

def tanhVal (neg : Bool) (m : Nat) (e : Int) : Val :=
  if m = 0 then .fin neg 0 0
  else if 7 ≤ e + bitLen m then .fin neg (2 ^ 100 - 1) (-100)
  else
    let w := fxExpNeg (2 * toFx m e)
    stickyVal neg ((fxOne - w) * fxOne / (fxOne + w)) 0

def sigmVal (neg : Bool) (m : Nat) (e : Int) : Val :=
  if m = 0 then .fin false 1 (-1)
  else if 9 ≤ e + bitLen m then (if neg then .fin false 1 (-1000) else .fin false (2 ^ 100 - 1) (-100))
  else
    let w := fxExpNeg (toFx m e)
    stickyVal false ((if neg then w else fxOne) * fxOne / (fxOne + w)) 0

def sinVal (neg : Bool) (m : Nat) (e : Int) : Val :=
  if m = 0 then .fin neg 0 0
  else
    let (n2, v) := fxSin (toFx m e % (2 * fxPi))
    stickyVal (neg != n2) v 0

/-- VFUN's functions before their rounding (R70, R184). -/
def vfunVal (fn : FunCode) (x : Val) : Val :=
  match fn, x with
  | _, .nan _ _ => .qnan
  | .exp2, .inf neg => if neg then .zero else .inf false
  | .exp2, .fin n m e => exp2Val n m e
  | .log2, .inf neg => if neg then .qnan else .inf false
  | .log2, .fin n m e => if m = 0 then .inf true else if n then .qnan else log2Val m e
  | .rcp, .inf neg => .fin neg 0 0
  | .rcp, .fin n m e => if m = 0 then .inf n else rcpVal n m e
  | .rsqrt, .inf neg => if neg then .qnan else .zero
  | .rsqrt, .fin n m e => if m = 0 then .inf n else if n then .qnan else rsqrtVal m e
  | .sqrt, .inf neg => if neg then .qnan else .inf false
  | .sqrt, .fin n m e => if m = 0 then .fin n 0 0 else if n then .qnan else sqrtVal m e
  | .tanh, .inf neg => .fin neg 1 0
  | .tanh, .fin n m e => tanhVal n m e
  | .sigm, .inf neg => if neg then .zero else .fin false 1 0
  | .sigm, .fin n m e => sigmVal n m e
  | .sin, .inf _ => .qnan
  | .sin, .fin n m e => sinVal n m e

/-- VFUN on one lane: only SQRT reads the rounding mode (R184). -/
def vfun (fn : FunCode) (rm : RM) (x : Val) : W32 := roundFp32 (if fn = .sqrt then rm else .rne) (vfunVal fn x)

end Sys2Proof.Machine
end

