-- ==== Sys2Proof/Machine/Flags.lean ====
section
/-! DEFINITION. Comparisons and logic functions that write predicates and masks (R158, R169, R173, R186, R187). The hardware has no
flag register; STICKY (R156) is set through `Commit.sticky`. -/

namespace Sys2Proof.Machine

/-- The integer comparisons of R169 on n-bit patterns. -/
def compareInt (n : Nat) (cc : ICC) (a b : Nat) : Bool :=
  let x := a % 2 ^ n
  let y := b % 2 ^ n
  let sx := toSigned n a
  let sy := toSigned n b
  match cc with
  | .eq => x == y
  | .ne => x != y
  | .lt => decide (sx < sy)
  | .le => decide (sx ≤ sy)
  | .gt => decide (sy < sx)
  | .ge => decide (sy ≤ sx)
  | .ltn => decide (x < y)
  | .len => decide (x ≤ y)
  | .gtn => decide (y < x)
  | .gen => decide (y ≤ x)

/-- The floating comparisons of R173. -/
def compareFp (cc : FCC) (x y : Val) : Bool :=
  match x.cmp y, cc with
  | none, .ne => true
  | none, .un => true
  | none, _ => false
  | some _, .un => false
  | some _, .ord => true
  | some o, .eq => o == .eq
  | some o, .ne => o != .eq
  | some o, .lt => o == .lt
  | some o, .le => o != .gt
  | some o, .gt => o == .gt
  | some o, .ge => o != .lt

/-- The comparisons of tapered codes (R54, R186): codes compare as two's complement integers. -/
def compareTap (n : Nat) (cc : TCC) (a b : Nat) : Bool :=
  compareInt n (match cc with
    | .eq => .eq
    | .ne => .ne
    | .lt => .lt
    | .le => .le
    | .gt => .gt
    | .ge => .ge) a b

/-- FN[2a + b]: any function of two bits (R158). -/
def logicFn (fn : BitVec 4) (a b : Bool) : Bool := fn.getLsbD (2 * a.toNat + b.toNat)

/-- The combination of a compare's result with the old mask bit (R186). -/
def maskCombine (w : MaskOp) (old r : Bool) : Bool :=
  match w with
  | .set => r
  | .and => old && r
  | .or => old || r

/-- STICKY.RSVD and STICKY.WOOB (R156). -/
def stickyRsvd : BitVec 2 := 1
def stickyWoob : BitVec 2 := 2

end Sys2Proof.Machine
end

