-- ==== Sys2Proof/WellFormed.lean ====
section
/-! DEFINITION. Which slot operations an encoding can hold: the limits that the operand types do not state (R119, R180-R239, R371-R384). -/

namespace Sys2Proof

/-- A target that rounds to nearest only (R65). -/
def Fmt.tapered : Fmt → Bool
  | .tap32 | .tap16 | .tap8 => true
  | _ => false

/-- SF, DF and RM of SCVT and VCVT (R65, R174). -/
def cvtWf (sf df : Fmt) (rm : RM) : Bool := sf != .tri5 && df != .tri5 && df != .tri2 && (!df.tapered || rm == .rne)

/-- The narrow formats of VPACK (R190). -/
def Fmt.narrow : Fmt → Bool
  | .bf16 | .fp16 | .tap16 | .i16 | .tap8 | .i8 => true
  | _ => false
def Fmt.wide : Fmt → Bool
  | .raw32 | .fp32 | .tap32 => true
  | _ => false
def Fmt.is16 : Fmt → Bool
  | .bf16 | .fp16 | .tap16 | .i16 => true
  | _ => false

/-- A field of a bitfield operation fits 64 bits; LEN = 0 stands for 64 (R170). -/
def bfWf (pos len : Fin 64) : Bool := pos.val + (if len.val = 0 then 64 else len.val) ≤ 64

/-- TC and TAGX with SP 0 only; ORD and SCO with SP 2 only (R201, R202). -/
def lsWf (sp : Space) (tc : Bool) (tagx : Fin 16) (ord : Ord) (sco : Scope) : Bool :=
  (sp == .localS || (!tc && tagx == 0)) && (sp == .device || (ord == .plain && sco == .task))

def tileWf (t : TileIx) : Bool := t.val < 384
def awWf (aw : Window) : Bool := aw.val ≤ 56
def xaWf (row : Fin 512) (col ncol : Fin 64) (nrow : Fin 128) : Bool :=
  row.val + nrow.val + 1 ≤ 512 && col.val + ncol.val + 1 ≤ 64 && (nrow.val + 1) * (ncol.val + 1) ≤ 2048
def opkSz (opk : Opk) (wide : Bool) : Bool := !((opk == .fadd32 || opk == .faddbf) && wide)

/-- The operations that an encoding admits; a step that no slot encodes is not well formed. -/
def Instr.wf : Instr → Bool
  | .loop _ n => n.val != 0
  | .bfx _ _ p l => bfWf p l
  | .bfi _ _ _ p l => bfWf p l
  | .scvt _ _ sf df rm _ => cvtWf sf df rm
  | .vcvt _ _ sf df rm _ _ => cvtWf sf df rm
  | .vpack _ _ sf df rm _ p => sf.wide && df.narrow && (!df.tapered || rm == .rne) && !(df.is16 && p.val ≥ 2)
  | .vunpk _ _ sf df rm _ p => sf.narrow && df.wide && (!df.tapered || rm == .rne) && !(sf.is16 && p.val ≥ 2)
  | .vshuf _ _ vb fn k _ =>
    match fn with
    | .rot | .bcastl | .xorsw => vb == 0
    | .slidedn | .slideup => true
    | .ziplo | .ziphi | .unzipe | .unzipo => k == 0
    | .rev => vb == 0 && k == 0
  | .mma aw _ _ _ _ _ => awWf aw
  | .mmt aw _ _ _ _ _ => awWf aw
  | .aclr aw => awWf aw
  | .agive aw => awWf aw
  | .ald r c nc nr _ => xaWf r c nc nr
  | .acpy r c nc nr _ => xaWf r c nc nr
  | .drain aw _ nrow df rm _ scl a =>
    awWf aw && aw.val * 8 + nrow.val ≤ 511 && nrow.val ≤ 63 && df != .tri2 && df != .tri5 && (!df.tapered || rm == .rne)
      && (scl.toNat / 2 != 0 || a == 0)
  | .ld _ _ _ sz sg sp tc tagx ord sco => lsWf sp tc tagx ord sco && !(sz == .b8 && sg)
  | .st _ _ _ _ sp tc tagx ord sco => lsWf sp tc tagx ord sco
  | .vld _ _ _ _ _ sp tc tagx => sp == .localS || (!tc && tagx == 0)
  | .vst _ _ _ _ _ sp tc tagx => sp == .localS || (!tc && tagx == 0)
  | .ldw _ _ _ sz sg => !(sz == .b8 && sg)
  | .give t _ n => tileWf t && 1 ≤ n.val && n.val ≤ 64
  | .tagrd _ t => tileWf t
  | .tfmt t _ => tileWf t
  | .atom _ _ _ c opk w sp sco => (opk == .cas || c == 0) && opkSz opk w && (sp == .device || sco == .task)
  | .atomd _ _ opk w _ => opk != .xchg && opk != .cas && opkSz opk w
  | .casw d _ x y four _ =>
    d.val + 2 * four.toNat + 1 ≤ 63 && x.val + 2 * four.toNat + 1 ≤ 63 && y.val + 2 * four.toNat + 1 ≤ 63
  | .chase _ _ cnt _ => cnt.val != 0
  | .ratom d _ _ _ opk w => opk != .cas && !(opk == .xchg && d == 0) && opkSz opk w
  | .sendt t _ => tileWf t
  | .recvt t _ _ => tileWf t
  | .qsend _ _ nrow => nrow.val ≤ 15
  | .ksrch _ _ _ inc => inc.val != 0
  | .kred _ _ _ inc => inc.val != 0
  | .kop _ _ _ inc => inc.val != 0
  | .bundleNullified _ | .fixedLatencyResult _ | .heldBundleIssue _ | .variableLatencyReply _ | .timingTrap _
  | .segmentExpansion _ | .alignComplete | .clusterAccessPerformed _ | .tileUnitArrival _ _ | .deferredReport _ | .nodeEnd
  | .storeEntersPort _ | .storePerformed _ | .wqAtomicPerformed _ | .mergeEntryClose _ | .chaseHopForward _
  | .accessCountWindow | .aggElementEntry _ | .aggBufferAgeTimeout _ | .aggPacketApply _ | .aggAckReceived _
  | .operationPacketReceived _ _ | .opPacketResendTimeout _ | .aggPacketResendTimeout _ | .missingSeqHoldTimeout _ _ _
  | .migreq _ | .migrationHold | .migrationComplete | .routerSlot _ _ | .wireFlitReceived _ _ _ | .nakReceived _
  | .ackReceived _ | .ackTimer _ | .replayTimer _ | .linkTrainingComplete _ | .retrainTimeout _ | .deadNotifyTimer _
  | .alignFlitReceived _ | .messageTagCheck _ | .reRequestTimer _ | .reRequestReceived _ _ | .repairCopyReceived _
  | .deliveryConfirmationReceived _ | .abortFlitReceived | .collAccept _ | .collMessageReceived | .collPatienceExpiry
  | .copyCommandAccept _ | .copyChunk _ | .followOn _ | .kredAccept _ | .kredChunk _ | .kopAccept _ | .kopBankRun _
  | .ksrchAccept _ | .distanceRequest _ _ | .distanceReply _ _ | .rvk _ | .xlinv _ | .graphStartStore _ _ | .graphStart
  | .gctl _ _ | .saveComplete | .hostAtomicop _ _ _ _ | .hostBar2Read _ _ | .hostBar2Write _ _ | .prgResponse _ _
  | .atsInvalidation _ _ | .getVersion | .getCapabilities | .negotiateAlgorithms _ | .getDigests | .getCertificate _ _ _
  | .challenge _ _ | .getMeasurements _ _ _ | .bootFirmwareVerify _ _ | .serviceLevelChange _ | .coldReset | .warmReset
  | .clockChange _ _ | .patrolScrub _ _ _ | .ceWindow _ | .bpladd _ | .bplCommit | .lnkctlRetrain _ | .lnkctlDown _
  | .scrctlFreeze | .scrctlFrozen | .registerWrite _ _ | .pageWalkComplete _ _ _ _ | .restoreComplete => false
  | _ => true

end Sys2Proof
end

