-- ==== Sys2Proof/Decode.lean ====
section
/-! DEFINITION. From bits to operations and back: slots (R117, R120-R125), field codes (R126), the opcode map (R127, R128),
bundles (R115, R116), code words (R105, R107), and the encoding checks of R129, R130 and R372-R385. -/

namespace Sys2Proof

/-! ## Field codes (R49, R126) -/

def Fmt.code : Fmt → Nat
  | .raw32 => 0 | .fp32 => 1 | .bf16 => 2 | .fp16 => 3 | .tap32 => 4 | .tap16 => 5 | .tap8 => 6
  | .i16 => 7 | .i8 => 8 | .tri2 => 9 | .tri5 => 10

def Fmt.ofCode : Nat → Option Fmt
  | 0 => some .raw32 | 1 => some .fp32 | 2 => some .bf16 | 3 => some .fp16 | 4 => some .tap32 | 5 => some .tap16
  | 6 => some .tap8 | 7 => some .i16 | 8 => some .i8 | 9 => some .tri2 | 10 => some .tri5 | _ => none

def RM.code : RM → Nat | .rne => 0 | .rtz => 1 | .rup => 2 | .rdn => 3
def RM.ofCode : Nat → RM | 0 => .rne | 1 => .rtz | 2 => .rup | _ => .rdn

def OV.code : OV → Nat | .sat => 0 | .inf => 1 | .nan => 2 | .trap => 3
def OV.ofCode : Nat → OV | 0 => .sat | 1 => .inf | 2 => .nan | _ => .trap

def ICC.code : ICC → Nat
  | .eq => 0 | .ne => 1 | .lt => 2 | .le => 3 | .gt => 4 | .ge => 5 | .ltn => 6 | .len => 7 | .gtn => 8 | .gen => 9
def ICC.ofCode : Nat → Option ICC
  | 0 => some .eq | 1 => some .ne | 2 => some .lt | 3 => some .le | 4 => some .gt | 5 => some .ge | 6 => some .ltn
  | 7 => some .len | 8 => some .gtn | 9 => some .gen | _ => none

def FCC.code : FCC → Nat
  | .eq => 0 | .ne => 1 | .lt => 2 | .le => 3 | .gt => 4 | .ge => 5 | .un => 10 | .ord => 11
def FCC.ofCode : Nat → Option FCC
  | 0 => some .eq | 1 => some .ne | 2 => some .lt | 3 => some .le | 4 => some .gt | 5 => some .ge | 10 => some .un
  | 11 => some .ord | _ => none

def TCC.code : TCC → Nat | .eq => 0 | .ne => 1 | .lt => 2 | .le => 3 | .gt => 4 | .ge => 5
def TCC.ofCode : Nat → Option TCC
  | 0 => some .eq | 1 => some .ne | 2 => some .lt | 3 => some .le | 4 => some .gt | 5 => some .ge | _ => none

/-- TY and FN[0] of an integer VV instruction (R176). -/
def ITy.codes : ITy → Nat × Nat
  | .i32 => (1, 0) | .n32 => (2, 0) | .i16p => (3, 0) | .n16p => (3, 1) | .i8q => (4, 0) | .n8q => (4, 1)
def ITy.ofCodes : Nat → Nat → Option ITy
  | 1, _ => some .i32 | 2, _ => some .n32 | 3, 0 => some .i16p | 3, _ => some .n16p | 4, 0 => some .i8q
  | 4, _ => some .n8q | _, _ => none

def STy.code : STy → Nat | .i32 => 1 | .n32 => 2 | .i16p => 3 | .i8q => 4
def STy.ofCode : Nat → Option STy | 1 => some .i32 | 2 => some .n32 | 3 => some .i16p | 4 => some .i8q | _ => none

def BTy.code : BTy → Nat | .b32 => 1 | .b16 => 3 | .b8 => 4
def BTy.ofCode : Nat → Option BTy | 1 => some .b32 | 3 => some .b16 | 4 => some .b8 | _ => none

def TTy.code : TTy → Nat | .tap32 => 1 | .tap16 => 3 | .tap8 => 4
def TTy.ofCode : Nat → Option TTy | 1 => some .tap32 | 3 => some .tap16 | 4 => some .tap8 | _ => none

def MaskOp.code : MaskOp → Nat | .set => 0 | .and => 1 | .or => 2
def MaskOp.ofCode : Nat → Option MaskOp | 0 => some .set | 1 => some .and | 2 => some .or | _ => none

def FunCode.code : FunCode → Nat
  | .exp2 => 0 | .log2 => 1 | .rcp => 2 | .rsqrt => 3 | .sqrt => 4 | .tanh => 5 | .sigm => 6 | .sin => 7
def FunCode.ofCode : Nat → Option FunCode
  | 0 => some .exp2 | 1 => some .log2 | 2 => some .rcp | 3 => some .rsqrt | 4 => some .sqrt | 5 => some .tanh
  | 6 => some .sigm | 7 => some .sin | _ => none

def ShufFn.code : ShufFn → Nat
  | .rot => 0 | .slidedn => 1 | .slideup => 2 | .bcastl => 3 | .xorsw => 4 | .ziplo => 5 | .ziphi => 6 | .unzipe => 7
  | .unzipo => 8 | .rev => 9
def ShufFn.ofCode : Nat → Option ShufFn
  | 0 => some .rot | 1 => some .slidedn | 2 => some .slideup | 3 => some .bcastl | 4 => some .xorsw | 5 => some .ziplo
  | 6 => some .ziphi | 7 => some .unzipe | 8 => some .unzipo | 9 => some .rev | _ => none

def RedFn.code : RedFn → Nat | .add => 0 | .min => 1 | .max => 2 | .and => 3 | .or => 4 | .xor => 5
def RedFn.ofCode : Nat → Option RedFn
  | 0 => some .add | 1 => some .min | 2 => some .max | 3 => some .and | 4 => some .or | 5 => some .xor | _ => none

def FRedFn.code : FRedFn → Nat | .add => 0 | .min => 1 | .max => 2
def FRedFn.ofCode : Nat → Option FRedFn | 0 => some .add | 1 => some .min | 2 => some .max | _ => none

def Shape.code : Shape → Nat | .linear => 0 | .tree8 => 1 | .tree64 => 2 | .exact => 3
def Shape.ofCode : Nat → Shape | 0 => .linear | 1 => .tree8 | 2 => .tree64 | _ => .exact

def Space.code : Space → Nat | .localS => 0 | .cluster => 1 | .device => 2
def Space.ofCode : Nat → Option Space | 0 => some .localS | 1 => some .cluster | 2 => some .device | _ => none

def Scope.code : Scope → Nat | .task => 0 | .cl => 1 | .dev => 2 | .dom => 3 | .sys => 4
def Scope.ofCode : Nat → Option Scope
  | 0 => some .task | 1 => some .cl | 2 => some .dev | 3 => some .dom | 4 => some .sys | _ => none

def Ord.code : Ord → Nat | .plain => 0 | .acqRel => 1 | .strong => 2
def Ord.ofCode : Nat → Option Ord | 0 => some .plain | 1 => some .acqRel | 2 => some .strong | _ => none

def Opk.code : Opk → Nat
  | .add => 0 | .min => 1 | .max => 2 | .minn => 3 | .maxn => 4 | .and => 5 | .or => 6 | .xor => 7 | .xchg => 8
  | .cas => 9 | .fadd32 => 10 | .faddbf => 11
def Opk.ofCode : Nat → Option Opk
  | 0 => some .add | 1 => some .min | 2 => some .max | 3 => some .minn | 4 => some .maxn | 5 => some .and
  | 6 => some .or | 7 => some .xor | 8 => some .xchg | 9 => some .cas | 10 => some .fadd32 | 11 => some .faddbf
  | _ => none

def FenceKind.code : FenceKind → Nat | .full => 0 | .acq => 1 | .rel => 2
def FenceKind.ofCode : Nat → Option FenceKind | 0 => some .full | 1 => some .acq | 2 => some .rel | _ => none

def Size.code : Size → Nat | .b1 => 0 | .b2 => 1 | .b4 => 2 | .b8 => 3
def Size.ofCode : Nat → Option Size | 0 => some .b1 | 1 => some .b2 | 2 => some .b4 | 3 => some .b8 | _ => none

def SlotClass.index : SlotClass → Nat | .c => 0 | .a => 1 | .v => 2 | .x => 3 | .l => 4 | .f => 5

/-! ## Fields of a body -/

/-- The field of width `w` whose lowest bit is `lo` (R2: x[lo+w-1 : lo]). -/
def fld (b lo w : Nat) : Nat := b / 2 ^ lo % 2 ^ w

def sr (b lo : Nat) : SReg := Fin.ofNat 64 (b / 2 ^ lo)
def pr (b lo : Nat) : PReg := Fin.ofNat 16 (b / 2 ^ lo)
def vr (b lo : Nat) : VReg := Fin.ofNat 32 (b / 2 ^ lo)
def mr (b lo : Nat) : MReg := Fin.ofNat 8 (b / 2 ^ lo)
def tr (b lo : Nat) : TReg := Fin.ofNat 16 (b / 2 ^ lo)
def bv (w b lo : Nat) : BitVec w := BitVec.ofNat w (b / 2 ^ lo)
def bitAt (b lo : Nat) : Bool := b / 2 ^ lo % 2 == 1
def rmAt (b lo : Nat) : RM := RM.ofCode (fld b lo 2)
def ovAt (b lo : Nat) : OV := OV.ofCode (fld b lo 2)
def fmtAt (b lo : Nat) : Fmt := (Fmt.ofCode (fld b lo 4)).getD .raw32

/-- What one body says: the fields its operation uses, the coded fields with whether the code is accepted, the
ranged fields with whether the value lies in range (R375), and the operation. A field is (lowest bit, width). -/
structure Row where
  used : List (Nat × Nat)
  codes : List (Nat × Nat × Bool) := []
  ranges : List (Nat × Nat × Bool) := []
  op : Instr

/-- The bits of a body that the used fields cover, in place. -/
def usedBits (b : Nat) : List (Nat × Nat) → Nat
  | [] => 0
  | (lo, w) :: r => fld b lo w * 2 ^ lo + usedBits b r

/-- The failing field with the lowest bit (R130). -/
def lowestBad : List (Nat × Nat × Bool) → Option (Nat × Nat)
  | [] => none
  | (lo, w, ok) :: r =>
    match ok, lowestBad r with
    | true, t => t
    | false, none => some (lo, w)
    | false, some (lo', w') => if lo ≤ lo' then some (lo, w) else some (lo', w')

/-- A code is accepted: CC, formats and the like (R126, R384). -/
def okc {α : Type} (o : Option α) : Bool := o.isSome

def isTap : Fmt → Bool
  | .tap32 | .tap16 | .tap8 => true
  | _ => false

/-! ## The rows of the opcode map (R127), by class -/

def rowC0 (i : Instr) : Row := { used := [], op := i }

def rowC (op b : Nat) : Option Row :=
  match op with
  | 0x00 => some (rowC0 .nop)
  | 0x01 => some { used := [(16, 32)], op := .br (bv 32 b 16) }
  | 0x02 => some { used := [(16, 32)], op := .call (bv 32 b 16) }
  | 0x03 => some { used := [(42, 6)], op := .bri (sr b 42) }
  | 0x04 => some (rowC0 .ret)
  | 0x05 => some { used := [(42, 6), (32, 10)], ranges := [(32, 10, fld b 32 10 != 0)], op := .loop (sr b 42) (Fin.ofNat 1024 (b / 2 ^ 32)) }
  | 0x06 => some (rowC0 .endt)
  | 0x07 => some (rowC0 .align)
  | 0x08 => some { used := [(40, 1)], op := .sstep (bitAt b 40) }
  | 0x09 => some { used := [(43, 5), (40, 3)], codes := [(43, 5, okc (FenceKind.ofCode (fld b 43 5))), (40, 3, okc (Scope.ofCode (fld b 40 3)))], op := .fence ((FenceKind.ofCode (fld b 43 5)).getD .full) ((Scope.ofCode (fld b 40 3)).getD .task) }
  | 0x0A => some (rowC0 .qmark)
  | 0x0B => some (if bitAt b 44 then { used := [(45, 3), (44, 1), (38, 6)], op := .waitcReg (Fin.ofNat 8 (b / 2 ^ 45)) (sr b 38) } else { used := [(45, 3), (44, 1), (0, 38)], op := .waitcImm (Fin.ofNat 8 (b / 2 ^ 45)) (bv 38 b 0) })
  | 0x0C => some { used := [(40, 8)], op := .trap (bv 8 b 40) }
  | 0x0D => some (rowC0 .rft)
  | 0x0E => some (rowC0 .rewind)
  | 0x0F => some { used := [(42, 6), (30, 12)], op := .csrr (sr b 42) (Fin.ofNat 4096 (b / 2 ^ 30)) }
  | 0x10 => some { used := [(42, 6), (30, 12)], op := .csrw (Fin.ofNat 4096 (b / 2 ^ 30)) (sr b 42) }
  | 0x11 => some { used := [(42, 6)], op := .lcrd (sr b 42) }
  | 0x12 => some { used := [(44, 4), (40, 4), (36, 4), (32, 4)], op := .plog (pr b 44) (pr b 40) (pr b 36) (bv 4 b 32) }
  | 0x13 => some { used := [(42, 6), (26, 16)], op := .movps (sr b 42) (bv 16 b 26) }
  | 0x14 => some { used := [(42, 6), (26, 16)], op := .movsp (sr b 42) (bv 16 b 26) }
  | 0x40 => some { used := [(42, 6), (36, 6), (0, 32)], op := .launch (sr b 42) (sr b 36) (bv 32 b 0) }
  | 0x41 => some { used := [(42, 6)], op := .nodew (sr b 42) }
  | 0x42 => some { used := [(42, 6), (36, 6), (0, 8)], op := .sigh (sr b 42) (sr b 36) (bv 8 b 0) }
  | 0x43 => some (rowC0 .yield)
  | 0x44 => some (rowC0 .gdone)
  | _ => none

def a3 (mk : SReg → SReg → SReg → Instr) (b : Nat) : Row :=
  { used := [(42, 6), (36, 6), (30, 6)], op := mk (sr b 42) (sr b 36) (sr b 30) }
def a2 (mk : SReg → SReg → Instr) (b : Nat) : Row := { used := [(42, 6), (36, 6)], op := mk (sr b 42) (sr b 36) }
def ai (mk : SReg → SReg → BitVec 36 → Instr) (b : Nat) : Row :=
  { used := [(42, 6), (36, 6), (0, 36)], op := mk (sr b 42) (sr b 36) (bv 36 b 0) }
def ash (mk : SReg → SReg → Fin 64 → Instr) (b : Nat) : Row :=
  { used := [(42, 6), (36, 6), (0, 36)], ranges := [(0, 36, fld b 0 36 < 64)], op := mk (sr b 42) (sr b 36) (Fin.ofNat 64 b) }
/-- LEN = 0 stands for 64 (R170). -/
def bfLen (len : Nat) : Nat := if len = 0 then 64 else len
def bfRange (b : Nat) : List (Nat × Nat × Bool) := [(24, 6, fld b 30 6 + bfLen (fld b 24 6) ≤ 64)]
def asRow (mk : SReg → SReg → SReg → RM → Instr) (b : Nat) : Row :=
  { used := [(42, 6), (36, 6), (30, 6), (22, 2)], op := mk (sr b 42) (sr b 36) (sr b 30) (rmAt b 22) }

/-- The formats of a conversion that a lane or scalar conversion accepts as a source (R174). -/
def cvtSrc (n : Nat) : Bool := match Fmt.ofCode n with | none | some .tri5 => false | _ => true
/-- The formats it accepts as a target (R65). -/
def cvtDst (n : Nat) : Bool := match Fmt.ofCode n with | none | some .tri5 | some .tri2 => false | _ => true
/-- The rounding modes accepted with a target: RNE only for a tapered one (R65). -/
def cvtRm (df rm : Nat) : Bool := !((Fmt.ofCode df).any isTap && rm != 0)

def rowA (op b : Nat) : Option Row :=
  match op with
  | 0x01 => some (a3 .add b)
  | 0x02 => some (a3 .sub b)
  | 0x03 => some (ai .addi b)
  | 0x04 => some (a3 .mul b)
  | 0x05 => some (a3 .mulh b)
  | 0x06 => some (a3 .mulhn b)
  | 0x07 => some (a3 .div b)
  | 0x08 => some (a3 .divn b)
  | 0x09 => some (a3 .rem b)
  | 0x0A => some (a3 .remn b)
  | 0x0B => some (a3 .and b)
  | 0x0C => some (a3 .or b)
  | 0x0D => some (a3 .xor b)
  | 0x0E => some (ai .andi b)
  | 0x0F => some (ai .ori b)
  | 0x10 => some (ai .xori b)
  | 0x11 => some (a3 .shl b)
  | 0x12 => some (a3 .shr b)
  | 0x13 => some (a3 .sha b)
  | 0x14 => some (ash .shli b)
  | 0x15 => some (ash .shri b)
  | 0x16 => some (ash .shai b)
  | 0x17 => some (a3 .min b)
  | 0x18 => some (a3 .max b)
  | 0x19 => some (a3 .minn b)
  | 0x1A => some (a3 .maxn b)
  | 0x1B => some { used := [(42, 6), (0, 42)], op := .li (sr b 42) (bv 42 b 0) }
  | 0x1C => some { used := [(42, 6), (0, 42)], ranges := [(0, 42, fld b 0 42 < 2 ^ 22)], op := .lih (sr b 42) (bv 22 b 0) }
  | 0x1D => some { used := [(44, 4), (38, 6), (32, 6), (28, 4)], codes := [(28, 4, okc (ICC.ofCode (fld b 28 4)))], op := .cmp (pr b 44) (sr b 38) (sr b 32) ((ICC.ofCode (fld b 28 4)).getD .eq) }
  | 0x1E => some { used := [(44, 4), (38, 6), (34, 4), (0, 34)], codes := [(34, 4, okc (ICC.ofCode (fld b 34 4)))], op := .cmpi (pr b 44) (sr b 38) ((ICC.ofCode (fld b 34 4)).getD .eq) (bv 34 b 0) }
  | 0x1F => some { used := [(42, 6), (36, 6), (30, 6), (24, 4)], op := .sel (sr b 42) (sr b 36) (sr b 30) (pr b 24) }
  | 0x20 => some (a2 .clz b)
  | 0x21 => some (a2 .popc b)
  | 0x22 => some { used := [(42, 6), (36, 6), (30, 6), (24, 6)], ranges := bfRange b, op := .bfx (sr b 42) (sr b 36) (Fin.ofNat 64 (b / 2 ^ 30)) (Fin.ofNat 64 (b / 2 ^ 24)) }
  | 0x23 => some { used := [(42, 6), (36, 6), (30, 6), (24, 6), (18, 6)], ranges := bfRange b, op := .bfi (sr b 42) (sr b 36) (sr b 18) (Fin.ofNat 64 (b / 2 ^ 30)) (Fin.ofNat 64 (b / 2 ^ 24)) }
  | 0x24 => some { used := [(42, 6), (36, 6), (30, 6), (24, 6)], op := .addr (sr b 42) (sr b 36) (sr b 30) (Fin.ofNat 64 (b / 2 ^ 24)) }
  | 0x25 => some { used := [(36, 6), (30, 6)], op := .chkeq (sr b 36) (sr b 30) }
  | 0x26 => some (asRow .sfadd b)
  | 0x27 => some (asRow .sfmul b)
  | 0x28 => some { used := [(42, 6), (36, 6), (30, 6), (24, 6), (22, 2)], op := .sffma (sr b 42) (sr b 36) (sr b 30) (sr b 24) (rmAt b 22) }
  | 0x29 => some { used := [(44, 4), (38, 6), (32, 6), (28, 4)], codes := [(28, 4, okc (FCC.ofCode (fld b 28 4)))], op := .sfcmp (pr b 44) (sr b 38) (sr b 32) ((FCC.ofCode (fld b 28 4)).getD .eq) }
  | 0x2A => some { used := [(42, 6), (36, 6), (32, 4), (28, 4), (26, 2), (24, 2)], codes := [(32, 4, cvtSrc (fld b 32 4)), (28, 4, cvtDst (fld b 28 4)), (26, 2, cvtRm (fld b 28 4) (fld b 26 2))], op := .scvt (sr b 42) (sr b 36) (fmtAt b 32) (fmtAt b 28) (rmAt b 26) (ovAt b 24) }
  | _ => none

/-- Integer VV (R180, R181): FN[0] is used only with TY 3 and 4. -/
def vvi (mk : VReg → VReg → VReg → MReg → ITy → Instr) (b : Nat) : Row :=
  { used := [(43, 5), (38, 5), (33, 5), (25, 3), (22, 3)] ++ (if fld b 22 3 = 1 ∨ fld b 22 3 = 2 then [] else [(16, 1)]),
    codes := [(22, 3, okc (ITy.ofCodes (fld b 22 3) (fld b 16 1)))],
    op := mk (vr b 43) (vr b 38) (vr b 33) (mr b 25) ((ITy.ofCodes (fld b 22 3) (fld b 16 1)).getD .i32) }
/-- FP32 VV with two sources (R183). -/
def vvf (mk : VReg → VReg → VReg → MReg → BitVec 3 → RM → Instr) (b : Nat) : Row :=
  { used := [(43, 5), (38, 5), (33, 5), (25, 3), (22, 3), (12, 3), (10, 2)], codes := [(22, 3, fld b 22 3 == 0)],
    op := mk (vr b 43) (vr b 38) (vr b 33) (mr b 25) (bv 3 b 12) (rmAt b 10) }
def vvfm (mk : VReg → VReg → VReg → MReg → BitVec 3 → Instr) (b : Nat) : Row :=
  { used := [(43, 5), (38, 5), (33, 5), (25, 3), (22, 3), (12, 3)], codes := [(22, 3, fld b 22 3 == 0)],
    op := mk (vr b 43) (vr b 38) (vr b 33) (mr b 25) (bv 3 b 12) }
def vsi (mk : VReg → VReg → SReg → MReg → STy → Instr) (b : Nat) : Row :=
  { used := [(43, 5), (38, 5), (32, 6), (29, 3), (26, 3)], codes := [(26, 3, okc (STy.ofCode (fld b 26 3)))],
    op := mk (vr b 43) (vr b 38) (sr b 32) (mr b 29) ((STy.ofCode (fld b 26 3)).getD .i32) }
def vsf (mk : VReg → VReg → SReg → MReg → BitVec 3 → RM → Instr) (b : Nat) : Row :=
  { used := [(43, 5), (38, 5), (32, 6), (29, 3), (26, 3), (22, 3), (20, 2)], codes := [(26, 3, fld b 26 3 == 0)],
    op := mk (vr b 43) (vr b 38) (sr b 32) (mr b 29) (bv 3 b 22) (rmAt b 20) }

/-- The narrow formats of VPACK and VUNPK (R190). -/
def narrowF (n : Nat) : Bool :=
  match Fmt.ofCode n with
  | some .bf16 | some .fp16 | some .tap16 | some .i16 | some .tap8 | some .i8 => true
  | _ => false
/-- Their 32-bit formats. -/
def wideF (n : Nat) : Bool := match Fmt.ofCode n with | some .raw32 | some .fp32 | some .tap32 => true | _ => false
def is16 (n : Nat) : Bool := match Fmt.ofCode n with | some .bf16 | some .fp16 | some .tap16 | some .i16 => true | _ => false

def vpk (mk : VReg → VReg → Fmt → Fmt → RM → OV → Fin 4 → Instr) (srcOk dstOk : Nat → Bool) (narrow b : Nat) : Row :=
  { used := [(43, 5), (38, 5), (34, 4), (30, 4), (28, 2), (26, 2), (23, 1), (22, 1)],
    codes := [(34, 4, srcOk (fld b 34 4)), (30, 4, dstOk (fld b 30 4)), (28, 2, cvtRm (fld b 30 4) (fld b 28 2))],
    ranges := [(23, 3, !(is16 narrow && fld b 23 1 == 1))],
    op := mk (vr b 43) (vr b 38) (fmtAt b 34) (fmtAt b 30) (rmAt b 28) (ovAt b 26) (Fin.ofNat 4 (b / 2 ^ 22)) }

/-- VSHUF uses VB only in FN 1, 2 and 5-8, and K only in FN 0-4 (R194). An unassigned FN leaves both used. -/
def shufUsesVB (fn : Nat) : Bool := fn == 1 || fn == 2 || (5 ≤ fn && fn ≤ 8) || fn ≥ 10
def shufUsesK (fn : Nat) : Bool := fn ≤ 4 || fn ≥ 10

def rowV (op b : Nat) : Option Row :=
  match op with
  | 0x01 => some (vvi .vadd b)
  | 0x02 => some (vvi .vsub b)
  | 0x03 => some (vvi .vmul b)
  | 0x04 => some (vvi .vmulh b)
  | 0x05 => some (vvi .vmin b)
  | 0x06 => some (vvi .vmax b)
  | 0x07 => some (vvi .vand b)
  | 0x08 => some (vvi .vor b)
  | 0x09 => some (vvi .vxor b)
  | 0x0A => some (vvi .vshl b)
  | 0x0B => some (vvi .vshr b)
  | 0x0C => some (vvi .vsha b)
  | 0x0D => some { used := [(43, 5), (38, 5), (25, 3), (22, 3)] ++ (if fld b 22 3 = 1 ∨ fld b 22 3 = 2 then [] else [(16, 1)]), codes := [(22, 3, okc (ITy.ofCodes (fld b 22 3) (fld b 16 1)))], op := .vabs (vr b 43) (vr b 38) (mr b 25) ((ITy.ofCodes (fld b 22 3) (fld b 16 1)).getD .i32) }
  | 0x10 => some (vvf .vfadd b)
  | 0x11 => some (vvf .vfsub b)
  | 0x12 => some (vvf .vfmul b)
  | 0x13 => some { used := [(43, 5), (38, 5), (33, 5), (28, 5), (25, 3), (22, 3), (12, 4), (10, 2)], codes := [(22, 3, fld b 22 3 == 0)], op := .vfma (vr b 43) (vr b 38) (vr b 33) (vr b 28) (mr b 25) (bv 4 b 12) (rmAt b 10) }
  | 0x14 => some (vvfm .vfmin b)
  | 0x15 => some (vvfm .vfmax b)
  | 0x16 => some { used := [(43, 5), (38, 5), (25, 3), (22, 3), (16, 6), (12, 2), (10, 2)], codes := [(22, 3, fld b 22 3 == 0), (16, 6, okc (FunCode.ofCode (fld b 16 6)))], op := .vfun (vr b 43) (vr b 38) (mr b 25) ((FunCode.ofCode (fld b 16 6)).getD .exp2) (bv 2 b 12) (rmAt b 10) }
  | 0x18 => some (vsi .vadds b)
  | 0x19 => some (vsi .vmuls b)
  | 0x1A => some (vsf .vfadds b)
  | 0x1B => some (vsf .vfmuls b)
  | 0x1C => some { used := [(43, 5), (38, 5), (32, 6), (29, 3), (26, 3), (22, 4), (20, 2)], codes := [(26, 3, fld b 26 3 == 0)], op := .vfmas (vr b 43) (vr b 38) (sr b 32) (mr b 29) (bv 4 b 22) (rmAt b 20) }
  | 0x20 => some { used := [(45, 3), (40, 5), (35, 5), (32, 3), (29, 3), (25, 4), (23, 2)], codes := [(29, 3, fld b 29 3 == 1), (25, 4, okc (ICC.ofCode (fld b 25 4))), (23, 2, okc (MaskOp.ofCode (fld b 23 2)))], op := .vcmp (mr b 45) (vr b 40) (vr b 35) (mr b 32) ((ICC.ofCode (fld b 25 4)).getD .eq) ((MaskOp.ofCode (fld b 23 2)).getD .set) }
  | 0x21 => some { used := [(45, 3), (40, 5), (35, 5), (32, 3), (29, 3), (25, 4), (23, 2)], codes := [(29, 3, fld b 29 3 == 0), (25, 4, okc (FCC.ofCode (fld b 25 4))), (23, 2, okc (MaskOp.ofCode (fld b 23 2)))], op := .vfcmp (mr b 45) (vr b 40) (vr b 35) (mr b 32) ((FCC.ofCode (fld b 25 4)).getD .eq) ((MaskOp.ofCode (fld b 23 2)).getD .set) }
  | 0x22 => some { used := [(45, 3), (40, 5), (35, 5), (32, 3), (29, 3), (25, 4), (23, 2)], codes := [(29, 3, okc (TTy.ofCode (fld b 29 3))), (25, 4, okc (TCC.ofCode (fld b 25 4))), (23, 2, okc (MaskOp.ofCode (fld b 23 2)))], op := .vtcmp (mr b 45) (vr b 40) (vr b 35) (mr b 32) ((TTy.ofCode (fld b 29 3)).getD .tap32) ((TCC.ofCode (fld b 25 4)).getD .eq) ((MaskOp.ofCode (fld b 23 2)).getD .set) }
  | 0x23 => some { used := [(43, 5), (38, 5), (33, 5), (25, 3)], op := .vsel (vr b 43) (vr b 38) (vr b 33) (mr b 25) }
  | 0x24 => some { used := [(45, 3), (42, 3), (39, 3), (35, 4)], op := .mlog (mr b 45) (mr b 42) (mr b 39) (bv 4 b 35) }
  | 0x25 => some { used := [(42, 6), (39, 3)], op := .mpop (sr b 42) (mr b 39) }
  | 0x28 => some { used := [(43, 5), (38, 5), (34, 4), (30, 4), (28, 2), (26, 2), (23, 3)], codes := [(34, 4, cvtSrc (fld b 34 4)), (30, 4, cvtDst (fld b 30 4)), (28, 2, cvtRm (fld b 30 4) (fld b 28 2))], op := .vcvt (vr b 43) (vr b 38) (fmtAt b 34) (fmtAt b 30) (rmAt b 28) (ovAt b 26) (mr b 23) }
  | 0x29 => some (vpk .vpack wideF narrowF (fld b 30 4) b)
  | 0x2A => some (vpk .vunpk narrowF wideF (fld b 34 4) b)
  | 0x30 => some { used := [(43, 5), (38, 5), (33, 5), (18, 3)], op := .vperm (vr b 43) (vr b 38) (vr b 33) (mr b 18) }
  | 0x31 => some { used := [(43, 5), (38, 5), (27, 6), (18, 3)] ++ (if shufUsesVB (fld b 27 6) then [(33, 5)] else []) ++ (if shufUsesK (fld b 27 6) then [(21, 6)] else []), codes := [(27, 6, okc (ShufFn.ofCode (fld b 27 6)))], op := .vshuf (vr b 43) (vr b 38) (vr b 33) ((ShufFn.ofCode (fld b 27 6)).getD .rot) (Fin.ofNat 64 (b / 2 ^ 21)) (mr b 18) }
  | 0x32 => some { used := [(43, 5), (32, 6), (29, 3), (26, 3)], codes := [(26, 3, okc (BTy.ofCode (fld b 26 3)))], op := .vbcast (vr b 43) (sr b 32) (mr b 29) ((BTy.ofCode (fld b 26 3)).getD .b32) }
  | 0x33 => some { used := [(42, 6), (37, 5), (31, 6)], op := .vext (sr b 42) (vr b 37) (Fin.ofNat 64 (b / 2 ^ 31)) }
  | 0x34 => some { used := [(43, 5), (32, 6), (14, 6)], op := .vins (vr b 43) (sr b 32) (Fin.ofNat 64 (b / 2 ^ 14)) }
  | 0x35 => some { used := [(43, 5), (25, 3)], op := .viota (vr b 43) (mr b 25) }
  | 0x38 => some { used := [(42, 6), (37, 5), (34, 3), (31, 3), (27, 4)], codes := [(31, 3, fld b 31 3 == 1 || fld b 31 3 == 2), (27, 4, okc (RedFn.ofCode (fld b 27 4)))], op := .vred (sr b 42) (vr b 37) (mr b 34) (fld b 31 3 == 2) ((RedFn.ofCode (fld b 27 4)).getD .add) }
  | 0x39 => some { used := [(42, 6), (37, 5), (34, 3), (31, 3), (27, 4), (25, 2)], codes := [(31, 3, fld b 31 3 == 0), (27, 4, okc (FRedFn.ofCode (fld b 27 4)))], op := .vfred (sr b 42) (vr b 37) (mr b 34) ((FRedFn.ofCode (fld b 27 4)).getD .add) (rmAt b 25) }
  | 0x3C => some { used := [(43, 5), (41, 2)], op := .vpop (vr b 43) (Fin.ofNat 4 (b / 2 ^ 41)) }
  | 0x3D => some { used := [(43, 5), (38, 5), (25, 3)], op := .vmov (vr b 43) (vr b 38) (mr b 25) }
  | _ => none

def xmRow (mk : Window → TReg → TReg → Bool → Bool → Shape → Instr) (b : Nat) : Row :=
  { used := [(42, 6), (38, 4), (34, 4), (31, 3), (29, 2)], codes := [(31, 3, fld b 31 3 < 4)], ranges := [(42, 6, fld b 42 6 ≤ 56)],
    op := mk (Fin.ofNat 64 (b / 2 ^ 42)) (tr b 38) (tr b 34) (bitAt b 32) (bitAt b 31) (Shape.ofCode (fld b 29 2)) }
/-- The limits of R209. The pair limit on NROW and NCOL names the lower field, NROW. -/
def xaRow (mk : Fin 512 → Fin 64 → Fin 64 → Fin 128 → SReg → Instr) (b : Nat) : Row :=
  { used := [(39, 9), (33, 6), (27, 6), (20, 7), (14, 6)],
    ranges := [(20, 7, fld b 39 9 + fld b 20 7 + 1 ≤ 512), (27, 6, fld b 33 6 + fld b 27 6 + 1 ≤ 64), (20, 7, (fld b 20 7 + 1) * (fld b 27 6 + 1) ≤ 2048)],
    op := mk (Fin.ofNat 512 (b / 2 ^ 39)) (Fin.ofNat 64 (b / 2 ^ 33)) (Fin.ofNat 64 (b / 2 ^ 27)) (Fin.ofNat 128 (b / 2 ^ 20)) (sr b 14) }
def awRow (mk : Window → Instr) (b : Nat) : Row :=
  { used := [(42, 6)], ranges := [(42, 6, fld b 42 6 ≤ 56)], op := mk (Fin.ofNat 64 (b / 2 ^ 42)) }

def rowX (op b : Nat) : Option Row :=
  match op with
  | 0x01 => some { used := [(44, 4), (38, 6)], op := .movtc (tr b 44) (sr b 38) }
  | 0x02 => some { used := [(44, 4), (38, 6)], op := .movfc (sr b 38) (tr b 44) }
  | 0x03 => some { used := [(44, 4), (38, 6), (37, 1), (36, 1), (32, 4)], op := .tld (tr b 44) (sr b 38) (bitAt b 37) (bitAt b 36) (Fin.ofNat 16 (b / 2 ^ 32)) }
  | 0x04 => some { used := [(44, 4)], op := .tzero (tr b 44) }
  | 0x05 => some (xmRow .mma b)
  | 0x06 => some (xmRow .mmt b)
  | 0x07 => some (awRow .aclr b)
  | 0x08 => some (xaRow .ald b)
  | 0x09 => some (xaRow .acpy b)
  | 0x0A => some { used := [(42, 6), (40, 2), (33, 7), (29, 4), (27, 2), (25, 2), (22, 3)] ++ (if fld b 23 2 = 0 then [] else [(16, 6)]), codes := [(29, 4, cvtDst (fld b 29 4)), (27, 2, cvtRm (fld b 29 4) (fld b 27 2))], ranges := [(42, 6, fld b 42 6 ≤ 56), (33, 7, fld b 42 6 * 8 + fld b 33 7 ≤ 511), (33, 7, fld b 33 7 ≤ 63)], op := .drain (Fin.ofNat 64 (b / 2 ^ 42)) (Fin.ofNat 4 (b / 2 ^ 40)) (Fin.ofNat 128 (b / 2 ^ 33)) (fmtAt b 29) (rmAt b 27) (ovAt b 25) (bv 3 b 22) (sr b 16) }
  | 0x0B => some (awRow .agive b)
  | 0x0C => some { used := [(46, 2)], op := .qclr (Fin.ofNat 4 (b / 2 ^ 46)) }
  | 0x0D => some { used := [(46, 2), (40, 6)], op := .qcnt (sr b 40) (Fin.ofNat 4 (b / 2 ^ 46)) }
  | _ => none

/-- TC and TAGX belong to SP 0 alone, ORD and SCO to SP 2 alone (R201, R202, R382). -/
def lsUsed (b : Nat) : List (Nat × Nat) :=
  (if fld b 10 2 = 0 then [(9, 1), (5, 4)] else []) ++ (if fld b 10 2 = 2 then [(3, 2), (0, 3)] else [])
def lsCodes (b : Nat) : List (Nat × Nat × Bool) :=
  [(13, 3, okc (Size.ofCode (fld b 13 3))), (10, 2, okc (Space.ofCode (fld b 10 2))), (3, 2, okc (Ord.ofCode (fld b 3 2))), (0, 3, okc (Scope.ofCode (fld b 0 3)))]
def lvRow (mk : VReg → SReg → BitVec 18 → Fin 64 → MReg → Space → Bool → Fin 16 → Instr) (b : Nat) : Row :=
  { used := [(43, 5), (37, 6), (19, 18), (13, 6), (10, 3), (8, 2)] ++ (if fld b 8 2 = 0 then [(7, 1), (3, 4)] else []),
    codes := [(8, 2, okc (Space.ofCode (fld b 8 2)))],
    op := mk (vr b 43) (sr b 37) (bv 18 b 19) (Fin.ofNat 64 (b / 2 ^ 13)) (mr b 10) ((Space.ofCode (fld b 8 2)).getD .localS) (bitAt b 7) (Fin.ofNat 16 (b / 2 ^ 3)) }
def lxRow (mk : VReg → VReg → SReg → MReg → Space → Fin 4 → Instr) (b : Nat) : Row :=
  { used := [(43, 5), (38, 5), (32, 6), (29, 3), (27, 2), (25, 2)], codes := [(27, 2, okc (Space.ofCode (fld b 27 2)))],
    op := mk (vr b 43) (vr b 38) (sr b 32) (mr b 29) ((Space.ofCode (fld b 27 2)).getD .localS) (Fin.ofNat 4 (b / 2 ^ 25)) }
def opkAt (b : Nat) : Opk := (Opk.ofCode (fld b 20 4)).getD .add
/-- FADD32 and FADDBF take SZ 0 only (R226); the pair names the lower field, SZ. -/
def faddSz (b : Nat) : Bool := !((fld b 20 4 == 10 || fld b 20 4 == 11) && fld b 18 2 == 1)

def rowL (op b : Nat) : Option Row :=
  match op with
  | 0x01 => some { used := [(42, 6), (36, 6), (16, 20), (13, 3), (12, 1), (10, 2)] ++ lsUsed b, codes := (12, 1, !(fld b 13 3 == 3 && fld b 12 1 == 1)) :: lsCodes b, op := .ld (sr b 42) (sr b 36) (bv 20 b 16) ((Size.ofCode (fld b 13 3)).getD .b1) (bitAt b 12) ((Space.ofCode (fld b 10 2)).getD .localS) (bitAt b 9) (Fin.ofNat 16 (b / 2 ^ 5)) ((Ord.ofCode (fld b 3 2)).getD .plain) ((Scope.ofCode (fld b 0 3)).getD .task) }
  | 0x02 => some { used := [(42, 6), (36, 6), (16, 20), (13, 3), (10, 2)] ++ lsUsed b, codes := lsCodes b, op := .st (sr b 42) (sr b 36) (bv 20 b 16) ((Size.ofCode (fld b 13 3)).getD .b1) ((Space.ofCode (fld b 10 2)).getD .localS) (bitAt b 9) (Fin.ofNat 16 (b / 2 ^ 5)) ((Ord.ofCode (fld b 3 2)).getD .plain) ((Scope.ofCode (fld b 0 3)).getD .task) }
  | 0x03 => some (lvRow .vld b)
  | 0x04 => some (lvRow .vst b)
  | 0x05 => some (lxRow .vldg b)
  | 0x06 => some (lxRow .vsts b)
  | 0x07 => some { used := [(42, 6), (39, 3), (7, 32), (4, 3), (3, 1)], codes := [(4, 3, okc (Size.ofCode (fld b 4 3))), (3, 1, !(fld b 4 3 == 3 && fld b 3 1 == 1))], op := .ldw (sr b 42) (Fin.ofNat 8 (b / 2 ^ 39)) (bv 32 b 7) ((Size.ofCode (fld b 4 3)).getD .b1) (bitAt b 3) }
  | 0x08 => some { used := [(43, 5), (39, 3), (7, 32)], op := .vldw (vr b 43) (Fin.ofNat 8 (b / 2 ^ 39)) (bv 32 b 7) }
  | 0x09 => some { used := [(39, 9), (38, 1), (31, 7)], ranges := [(39, 9, fld b 39 9 < 384), (31, 7, 1 ≤ fld b 31 7 && fld b 31 7 ≤ 64)], op := .give (Fin.ofNat 512 (b / 2 ^ 39)) (bitAt b 38) (Fin.ofNat 128 (b / 2 ^ 31)) }
  | 0x0A => some { used := [(42, 6), (33, 9)], ranges := [(33, 9, fld b 33 9 < 384)], op := .tagrd (sr b 42) (Fin.ofNat 512 (b / 2 ^ 33)) }
  | 0x0B => some { used := [(39, 9), (35, 4)], codes := [(35, 4, okc (Fmt.ofCode (fld b 35 4)))], ranges := [(39, 9, fld b 39 9 < 384)], op := .tfmt (Fin.ofNat 512 (b / 2 ^ 39)) (fmtAt b 35) }
  | 0x0C => some { used := [(45, 3), (39, 6)], op := .sbind (Fin.ofNat 8 (b / 2 ^ 45)) (sr b 39) }
  | 0x0D => some { used := [(45, 3)], op := .sfree (Fin.ofNat 8 (b / 2 ^ 45)) }
  | 0x0E => some { used := [(45, 3), (39, 6)], op := .copygo (Fin.ofNat 8 (b / 2 ^ 45)) (sr b 39) }
  | 0x0F => some { used := [(46, 2), (40, 6), (20, 20)], op := .qst (Fin.ofNat 4 (b / 2 ^ 46)) (sr b 40) (bv 20 b 20) }
  | 0x10 => some { used := [(42, 6), (36, 6), (30, 6), (20, 4), (18, 2), (16, 2)] ++ (if fld b 20 4 = 9 then [(24, 6)] else []) ++ (if fld b 16 2 = 2 then [(13, 3)] else []), codes := [(20, 4, okc (Opk.ofCode (fld b 20 4))), (18, 2, fld b 18 2 < 2 && faddSz b), (16, 2, okc (Space.ofCode (fld b 16 2))), (13, 3, okc (Scope.ofCode (fld b 13 3)))], op := .atom (sr b 42) (sr b 36) (sr b 30) (sr b 24) (opkAt b) (bitAt b 18) ((Space.ofCode (fld b 16 2)).getD .localS) ((Scope.ofCode (fld b 13 3)).getD .task) }
  | 0x11 => some { used := [(36, 6), (30, 6), (20, 4), (18, 2), (16, 2)] ++ (if fld b 16 2 = 2 then [(13, 3)] else []), codes := [(20, 4, okc (Opk.ofCode (fld b 20 4)) && fld b 20 4 != 8 && fld b 20 4 != 9), (18, 2, fld b 18 2 < 2 && faddSz b), (16, 2, fld b 16 2 == 2), (13, 3, okc (Scope.ofCode (fld b 13 3)))], op := .atomd (sr b 36) (sr b 30) (opkAt b) (bitAt b 18) ((Scope.ofCode (fld b 13 3)).getD .task) }
  | 0x12 => some { used := [(42, 6), (36, 6), (30, 6), (24, 6), (23, 1), (20, 3)], codes := [(20, 3, okc (Scope.ofCode (fld b 20 3)))], ranges := [(42, 6, fld b 42 6 + 2 * fld b 23 1 + 1 ≤ 63), (30, 6, fld b 30 6 + 2 * fld b 23 1 + 1 ≤ 63), (24, 6, fld b 24 6 + 2 * fld b 23 1 + 1 ≤ 63)], op := .casw (sr b 42) (sr b 36) (sr b 30) (sr b 24) (bitAt b 23) ((Scope.ofCode (fld b 20 3)).getD .task) }
  | 0x13 => some { used := [(42, 6), (36, 6), (30, 6)], op := .enq (sr b 42) (sr b 36) (sr b 30) }
  | 0x14 => some { used := [(42, 6), (36, 6), (30, 6), (14, 16)], ranges := [(30, 6, fld b 30 6 != 0)], op := .chase (sr b 42) (sr b 36) (Fin.ofNat 64 (b / 2 ^ 30)) (bv 16 b 14) }
  | 0x15 => some { used := [(36, 6), (30, 6), (24, 6), (18, 2)], codes := [(18, 2, fld b 18 2 < 2)], op := .rst (sr b 36) (sr b 30) (sr b 24) (bitAt b 18) }
  | 0x16 => some { used := [(42, 6), (36, 6), (30, 6), (24, 6), (20, 4), (18, 2)], codes := [(20, 4, okc (Opk.ofCode (fld b 20 4)) && fld b 20 4 != 9 && !(fld b 20 4 == 8 && fld b 42 6 == 0)), (18, 2, fld b 18 2 < 2 && faddSz b)], op := .ratom (sr b 42) (sr b 36) (sr b 30) (sr b 24) (opkAt b) (bitAt b 18) }
  | 0x17 => some { used := [(42, 6), (36, 6), (24, 6), (18, 2)], codes := [(18, 2, fld b 18 2 < 2)], op := .rld (sr b 42) (sr b 36) (sr b 24) (bitAt b 18) }
  | 0x18 => some (if bitAt b 41 then { used := [(41, 1)], op := .flushaAll } else { used := [(42, 6), (41, 1)], op := .flusha (sr b 42) })
  | _ => none

def fkRow (mk : SReg → Fin 8 → Chan → Fin 256 → Instr) (b : Nat) : Row :=
  { used := [(42, 6), (39, 3), (36, 3), (28, 8)], ranges := [(28, 8, fld b 28 8 != 0)],
    op := mk (sr b 42) (Fin.ofNat 8 (b / 2 ^ 39)) (Fin.ofNat 8 (b / 2 ^ 36)) (Fin.ofNat 256 (b / 2 ^ 28)) }

def rowF (op b : Nat) : Option Row :=
  match op with
  | 0x01 => some { used := [(43, 5), (35, 8), (5, 6)], op := .send (vr b 43) (Fin.ofNat 256 (b / 2 ^ 35)) (Fin.ofNat 64 (b / 2 ^ 5)) }
  | 0x02 => some { used := [(43, 5), (35, 8), (11, 24), (5, 6)], op := .recv (vr b 43) (Fin.ofNat 256 (b / 2 ^ 35)) (bv 24 b 11) (Fin.ofNat 64 (b / 2 ^ 5)) }
  | 0x03 => some { used := [(39, 9), (31, 8)], ranges := [(39, 9, fld b 39 9 < 384)], op := .sendt (Fin.ofNat 512 (b / 2 ^ 39)) (Fin.ofNat 256 (b / 2 ^ 31)) }
  | 0x04 => some { used := [(39, 9), (31, 8), (7, 24)], ranges := [(39, 9, fld b 39 9 < 384)], op := .recvt (Fin.ofNat 512 (b / 2 ^ 39)) (Fin.ofNat 256 (b / 2 ^ 31)) (bv 24 b 7) }
  | 0x05 => some { used := [(46, 2), (38, 8), (31, 7)], ranges := [(31, 7, fld b 31 7 ≤ 15)], op := .qsend (Fin.ofNat 4 (b / 2 ^ 46)) (Fin.ofNat 256 (b / 2 ^ 38)) (Fin.ofNat 128 (b / 2 ^ 31)) }
  | 0x06 => some { used := [(40, 8), (34, 6), (31, 3), (23, 8)], op := .coll (Fin.ofNat 256 (b / 2 ^ 40)) (sr b 34) (Fin.ofNat 8 (b / 2 ^ 31)) (Fin.ofNat 256 (b / 2 ^ 23)) }
  | 0x07 => some (fkRow .ksrch b)
  | 0x08 => some (fkRow .kred b)
  | 0x09 => some (fkRow .kop b)
  | _ => none

def rowOf : SlotClass → Nat → Nat → Option Row
  | .c => rowC | .a => rowA | .v => rowV | .x => rowX | .l => rowL | .f => rowF

/-! ## The encoder, from the same tables -/

def eA3 (d a b : SReg) : Nat := d.val * 2 ^ 42 + a.val * 2 ^ 36 + b.val * 2 ^ 30
def eAI (d a : SReg) (imm : BitVec 36) : Nat := d.val * 2 ^ 42 + a.val * 2 ^ 36 + imm.toNat
def eASH (d a : SReg) (n : Fin 64) : Nat := d.val * 2 ^ 42 + a.val * 2 ^ 36 + n.val
def eVVI (vd va vb : VReg) (m : MReg) (ty : ITy) : Nat :=
  vd.val * 2 ^ 43 + va.val * 2 ^ 38 + vb.val * 2 ^ 33 + m.val * 2 ^ 25 + ty.codes.1 * 2 ^ 22 + ty.codes.2 * 2 ^ 16
def eVVF (vd va vb : VReg) (m : MReg) (sm rm : Nat) : Nat :=
  vd.val * 2 ^ 43 + va.val * 2 ^ 38 + vb.val * 2 ^ 33 + m.val * 2 ^ 25 + sm * 2 ^ 12 + rm * 2 ^ 10
def eVS (vd va : VReg) (sa : SReg) (m : MReg) (ty sm rm : Nat) : Nat :=
  vd.val * 2 ^ 43 + va.val * 2 ^ 38 + sa.val * 2 ^ 32 + m.val * 2 ^ 29 + ty * 2 ^ 26 + sm * 2 ^ 22 + rm * 2 ^ 20
def eVK (md : MReg) (va vb : VReg) (m : MReg) (ty cc w : Nat) : Nat :=
  md.val * 2 ^ 45 + va.val * 2 ^ 40 + vb.val * 2 ^ 35 + m.val * 2 ^ 32 + ty * 2 ^ 29 + cc * 2 ^ 25 + w * 2 ^ 23
def eVX (vd va : VReg) (sf df : Fmt) (rm : RM) (ov : OV) : Nat :=
  vd.val * 2 ^ 43 + va.val * 2 ^ 38 + sf.code * 2 ^ 34 + df.code * 2 ^ 30 + rm.code * 2 ^ 28 + ov.code * 2 ^ 26
def eVP (vd va : VReg) (vb fn k : Nat) (m : MReg) : Nat :=
  vd.val * 2 ^ 43 + va.val * 2 ^ 38 + vb * 2 ^ 33 + fn * 2 ^ 27 + k * 2 ^ 21 + m.val * 2 ^ 18
def eXM (aw : Window) (ta tb : TReg) (neg clr : Bool) (sum : Shape) : Nat :=
  aw.val * 2 ^ 42 + ta.val * 2 ^ 38 + tb.val * 2 ^ 34 + neg.toNat * 2 ^ 32 + clr.toNat * 2 ^ 31 + sum.code * 2 ^ 29
def eXA (row : Fin 512) (col ncol : Fin 64) (nrow : Fin 128) (bs : SReg) : Nat :=
  row.val * 2 ^ 39 + col.val * 2 ^ 33 + ncol.val * 2 ^ 27 + nrow.val * 2 ^ 20 + bs.val * 2 ^ 14
def eLS (d bs : SReg) (off : BitVec 20) (sz : Size) (sg : Bool) (sp : Space) (tc : Bool) (tagx : Fin 16) (ord : Ord) (sco : Scope) : Nat :=
  d.val * 2 ^ 42 + bs.val * 2 ^ 36 + off.toNat * 2 ^ 16 + sz.code * 2 ^ 13 + sg.toNat * 2 ^ 12 + sp.code * 2 ^ 10 + tc.toNat * 2 ^ 9 + tagx.val * 2 ^ 5 + ord.code * 2 ^ 3 + sco.code
def eLV (vd : VReg) (bs : SReg) (off : BitVec 18) (str : Fin 64) (m : MReg) (sp : Space) (tc : Bool) (tagx : Fin 16) : Nat :=
  vd.val * 2 ^ 43 + bs.val * 2 ^ 37 + off.toNat * 2 ^ 19 + str.val * 2 ^ 13 + m.val * 2 ^ 10 + sp.code * 2 ^ 8 + tc.toNat * 2 ^ 7 + tagx.val * 2 ^ 3
def eLX (vd vi : VReg) (bs : SReg) (m : MReg) (sp : Space) (sc : Fin 4) : Nat :=
  vd.val * 2 ^ 43 + vi.val * 2 ^ 38 + bs.val * 2 ^ 32 + m.val * 2 ^ 29 + sp.code * 2 ^ 27 + sc.val * 2 ^ 25
def eLA (d bs b c : Nat) (opk : Opk) (wide : Bool) (sp : Space) (sco : Scope) : Nat :=
  d * 2 ^ 42 + bs * 2 ^ 36 + b * 2 ^ 30 + c * 2 ^ 24 + opk.code * 2 ^ 20 + wide.toNat * 2 ^ 18 + sp.code * 2 ^ 16 + sco.code * 2 ^ 13
def eLR (d bs b chip opk : Nat) (wide : Bool) : Nat :=
  d * 2 ^ 42 + bs * 2 ^ 36 + b * 2 ^ 30 + chip * 2 ^ 24 + opk * 2 ^ 20 + wide.toNat * 2 ^ 18
def eFK (a : SReg) (stk : Fin 8) (ch : Chan) (inc : Fin 256) : Nat :=
  a.val * 2 ^ 42 + stk.val * 2 ^ 39 + ch.val * 2 ^ 36 + inc.val * 2 ^ 28

/-- A field's value at its place. -/
def bitsAt (x lo : Nat) : Nat := x * 2 ^ lo

/-- Class, OP and body of a slot operation; the part's other steps have no encoding. -/
def encodeOp : Instr → Option (SlotClass × Nat × Nat)
  | .nop => some (.c, 0x00, 0)
  | .br off => some (.c, 0x01, bitsAt off.toNat 16)
  | .call off => some (.c, 0x02, bitsAt off.toNat 16)
  | .bri a => some (.c, 0x03, bitsAt a.val 42)
  | .ret => some (.c, 0x04, 0)
  | .loop a n => some (.c, 0x05, bitsAt a.val 42 + bitsAt n.val 32)
  | .endt => some (.c, 0x06, 0)
  | .align => some (.c, 0x07, 0)
  | .sstep x => some (.c, 0x08, bitsAt x.toNat 40)
  | .fence k s => some (.c, 0x09, bitsAt k.code 43 + bitsAt s.code 40)
  | .qmark => some (.c, 0x0A, 0)
  | .waitcImm ch imm => some (.c, 0x0B, bitsAt ch.val 45 + imm.toNat)
  | .waitcReg ch a => some (.c, 0x0B, bitsAt ch.val 45 + bitsAt 1 44 + bitsAt a.val 38)
  | .trap code => some (.c, 0x0C, bitsAt code.toNat 40)
  | .rft => some (.c, 0x0D, 0)
  | .rewind => some (.c, 0x0E, 0)
  | .csrr d n => some (.c, 0x0F, bitsAt d.val 42 + bitsAt n.val 30)
  | .csrw n a => some (.c, 0x10, bitsAt a.val 42 + bitsAt n.val 30)
  | .lcrd d => some (.c, 0x11, bitsAt d.val 42)
  | .plog pd pa pb fn => some (.c, 0x12, bitsAt pd.val 44 + bitsAt pa.val 40 + bitsAt pb.val 36 + bitsAt fn.toNat 32)
  | .movps d mask => some (.c, 0x13, bitsAt d.val 42 + bitsAt mask.toNat 26)
  | .movsp a mask => some (.c, 0x14, bitsAt a.val 42 + bitsAt mask.toNat 26)
  | .launch a b node => some (.c, 0x40, bitsAt a.val 42 + bitsAt b.val 36 + node.toNat)
  | .nodew d => some (.c, 0x41, bitsAt d.val 42)
  | .sigh a b vec => some (.c, 0x42, bitsAt a.val 42 + bitsAt b.val 36 + vec.toNat)
  | .yield => some (.c, 0x43, 0)
  | .gdone => some (.c, 0x44, 0)
  | .add d a b => some (.a, 0x01, eA3 d a b)
  | .sub d a b => some (.a, 0x02, eA3 d a b)
  | .addi d a imm => some (.a, 0x03, eAI d a imm)
  | .mul d a b => some (.a, 0x04, eA3 d a b)
  | .mulh d a b => some (.a, 0x05, eA3 d a b)
  | .mulhn d a b => some (.a, 0x06, eA3 d a b)
  | .div d a b => some (.a, 0x07, eA3 d a b)
  | .divn d a b => some (.a, 0x08, eA3 d a b)
  | .rem d a b => some (.a, 0x09, eA3 d a b)
  | .remn d a b => some (.a, 0x0A, eA3 d a b)
  | .and d a b => some (.a, 0x0B, eA3 d a b)
  | .or d a b => some (.a, 0x0C, eA3 d a b)
  | .xor d a b => some (.a, 0x0D, eA3 d a b)
  | .andi d a imm => some (.a, 0x0E, eAI d a imm)
  | .ori d a imm => some (.a, 0x0F, eAI d a imm)
  | .xori d a imm => some (.a, 0x10, eAI d a imm)
  | .shl d a b => some (.a, 0x11, eA3 d a b)
  | .shr d a b => some (.a, 0x12, eA3 d a b)
  | .sha d a b => some (.a, 0x13, eA3 d a b)
  | .shli d a n => some (.a, 0x14, eASH d a n)
  | .shri d a n => some (.a, 0x15, eASH d a n)
  | .shai d a n => some (.a, 0x16, eASH d a n)
  | .min d a b => some (.a, 0x17, eA3 d a b)
  | .max d a b => some (.a, 0x18, eA3 d a b)
  | .minn d a b => some (.a, 0x19, eA3 d a b)
  | .maxn d a b => some (.a, 0x1A, eA3 d a b)
  | .li d imm => some (.a, 0x1B, bitsAt d.val 42 + imm.toNat)
  | .lih d imm => some (.a, 0x1C, bitsAt d.val 42 + imm.toNat)
  | .cmp pd a b cc => some (.a, 0x1D, bitsAt pd.val 44 + bitsAt a.val 38 + bitsAt b.val 32 + bitsAt cc.code 28)
  | .cmpi pd a cc imm => some (.a, 0x1E, bitsAt pd.val 44 + bitsAt a.val 38 + bitsAt cc.code 34 + imm.toNat)
  | .sel d a b p => some (.a, 0x1F, eA3 d a b + bitsAt p.val 24)
  | .clz d a => some (.a, 0x20, bitsAt d.val 42 + bitsAt a.val 36)
  | .popc d a => some (.a, 0x21, bitsAt d.val 42 + bitsAt a.val 36)
  | .bfx d a pos len => some (.a, 0x22, bitsAt d.val 42 + bitsAt a.val 36 + bitsAt pos.val 30 + bitsAt len.val 24)
  | .bfi d a b pos len => some (.a, 0x23, bitsAt d.val 42 + bitsAt a.val 36 + bitsAt pos.val 30 + bitsAt len.val 24 + bitsAt b.val 18)
  | .addr d a b x => some (.a, 0x24, eA3 d a b + bitsAt x.val 24)
  | .chkeq a b => some (.a, 0x25, bitsAt a.val 36 + bitsAt b.val 30)
  | .sfadd d a b rm => some (.a, 0x26, eA3 d a b + bitsAt rm.code 22)
  | .sfmul d a b rm => some (.a, 0x27, eA3 d a b + bitsAt rm.code 22)
  | .sffma d a b c rm => some (.a, 0x28, eA3 d a b + bitsAt c.val 24 + bitsAt rm.code 22)
  | .sfcmp pd a b cc => some (.a, 0x29, bitsAt pd.val 44 + bitsAt a.val 38 + bitsAt b.val 32 + bitsAt cc.code 28)
  | .scvt d a sf df rm ov => some (.a, 0x2A, bitsAt d.val 42 + bitsAt a.val 36 + bitsAt sf.code 32 + bitsAt df.code 28 + bitsAt rm.code 26 + bitsAt ov.code 24)
  | .vadd vd va vb m ty => some (.v, 0x01, eVVI vd va vb m ty)
  | .vsub vd va vb m ty => some (.v, 0x02, eVVI vd va vb m ty)
  | .vmul vd va vb m ty => some (.v, 0x03, eVVI vd va vb m ty)
  | .vmulh vd va vb m ty => some (.v, 0x04, eVVI vd va vb m ty)
  | .vmin vd va vb m ty => some (.v, 0x05, eVVI vd va vb m ty)
  | .vmax vd va vb m ty => some (.v, 0x06, eVVI vd va vb m ty)
  | .vand vd va vb m ty => some (.v, 0x07, eVVI vd va vb m ty)
  | .vor vd va vb m ty => some (.v, 0x08, eVVI vd va vb m ty)
  | .vxor vd va vb m ty => some (.v, 0x09, eVVI vd va vb m ty)
  | .vshl vd va vb m ty => some (.v, 0x0A, eVVI vd va vb m ty)
  | .vshr vd va vb m ty => some (.v, 0x0B, eVVI vd va vb m ty)
  | .vsha vd va vb m ty => some (.v, 0x0C, eVVI vd va vb m ty)
  | .vabs vd va m ty => some (.v, 0x0D, eVVI vd va 0 m ty)
  | .vfadd vd va vb m sm rm => some (.v, 0x10, eVVF vd va vb m sm.toNat rm.code)
  | .vfsub vd va vb m sm rm => some (.v, 0x11, eVVF vd va vb m sm.toNat rm.code)
  | .vfmul vd va vb m sm rm => some (.v, 0x12, eVVF vd va vb m sm.toNat rm.code)
  | .vfma vd va vb vc m sm rm => some (.v, 0x13, eVVF vd va vb m sm.toNat rm.code + bitsAt vc.val 28)
  | .vfmin vd va vb m sm => some (.v, 0x14, eVVF vd va vb m sm.toNat 0)
  | .vfmax vd va vb m sm => some (.v, 0x15, eVVF vd va vb m sm.toNat 0)
  | .vfun vd va m fn sm rm => some (.v, 0x16, eVVF vd va 0 m sm.toNat rm.code + bitsAt fn.code 16)
  | .vadds vd va sa m ty => some (.v, 0x18, eVS vd va sa m ty.code 0 0)
  | .vmuls vd va sa m ty => some (.v, 0x19, eVS vd va sa m ty.code 0 0)
  | .vfadds vd va sa m sm rm => some (.v, 0x1A, eVS vd va sa m 0 sm.toNat rm.code)
  | .vfmuls vd va sa m sm rm => some (.v, 0x1B, eVS vd va sa m 0 sm.toNat rm.code)
  | .vfmas vd va sa m sm rm => some (.v, 0x1C, eVS vd va sa m 0 sm.toNat rm.code)
  | .vcmp md va vb m cc w => some (.v, 0x20, eVK md va vb m 1 cc.code w.code)
  | .vfcmp md va vb m cc w => some (.v, 0x21, eVK md va vb m 0 cc.code w.code)
  | .vtcmp md va vb m ty cc w => some (.v, 0x22, eVK md va vb m ty.code cc.code w.code)
  | .vsel vd va vb m => some (.v, 0x23, eVVF vd va vb m 0 0)
  | .mlog md ma mb fn => some (.v, 0x24, bitsAt md.val 45 + bitsAt ma.val 42 + bitsAt mb.val 39 + bitsAt fn.toNat 35)
  | .mpop d ma => some (.v, 0x25, bitsAt d.val 42 + bitsAt ma.val 39)
  | .viota vd m => some (.v, 0x35, eVVF vd 0 0 m 0 0)
  | .vcvt vd va sf df rm ov m => some (.v, 0x28, eVX vd va sf df rm ov + bitsAt m.val 23)
  | .vpack vd va sf df rm ov p => some (.v, 0x29, eVX vd va sf df rm ov + bitsAt p.val 22)
  | .vunpk vd va sf df rm ov p => some (.v, 0x2A, eVX vd va sf df rm ov + bitsAt p.val 22)
  | .vperm vd va vb m => some (.v, 0x30, eVP vd va vb.val 0 0 m)
  | .vshuf vd va vb fn k m => some (.v, 0x31, eVP vd va vb.val fn.code k.val m)
  | .vbcast vd sa m ty => some (.v, 0x32, eVS vd 0 sa m ty.code 0 0)
  | .vext d va ln => some (.v, 0x33, bitsAt d.val 42 + bitsAt va.val 37 + bitsAt ln.val 31)
  | .vins vd sa ln => some (.v, 0x34, eVS vd 0 sa 0 0 0 0 + bitsAt ln.val 14)
  | .vred d va m u fn => some (.v, 0x38, bitsAt d.val 42 + bitsAt va.val 37 + bitsAt m.val 34 + bitsAt (1 + u.toNat) 31 + bitsAt fn.code 27)
  | .vfred d va m fn rm => some (.v, 0x39, bitsAt d.val 42 + bitsAt va.val 37 + bitsAt m.val 34 + bitsAt fn.code 27 + bitsAt rm.code 25)
  | .vpop vd q => some (.v, 0x3C, bitsAt vd.val 43 + bitsAt q.val 41)
  | .vmov vd va m => some (.v, 0x3D, eVVF vd va 0 m 0 0)
  | .movtc t a => some (.x, 0x01, bitsAt t.val 44 + bitsAt a.val 38)
  | .movfc d t => some (.x, 0x02, bitsAt t.val 44 + bitsAt d.val 38)
  | .tld t bs r c g => some (.x, 0x03, bitsAt t.val 44 + bitsAt bs.val 38 + bitsAt r.toNat 37 + bitsAt c.toNat 36 + bitsAt g.val 32)
  | .tzero t => some (.x, 0x04, bitsAt t.val 44)
  | .mma aw ta tb neg clr sum => some (.x, 0x05, eXM aw ta tb neg clr sum)
  | .mmt aw ta tb neg clr sum => some (.x, 0x06, eXM aw ta tb neg clr sum)
  | .aclr aw => some (.x, 0x07, bitsAt aw.val 42)
  | .ald row col ncol nrow bs => some (.x, 0x08, eXA row col ncol nrow bs)
  | .acpy row col ncol nrow bs => some (.x, 0x09, eXA row col ncol nrow bs)
  | .drain aw q nrow df rm ov scl a => some (.x, 0x0A, bitsAt aw.val 42 + bitsAt q.val 40 + bitsAt nrow.val 33 + bitsAt df.code 29 + bitsAt rm.code 27 + bitsAt ov.code 25 + bitsAt scl.toNat 22 + bitsAt a.val 16)
  | .agive aw => some (.x, 0x0B, bitsAt aw.val 42)
  | .qclr q => some (.x, 0x0C, bitsAt q.val 46)
  | .qcnt d q => some (.x, 0x0D, bitsAt q.val 46 + bitsAt d.val 40)
  | .ld d bs off sz sg sp tc tagx ord sco => some (.l, 0x01, eLS d bs off sz sg sp tc tagx ord sco)
  | .st d bs off sz sp tc tagx ord sco => some (.l, 0x02, eLS d bs off sz false sp tc tagx ord sco)
  | .vld vd bs off str m sp tc tagx => some (.l, 0x03, eLV vd bs off str m sp tc tagx)
  | .vst vd bs off str m sp tc tagx => some (.l, 0x04, eLV vd bs off str m sp tc tagx)
  | .vldg vd vi bs m sp sc => some (.l, 0x05, eLX vd vi bs m sp sc)
  | .vsts vd vi bs m sp sc => some (.l, 0x06, eLX vd vi bs m sp sc)
  | .ldw d w off sz sg => some (.l, 0x07, bitsAt d.val 42 + bitsAt w.val 39 + bitsAt off.toNat 7 + bitsAt sz.code 4 + bitsAt sg.toNat 3)
  | .vldw vd w off => some (.l, 0x08, bitsAt vd.val 43 + bitsAt w.val 39 + bitsAt off.toNat 7)
  | .give t o n => some (.l, 0x09, bitsAt t.val 39 + bitsAt o.toNat 38 + bitsAt n.val 31)
  | .tagrd d t => some (.l, 0x0A, bitsAt d.val 42 + bitsAt t.val 33)
  | .tfmt t f => some (.l, 0x0B, bitsAt t.val 39 + bitsAt f.code 35)
  | .sbind f a => some (.l, 0x0C, bitsAt f.val 45 + bitsAt a.val 39)
  | .sfree f => some (.l, 0x0D, bitsAt f.val 45)
  | .copygo ch a => some (.l, 0x0E, bitsAt ch.val 45 + bitsAt a.val 39)
  | .qst q bs off => some (.l, 0x0F, bitsAt q.val 46 + bitsAt bs.val 40 + bitsAt off.toNat 20)
  | .atom d bs b c opk w sp sco => some (.l, 0x10, eLA d.val bs.val b.val c.val opk w sp sco)
  | .atomd bs b opk w sco => some (.l, 0x11, eLA 0 bs.val b.val 0 opk w .device sco)
  | .casw d bs x y four sco => some (.l, 0x12, bitsAt d.val 42 + bitsAt bs.val 36 + bitsAt x.val 30 + bitsAt y.val 24 + bitsAt four.toNat 23 + bitsAt sco.code 20)
  | .enq d bs b => some (.l, 0x13, eA3 d bs b)
  | .chase d bs cnt off => some (.l, 0x14, bitsAt d.val 42 + bitsAt bs.val 36 + bitsAt cnt.val 30 + bitsAt off.toNat 14)
  | .rst bs b chip w => some (.l, 0x15, eLR 0 bs.val b.val chip.val 0 w)
  | .ratom d bs b chip opk w => some (.l, 0x16, eLR d.val bs.val b.val chip.val opk.code w)
  | .rld d bs chip w => some (.l, 0x17, eLR d.val bs.val 0 chip.val 0 w)
  | .flusha chip => some (.l, 0x18, bitsAt chip.val 42)
  | .flushaAll => some (.l, 0x18, bitsAt 1 41)
  | .send v circ lanes => some (.f, 0x01, bitsAt v.val 43 + bitsAt circ.val 35 + bitsAt lanes.val 5)
  | .recv v circ delta lanes => some (.f, 0x02, bitsAt v.val 43 + bitsAt circ.val 35 + bitsAt delta.toNat 11 + bitsAt lanes.val 5)
  | .sendt t circ => some (.f, 0x03, bitsAt t.val 39 + bitsAt circ.val 31)
  | .recvt t circ delta => some (.f, 0x04, bitsAt t.val 39 + bitsAt circ.val 31 + bitsAt delta.toNat 7)
  | .qsend q circ nrow => some (.f, 0x05, bitsAt q.val 46 + bitsAt circ.val 38 + bitsAt nrow.val 31)
  | .coll tm a ch inc => some (.f, 0x06, bitsAt tm.val 40 + bitsAt a.val 34 + bitsAt ch.val 31 + bitsAt inc.val 23)
  | .ksrch a stk ch inc => some (.f, 0x07, eFK a stk ch inc)
  | .kred a stk ch inc => some (.f, 0x08, eFK a stk ch inc)
  | .kop a stk ch inc => some (.f, 0x09, eFK a stk ch inc)
  | _ => none

/-- A slot's 60 bits (R117). -/
def slotWord (g : PReg) (gn : Bool) (op body : Nat) : Nat := g.val * 2 ^ 56 + gn.toNat * 2 ^ 55 + op * 2 ^ 48 + body

def encodeSlot (s : Slot) : Option (SlotClass × Nat) :=
  (encodeOp s.op).map fun (c, op, body) => (c, slotWord s.g s.gn op body)

/-! ## Decoding with the checks of R129 and R130 -/

/-- A failed encoding check: cause, sub-cause and the two words of R372-R375. -/
structure EncErr where
  cause : Nat
  sub : Nat
  slot : Nat
  info0 : Nat
  info1 : Nat
  deriving DecidableEq, Repr

/-- Who issues: the encoding checks differ on the command core (R128, R247), and COLL is judged against the templates held. -/
structure EncCtx where
  cmd : Bool
  collHeld : List Nat
  deriving DecidableEq, Repr

/-- The CSR map of R153: assigned numbers. -/
def csrAssigned (n : Nat) : Bool :=
  n ≤ 5 || (0x10 ≤ n && n ≤ 0x17) || n == 0x20 || n == 0x21 || n == 0x30 || n == 0x31 || (0x40 ≤ n && n ≤ 0x47) || (0x80 ≤ n && n ≤ 0x8F)
/-- The RW registers of R153. -/
def csrWritable (n : Nat) : Bool := n == 0x10 || n == 0x30 || n == 0x31 || (0x80 ≤ n && n ≤ 0x8F)
/-- The CSRs that the command core serves (R247). -/
def csrServedCmd (n : Nat) : Bool := n == 2 || n == 3 || n == 5 || n == 0x31

/-- What the command core executes (R247, R385). -/
def admittedCmd (c : SlotClass) (i : Instr) : Bool :=
  match c with
  | .c =>
    match i with
    | .align | .sstep _ | .endt | .waitcImm _ _ | .waitcReg _ _ | .rft | .rewind => false
    | _ => true
  | .a => true
  | .l =>
    match i with
    | .ld _ _ _ _ _ sp _ _ _ _ => sp == .device
    | .st _ _ _ _ sp _ _ _ _ => sp == .device
    | .atom _ _ _ _ _ _ sp _ => sp == .device
    | .ldw _ _ _ _ _ => true
    | _ => false
  | _ => false

/-- The five command-core operations (R128). -/
def isCmdOp (op : Nat) : Bool := 0x40 ≤ op && op ≤ 0x44

/-- R374: the illegal-instruction checks of one slot. -/
def slotIllegal (ctx : EncCtx) (c : SlotClass) (w : Nat) : Option EncErr :=
  let op := fld w 48 7
  match rowOf c op (fld w 0 48) with
  | none => some ⟨0x03, 0x04, c.index, w, 0⟩
  | some r =>
    if !ctx.cmd && c == .c && isCmdOp op then some ⟨0x03, 0x05, c.index, w, 0⟩
    else if ctx.cmd && !admittedCmd c r.op then some ⟨0x03, 0x06, c.index, w, 0⟩
    else none

/-- R130, R375: the reserved-field checks of one slot, in the order of their sub-causes. -/
def slotReserved (ctx : EncCtx) (c : SlotClass) (w : Nat) : Option EncErr :=
  let b := fld w 0 48
  match rowOf c (fld w 48 7) b with
  | none => none
  | some r =>
    let stray := b - usedBits b r.used
    if stray ≠ 0 then some ⟨0x04, 0x01, c.index, w, stray⟩ else
    match lowestBad r.codes with
    | some (lo, k) => some ⟨0x04, 0x02, c.index, w, lo * 2 ^ 56 + fld b lo k⟩
    | none =>
      match lowestBad r.ranges with
      | some (lo, k) => some ⟨0x04, 0x04, c.index, w, lo * 2 ^ 56 + fld b lo k⟩
      | none =>
        match r.op with
        | .csrr _ n =>
          if csrAssigned n.val && (!ctx.cmd || csrServedCmd n.val) then none else some ⟨0x04, 0x05, c.index, w, n.val⟩
        | .csrw n _ =>
          if csrWritable n.val && (!ctx.cmd || csrServedCmd n.val) then none else some ⟨0x04, 0x05, c.index, w, n.val⟩
        | .coll tm _ _ _ =>
          if ctx.collHeld.contains tm.val then none else some ⟨0x04, 0x07, c.index, w, tm.val⟩
        | _ => none

/-- One slot, on its bits alone: the operation, or the check that fails. -/
def decodeSlot (ctx : EncCtx) (c : SlotClass) (w : Nat) : Except EncErr Slot :=
  match slotIllegal ctx c w, slotReserved ctx c w, rowOf c (fld w 48 7) (fld w 0 48) with
  | some e, _, _ => .error e
  | none, some e, _ => .error e
  | none, none, some r => .ok { g := Fin.ofNat 16 (w / 2 ^ 56), gn := bitAt w 55, op := r.op }
  | none, none, none => .error ⟨0x03, 0x04, c.index, w, 0⟩

def allClasses : List SlotClass := [.c, .a, .v, .x, .l, .f]

/-- Slot k of a bundle (R116). -/
def slotBits (bits : Nat) (c : SlotClass) : Nat := fld bits (24 + 60 * c.index) 60

def slotValid (bits : Nat) (c : SlotClass) : Bool := bitAt bits (5 + c.index)

/-- The first failing check over the valid slots, lowest slot first (R130). -/
def firstErr (bits : Nat) (chk : SlotClass → Nat → Option EncErr) : List SlotClass → Option EncErr
  | [] => none
  | c :: r =>
    match (if slotValid bits c then chk c (slotBits bits c) else none) with
    | some e => some e
    | none => firstErr bits chk r

/-- A valid slot's OP is ALIGN's (R26). -/
def isAlignBits (bits : Nat) : Bool := slotValid bits .c && fld (slotBits bits .c) 48 7 == 7

/-- The TILE field of an F-slot SENDT or RECVT and of an L-slot GIVE (R246). -/
def giveTile (bits : Nat) : Option Nat :=
  if slotValid bits .l && fld (slotBits bits .l) 48 7 == 9 then some (fld (slotBits bits .l) 39 9) else none
def sendtTile (bits : Nat) : Option Nat :=
  if slotValid bits .f && (fld (slotBits bits .f) 48 7 == 3 || fld (slotBits bits .f) 48 7 == 4) then some (fld (slotBits bits .f) 39 9) else none

/-- R373: the illegal-bundle checks. `first` says that no bundle of the task has issued yet. An ALIGN whose body is not zero is illegal as R26 and R142 say,
which R373 does not list (log entry 81). -/
def bundleIllegal (ctx : EncCtx) (first : Bool) (bits : Nat) : Option EncErr :=
  let hdr := fld bits 0 24
  let valid := fld bits 5 6
  let err (sub : Nat) : Option EncErr := some ⟨0x02, sub, 0, hdr, valid⟩
  if fld bits 11 13 ≠ 0 then err 0x01
  else if isAlignBits bits && (valid ≠ 1 || fld bits 0 5 ≠ 0 || fld (slotBits bits .c) 55 5 ≠ 0 || fld (slotBits bits .c) 0 48 ≠ 0) then err 0x02
  else if !ctx.cmd && isAlignBits bits && !first then err 0x03
  else if !ctx.cmd && first && !isAlignBits bits then err 0x04
  else
    match giveTile bits, sendtTile bits with
    | some a, some b => if a = b then err 0x05 else none
    | _, _ => none

/-- Every encoding check of a bundle, in the order of R129 and R130. -/
def bundleErr (ctx : EncCtx) (first : Bool) (bits : Nat) : Option EncErr :=
  match bundleIllegal ctx first bits with
  | some e => some e
  | none =>
    match firstErr bits (slotIllegal ctx) allClasses with
    | some e => some e
    | none => firstErr bits (slotReserved ctx) allClasses

def slotOf (ctx : EncCtx) (bits : Nat) (c : SlotClass) : Option Slot :=
  if slotValid bits c then (decodeSlot ctx c (slotBits bits c)).toOption else none

/-- A 384-bit bundle (R115, R116): its slots, or the check that fails. -/
def decodeBundle (ctx : EncCtx) (first : Bool) (bits : Nat) : Except EncErr Bundle :=
  match bundleErr ctx first bits with
  | some e => .error e
  | none => .ok
    { stall := Fin.ofNat 16 bits, restart := bitAt bits 4,
      c := slotOf ctx bits .c, a := slotOf ctx bits .a, v := slotOf ctx bits .v,
      x := slotOf ctx bits .x, l := slotOf ctx bits .l, f := slotOf ctx bits .f }

def Bundle.slots (b : Bundle) : List Slot := [b.c, b.a, b.v, b.x, b.l, b.f].filterMap id

/-- The bits of one optional slot in its place. -/
def slotPart (o : Option Slot) (c : SlotClass) : Nat :=
  match o with
  | none => 0
  | some s =>
    match encodeSlot s with
    | some (_, w) => 2 ^ (5 + c.index) + w * 2 ^ (24 + 60 * c.index)
    | none => 0

/-- The 384 bits of a bundle. -/
def encodeBundle (b : Bundle) : Nat :=
  b.stall.val + b.restart.toNat * 2 ^ 4 + slotPart b.c .c + slotPart b.a .a + slotPart b.v .v + slotPart b.x .x
    + slotPart b.l .l + slotPart b.f .f

/-- The bundle that holds one unguarded operation. -/
def soloBundle (i : Instr) : Option Nat :=
  (encodeOp i).map fun (c, op, body) => 2 ^ (5 + c.index) + slotWord 0 false op body * 2 ^ (24 + 60 * c.index)

/-! ## Code words (R105, R107) -/

/-- What one code word says. -/
inductive CodeWord where
  | dict (i : Nat) | escape | unassigned
  deriving DecidableEq, Repr

def codeWord (w : Nat) : CodeWord :=
  if w < 0x2000 then .dict w else if w = 0xFFFF then .escape else .unassigned

/-- The literal bundle of an escape: code word j holds bundle bits [16j+15 : 16j] (R107). -/
def literalBundle : List Nat → Nat
  | [] => 0
  | w :: r => w + 2 ^ 16 * literalBundle r

/-- The k code words of a number whose bit 0 is the lowest bit of the first word. -/
def wordsOf : Nat → Nat → List Nat
  | 0, _ => []
  | k + 1, w => w % 2 ^ 16 :: wordsOf k (w / 2 ^ 16)

/-- The operation of a bundle's lowest valid slot. -/
def firstOp (bits : Nat) : Option Instr :=
  let ctx : EncCtx := { cmd := false, collHeld := List.range 256 }
  let cmdCtx : EncCtx := { cmd := true, collHeld := [] }
  let first := isAlignBits bits
  match decodeBundle ctx first bits with
  | .ok b => b.slots.head?.map (·.op)
  | .error _ =>
    match decodeBundle cmdCtx first bits with
    | .ok b => b.slots.head?.map (·.op)
    | .error _ => none

/-- What the decoder reads from code words whose bits are w, the first word lowest: an escape and its literal bundle.
A dictionary word names a bundle of a node's dictionary, which a word alone does not give; other words are unassigned. -/
def decodeTableWord (_nbits w : Nat) : Option Instr :=
  match codeWord (w % 2 ^ 16) with
  | .escape => firstOp (literalBundle (wordsOf 24 (w / 2 ^ 16)))
  | _ => none

end Sys2Proof
end

