-- ==== Sys2Proof/Config.lean ====
section
/-! DEFINITION. What the spec leaves to the implementation, as constants without a body: nothing can be proved about their values. -/

namespace Sys2Proof.Config

/-- An undefined word. R390: accumulator words derived from bad operand data hold values that are not defined.
Applied to the counter `State.free`, so that every use is a fresh value. -/
opaque freeWord : Nat → BitVec 32

/-- An undefined code of a register, tile or memory array read with an uncorrectable error (R386, R390). -/
opaque freeBits : Nat → Nat → Nat

/-- The error syndrome of R393 and R400: the spec gives the field and no value. -/
opaque syndrome : Nat → BitVec 32

/-- The bytes of an HSS/LMS signature (R335): private key material that no reader has. Arguments: leaf index, message digest. -/
opaque lmsSignature : Nat → Nat → List (BitVec 8)

/-- Whether a firmware image's vendor signature verifies (R336): the vendor's key is not in the spec. -/
opaque firmwareVerifies : Nat → List (BitVec 8) → Bool

/-- The certificate chain of slot 0 (R335): its bytes are not in the spec. -/
opaque certificateChain : List (BitVec 8)

/-- Places beyond one for flits of circuits, and as many for flits of packets, at an on-die input port of a router (R28): the spec gives no bound. Arguments:
router, port. -/
opaque portPlaces : Nat → Nat → Nat

/-- Places beyond one whole message for the flits of a circuit at its receiving end (R28): the spec gives no bound. Argument: the circuit. -/
opaque endPlaces : Nat → Nat

/-- Which of the overlapping valid ranges the range cache holds (R97). Arguments: cluster, address, fresh counter. -/
opaque rangeChoice : Nat → Nat → Nat → Nat

end Sys2Proof.Config
end

