-- ==== Sys2Proof/Machine/Sparse.lean ====
section
/-! DEFINITION. Plain data by key: lists of (key, value) pairs. `Sparse` lists no entry that equals the value an unlisted key
reads as, and its keys rise strictly, so that equal contents are equal lists. -/

namespace Sys2Proof.Machine

abbrev Sparse (α : Type) := List (Nat × α)

/-- The first entry listed for the key. -/
def Sparse.find? {α : Type} (k : Nat) : Sparse α → Option α
  | [] => none
  | (j, v) :: r => if j = k then some v else Sparse.find? k r

/-- What a key reads as; `d` is what an unlisted key reads as. -/
def Sparse.get {α : Type} (d : α) (m : Sparse α) (k : Nat) : α := (Sparse.find? k m).getD d

/-- The list without the key. -/
def Sparse.erase {α : Type} (k : Nat) : Sparse α → Sparse α
  | [] => []
  | (j, v) :: r => if j = k then Sparse.erase k r else (j, v) :: Sparse.erase k r

/-- The list with an entry for the key, in its place. -/
def Sparse.insert {α : Type} (k : Nat) (v : α) : Sparse α → Sparse α
  | [] => [(k, v)]
  | (j, w) :: r => if k < j then (k, v) :: (j, w) :: r else if j = k then (k, v) :: r else (j, w) :: Sparse.insert k v r

/-- A write: the value that an unlisted key reads as removes the entry. -/
def Sparse.set {α : Type} [DecidableEq α] (d : α) (m : Sparse α) (k : Nat) (v : α) : Sparse α :=
  if v = d then Sparse.erase k m else Sparse.insert k v m

/-- Every key is above `lo`, keys rise strictly, and no entry equals the default. -/
def Sparse.wfFrom {α : Type} [DecidableEq α] (d : α) : Option Nat → Sparse α → Bool
  | _, [] => true
  | lo, (j, v) :: r =>
    (match lo with
     | none => true
     | some l => decide (l < j)) && decide (v ≠ d) && Sparse.wfFrom d (some j) r

/-- The canonical form. -/
def Sparse.wf {α : Type} [DecidableEq α] (d : α) (m : Sparse α) : Bool := Sparse.wfFrom d none m

/-- A set of numbers as a strictly rising list. -/
def addSorted (k : Nat) : List Nat → List Nat
  | [] => [k]
  | j :: r => if k < j then k :: j :: r else if j = k then j :: r else j :: addSorted k r

/-- The element at a place of a list changed by a function. -/
def modifyAt {α : Type} (f : α → α) : Nat → List α → List α
  | _, [] => []
  | 0, a :: r => f a :: r
  | n + 1, a :: r => a :: modifyAt f n r

end Sys2Proof.Machine
end

