-- ==== Sys2Proof/Machine/State.lean ====
section
/-! DEFINITION. The state of one device as plain data: cores, accesses in flight, memory, the running node, the engines, the
fabric, the host's registers, the scribe, and the agenda through which the outside world and physical timing enter. -/

namespace Sys2Proof.Machine

/-! ## Why a step can stop -/

/-- A fault: the spec names the access and says that what it names does not exist, or gives no outcome for it. -/
inductive Fault where
  /-- Raised by the host's accesses through BAR2, by host AtomicOps and by RVK at a physical address that R102 gives no memory. Safe:
  the machine stops. -/
  | noSuchAddress (pa : Nat)
  deriving DecidableEq, Repr

/-- A refusal: the instruction has no meaning in the model. -/
inductive Refusal where
  /-- Raised by an arm of `exec` that has no meaning yet. Safe: nothing follows from it. -/
  | notModelled (mnemonic : String)
  deriving DecidableEq, Repr

/-! ## Traps and waits -/

/-- A register as waits and the scoreboard name it (R29, R357, R360); of an accumulator row, the columns of a mask; `scale` is the
local scratchpad word of a DRAIN's scale vector. -/
inductive Reg where
  | s (n : Nat) | p (n : Nat) | v (n : Nat) | m (n : Nat) | t (n : Nat) | tcfg (n : Nat) | acc (row : Nat) (cols : BitVec 64)
  | scale (addr : Nat)
  deriving DecidableEq, Repr

/-- A trap before its delivery (R350, R354): what the trap CSRs and the record take from it. -/
structure Trap where
  cause : Nat
  sub : Nat
  slot : Nat := 0
  info0 : Word := 0
  info1 : Word := 0
  addr : Word := 0
  /-- TRAPOPC of a deferred report (R352). -/
  opc : Word := 0
  defer : Bool := false
  /-- The logical cycle of the originating bundle of a deferred report (R352, R353). -/
  origin : Nat := 0
  deriving DecidableEq, Repr

/-- Why a bundle is held (R29, R113), as R357 reports it: the sub-cause of the timing trap and its three words. -/
structure Wait where
  sub : Nat
  info0 : Word := 0
  info1 : Word := 0
  addr : Word := 0
  opc : Word := 0
  deriving DecidableEq, Repr

/-- A deferred report that has not been taken yet (R352). -/
structure Report where
  due : Nat
  trap : Trap
  deriving DecidableEq, Repr

/-- A trap record (R355): 64 bytes. -/
abbrev Record := BitVec 512

/-! ## One core -/

/-- The state of one scratchpad tile (R81), the overrun that R363 records beside it, and the PC of the handoff's GIVE. -/
structure Tile where
  arrived : Nat := 0
  expect : Nat := 0
  dir : Bool := false
  engine : Bool := false
  verified : Bool := true
  fmt : Nat := 0
  tag : BitVec 4 := 0
  /-- Units offered to the handoff, refused ones included (R363). -/
  offered : Nat := 0
  overrun : Bool := false
  givePc : Word := 0
  /-- The logical cycle of the handoff: what the engines do to the tile stands there in the order of the core's accesses (R80, R84). -/
  giveLc : Nat := 0
  deriving DecidableEq, Repr

/-- How far an access must have come before a later one may go on (R250, R254, R257). -/
inductive Level where
  /-- A load's value is bound; an aggregated element is applied. -/
  | performed
  /-- A store has left its queue: it is in its cluster's memory port, or its packet has gone. -/
  | entered
  /-- A store is performed at CLUSTER scope. -/
  | port
  /-- A store is at the coherence point. -/
  | ctl
  /-- Not one access: every load of the core that stands in program order before the number is performed, and so is every store of another
  task that the core has observed up to there, at DEVICE scope when `wide` and else at CLUSTER scope. -/
  | observed (core : Nat) (wide : Bool)
  /-- Not one access: the first `count` groups of a device stream of the core have come as far as `lv` asks; the number of the dependence is the
  stream's place in program order (R93, R253). -/
  | groups (core count : Nat) (lv : Level)
  deriving DecidableEq, Repr

/-- An access that must have reached a level. -/
structure Dep where
  id : Nat
  level : Level
  deriving DecidableEq, Repr

/-- A store of another task that happens before the core's accesses from a place in program order on (R257, R263). -/
structure Seen where
  store : Nat
  from_ : Nat
  deriving DecidableEq, Repr

/-- A row of a result queue (R90) and whether its parity is bad (R386). -/
structure QRow where
  words : BitVec 2048
  bad : Bool := false
  deriving DecidableEq, Repr

/-- A bound stream register (R91, R92, R220). -/
structure Stream where
  output : Bool
  device : Bool
  tc : Bool
  tagx : BitVec 4
  handle : BitVec 32
  start : Word
  counts : List Nat
  strides : List Int
  /-- Format code and BLK code of the target range (device streams). -/
  fmt : Nat := 0
  blk : Nat := 0
  /-- Groups popped or pushed by bundles so far. -/
  done : Nat := 0
  /-- Groups read from or written to device memory so far. -/
  moved : Nat := 0
  /-- Groups buffered (R31: two at most), and whether a reserved ternary code was decoded. -/
  buf : List (BitVec 2048 × Bool) := []
  /-- The group that the bundle at issue has popped (R92). -/
  cur : BitVec 2048 := 0
  pc : Word := 0
  /-- Its place in program order, that of the SBIND (R93), and what its first group waits for in the queues. -/
  order : Nat := 0
  deps : List Dep := []
  /-- The logical cycle of the SBIND. -/
  lc : Nat := 0
  deriving DecidableEq, Repr

/-- An active hardware loop (R140). -/
structure Loop where
  first : Word
  last : Word
  left : Nat
  deriving DecidableEq, Repr

/-- One code word as expansion finds it (R105, R372). -/
inductive Fetched where
  | bundle (w : BitVec 384)
  /-- A check of R372 that the code word fails. -/
  | bad (sub info0 info1 addr : Nat)
  /-- The fetch met a translation failure (R394 sub-cause 0x06) or poison (R388). -/
  | unreadable (cause sub info0 info1 addr : Nat)
  deriving DecidableEq, Repr

/-- One expanded bundle of the loop buffer (R111): its PC, the bytes its code words take, and what they hold. -/
structure BufItem where
  pc : Nat
  len : Nat
  what : Fetched
  deriving DecidableEq, Repr

/-- One half of the loop buffer (R111): one expanded segment. -/
structure Half where
  /-- The segment header's address. -/
  head : Nat
  /-- NEXT as an offset from the image base; 0 ends the chain. -/
  next : Nat
  rep : Bool
  /-- A check of the header that fails, reported when execution reaches a bundle of the segment (R130, R372). -/
  err : Option Fetched := none
  items : List BufItem
  deriving DecidableEq, Repr

/-- Operands of a matrix operation, as taken at issue (R207). -/
structure MatOp where
  mmt : Bool
  row0 : Nat
  m : Nat
  n : Nat
  k : Nat
  fa : Fmt
  fb : Fmt
  a : BitVec 65536
  b : BitVec 65536
  neg : Bool
  clr : Bool
  sum : Shape
  deriving DecidableEq, Repr

/-- A DRAIN in flight (R210): what each of its rows still needs. -/
structure DrainOp where
  row0 : Nat
  nrow : Nat
  q : QReg
  df : Fmt
  rm : RM
  ov : OV
  i32 : Bool
  cols : Option (BitVec 2048)
  rows : Option (BitVec 2048)
  deriving DecidableEq, Repr

/-- What a fixed-latency result does when it becomes visible (R34). -/
inductive Commit where
  | s (n : SReg) (v : Word)
  | p (n : PReg) (v : Bool)
  | v (n : VReg) (mask : BitVec 64) (val : BitVec 2048)
  | m (n : MReg) (mask val : BitVec 64)
  | t (n : TReg) (nbits : Nat) (val : BitVec 65536)
  | tcfg (n : TReg) (v : Word)
  | csr (n : Nat) (v : Word)
  /-- Bits of STICKY are set (R156). -/
  | sticky (v : BitVec 2)
  /-- Words of one accumulator row, at the columns of the mask (R209). -/
  | acc (row : Nat) (mask : BitVec 64) (val : BitVec 2048)
  | aclr (aw : Nat)
  /-- A matrix operation commits (R207); `badA` and `badB` are the 64-bit words of its operands that held an uncorrectable
  error (R390). -/
  | mat (op : MatOp) (badA badB : List Nat)
  /-- Row i of a DRAIN is read and pushed (R210, R211). -/
  | drain (op : DrainOp) (i : Nat)
  /-- The queue is judged for room at the end of the logical cycle at which row i was pushed (R211). -/
  | room (op : DrainOp) (i : Nat)
  | qclr (q : QReg)
  /-- ACPY's local stores (R209): whether they carry the poison encoding (R391). -/
  | store (addr : Nat) (bytes : List Byte) (poison : Bool)
  /-- One group leaves for an output stream (R179); `parts` are the cluster accesses that still owe lanes of it. -/
  | push (f : Fin 8) (mask : BitVec 64) (group : BitVec 2048) (parts : List Nat)
  /-- The same for a binding that SFREE has ended, as it then stood (R92). -/
  | pushOld (f : Fin 8) (st : Stream) (mask : BitVec 64) (group : BitVec 2048) (parts : List Nat)
  /-- A window is lent to the engines (R89, R212). -/
  | lend (aw : Nat)
  deriving DecidableEq, Repr

/-- A fixed-latency result in flight. `key` is twice the logical cycle at which it becomes visible, plus one for what happens at
the end of that cycle; `slot` and the order of the list give R35. -/
structure Pending where
  key : Nat
  slot : Nat
  /-- The logical cycle and the PC of the bundle that issued it. -/
  lc : Nat
  pc : Word
  what : Commit
  deriving DecidableEq, Repr

/-- The restart shadow (R44): RESTPC and RESTLC are its `pc` and `lc`. -/
structure Shadow where
  s : Vector Word 64
  p : BitVec 16
  pc : Word
  lc : Word
  deriving DecidableEq, Repr

/-- What a scratchpad access replaced, kept so that a cluster access finds the scratchpad of its own performing cycle when the target
has run past it (R30, R80). -/
inductive Replaced where
  | byte (addr : Nat) (old : Byte)
  | tile (n : Nat) (old : Tile)
  deriving DecidableEq, Repr

/-- One replacement with its place in the order of R80: the logical cycle, and within it 0 for the core's own accesses and 1 more than the
logical core for a cluster access. -/
structure Undo where
  cycle : Nat
  rank : Nat
  what : Replaced
  deriving DecidableEq, Repr

/-- Bytes of a scratchpad that have been read, with the place of the read in the order of R80. -/
structure Look where
  cycle : Nat
  rank : Nat
  start : Nat
  len : Nat
  deriving DecidableEq, Repr

/-- A soft error in a datapath that the duplicate checks of R366 find: the bits in which the two computations of an address of the next L-slot
access, by its place among those that the access forms, or of a lane of the next V-slot result or vector store, differ. -/
inductive Upset where
  | addr (ix : Nat) (diff : Word)
  | vec (lane : Nat) (diff : W32)
  deriving DecidableEq, Repr

/-- How far a task is (R18, R26, R41, R143). -/
inductive Phase where
  /-- No task: the core stays idle. -/
  | absent
  /-- The task's ALIGN has issued and has not completed. -/
  | aligning
  | running
  /-- SSTEP has issued and holds the next bundle. -/
  | sstep
  /-- ENDT has issued and holds the task. -/
  | ending
  | ended
  /-- Stopped by a record, a halt or a machine check. -/
  | stopped
  deriving DecidableEq, Repr

/-- A word of a protected array that holds an uncorrectable error (R386). -/
inductive BadCell where
  | reg (r : Reg) | tile (t word : Nat) | acc (row col : Nat) | scratch (word : Nat)
  deriving DecidableEq, Repr

/-- Poison of one accumulator group: the sub-cause and PC that R392 reports. -/
structure GroupPoison where
  group : Nat
  sub : Nat
  pc : Word
  deriving DecidableEq, Repr

/-- The report of a failed engine command (R406, R407): its channel and the tiles that it still holds. -/
structure ChanErr where
  ch : Nat
  tiles : List Nat
  trap : Trap
  deriving DecidableEq, Repr

/-- The trap CSRs (R153): what the last trap left. -/
structure TrapCsrs where
  cause : Word := 0
  pc : Word := 0
  lc : Word := 0
  addr : Word := 0
  info0 : Word := 0
  info1 : Word := 0
  opc : Word := 0
  deriving DecidableEq, Repr

/-- What the issue stage looks back at (R38): a bundle issued or nullified just before. -/
structure Past where
  lc : Nat
  /-- The predicates that its valid slots write. -/
  writes : BitVec 16
  deriving DecidableEq, Repr

/-- One core. The command core is held in the same form: it uses the program counter, LC, S, P, loops, STICKY and fetch. -/
structure Core where
  phase : Phase
  pc : Word
  lc : Word
  s : Vector Word 64
  p : BitVec 16
  v : Vector (BitVec 2048) 32
  m : Vector (BitVec 64) 8
  t : Vector (BitVec 65536) 16
  tcfg : Vector Word 16
  acc : Sparse (BitVec 2048)
  q : Vector (List QRow) 4
  chcnt : Vector (BitVec 48) 8
  streams : Vector (Option Stream) 8
  loops : List Loop
  shadow : Shadow
  trapvec : Word
  trap : TrapCsrs
  sbchk : Bool
  inh : Bool
  sticky : BitVec 2
  /-- The logical cycle at which an operation last set bits of STICKY, and the bits it set in that cycle (R152). -/
  stickyNow : Nat × BitVec 2
  scratch : Sparse Byte
  tiles : Sparse Tile
  /-- What accesses of the running task's scratchpad replaced, in the order of R80. -/
  undo : List Undo
  /-- What the running task and other cores have read of the scratchpad: for such a read a cluster store of an earlier place comes too late (R30, R80). -/
  looked : List Look
  /-- Of the last cluster access performed after the task's end: its clock, performing cycle and logical core (R30). -/
  clSeen : Nat × Nat × Nat
  /-- Soft errors that the next computations will meet (R366). -/
  upsets : List Upset
  pend : List Pending
  reports : List Report
  /-- A trap whose entry waits for older operations (R351 step 1): the trap, TRAPPC and TRAPLC. -/
  entering : Option (Trap × Word × Word)
  /-- No bundle of the task has issued yet (R26, R142). -/
  first : Bool
  past : List Past
  /-- For each predicate, the logical cycle at which its last write became visible (R38 condition 4). -/
  pvis : Vector Nat 16
  half0 : Option Half
  half1 : Option Half
  /-- Execution is in the second half (R112). -/
  inHalf1 : Bool
  /-- The PC whose code was fetched a second time after a poisoned fetch (R388). -/
  refetched : Option Nat
  /-- Where the bundle at issue sends execution, when it does not fall through. -/
  jump : Option Word
  /-- The PC of the branch by which execution came to `pc`, for R372 sub-cause 0x07. -/
  branchFrom : Option Word
  /-- The PC of the segment's last bundle after which execution fell through an end of the chain (R372 sub-cause 0x06). -/
  fellFrom : Option Word
  /-- The device clock at which the present hold began (R32). -/
  held : Option Nat
  /-- The sub-cause (R357) of the present hold, and the clocks spent in holds and in fetch waits (R454). -/
  heldSub : Nat
  /-- Since when the clocks of a stall or of a fetch wait of that kind have not been added to its sum. -/
  stallFrom : Option Nat
  stallClk : Nat
  fetchClk : Nat
  /-- Core clocks that bundles have taken, and the length of the present run of nullified ones (R39, R40). -/
  clks : Nat
  nullRun : Nat
  /-- What a younger load, store and message must wait for (R256, R260, R261). -/
  ordLoads : List Dep
  ordStores : List Dep
  ordMsgs : List Dep
  /-- Stores of other tasks that happen before what the core issues, as far as they may not be performed at DEVICE scope. -/
  seen : List Seen
  /-- The places in program order of its last full or rel FENCE, and of its last FENCE or QMARK of any kind (R261). -/
  fences : Nat × Nat
  /-- Windows lent by AGIVE (R89), each with the ids of the follow-on commands that the lend covers. -/
  lent : List (Nat × List Nat)
  groupPoison : List GroupPoison
  bad : List BadCell
  /-- The logical cycle after the arrays' occupancy by core-issued matrix operations (R208). -/
  busyUntil : Nat
  /-- By accumulator group, the cycle after the last access of a core-issued matrix operation, ALD or DRAIN (R212). -/
  accAfter : Sparse Nat
  /-- Channel errors not reported yet (R407). -/
  chanErr : List ChanErr
  /-- Failed remote operations, reported by the first bundle that reads their register (R417, R418). -/
  regFaults : List (Reg × Report)
  lastPc : Word
  lastLc : Word
  /-- SEQ of the task's next operation packet (R273). -/
  opSeq : BitVec 16
  /-- The logical cycle of the task's last SSTEP (R43, R277). -/
  sstepLc : Nat
  deriving DecidableEq, Repr

/-- A core whose coordinate has no task, with the values that R19 and R153 give a task at its start. -/
def Core.idle : Core where
  phase := .absent
  pc := 0
  lc := 0
  s := Vector.replicate 64 0
  p := 1
  v := Vector.replicate 32 0
  m := (Vector.replicate 8 0).set 0 (BitVec.allOnes 64)
  t := Vector.replicate 16 0
  tcfg := Vector.replicate 16 0x1F3F13
  acc := []
  q := Vector.replicate 4 []
  chcnt := Vector.replicate 8 0
  streams := Vector.replicate 8 none
  loops := []
  shadow := { s := Vector.replicate 64 0, p := 0, pc := 0, lc := 0 }
  trapvec := 0
  trap := {}
  sbchk := false
  inh := false
  sticky := 0
  stickyNow := (0, 0)
  scratch := []
  tiles := []
  undo := []
  looked := []
  clSeen := (0, 0, 0)
  upsets := []
  pend := []
  reports := []
  entering := none
  first := true
  past := []
  pvis := Vector.replicate 16 0
  half0 := none
  half1 := none
  inHalf1 := false
  refetched := none
  jump := none
  branchFrom := none
  fellFrom := none
  held := none
  heldSub := 0
  stallFrom := none
  stallClk := 0
  fetchClk := 0
  clks := 0
  nullRun := 0
  ordLoads := []
  ordStores := []
  ordMsgs := []
  seen := []
  fences := (0, 0)
  lent := []
  groupPoison := []
  bad := []
  busyUntil := 0
  accAfter := []
  chanErr := []
  regFaults := []
  lastPc := 0
  lastLc := 0
  opSeq := 0
  sstepLc := 0

/-! ## Accesses in flight -/

/-- One element of a device-memory access: its address, its bytes, the lane it belongs to and, for a store, its value. -/
structure Elem where
  va : Nat
  n : Nat
  lane : Nat := 0
  data : Nat := 0
  deriving DecidableEq, Repr

/-- What a device-memory or remote access does (R253). -/
inductive AccOp where
  | ld (d : SReg) (sz : Size) (sg : Bool)
  /-- `fmt` is the memory format of the first element (R214). -/
  | vld (vd : VReg) (mask : BitVec 64) (fmt : Fmt)
  /-- A window read beyond the cached 4 KiB (R94); `oob`: some of its bytes lie beyond the window's size. -/
  | ldw (d : SReg) (sz : Size) (sg oob : Bool)
  | vldw (vd : VReg) (oob : Bool)
  | st
  | atom (d : SReg) (opk : Opk) (wide : Bool) (b c : Word)
  | casw (d : SReg) (expect new : List Word)
  | enq (d : SReg) (new : Word)
  /-- ENQ after its tail swap: the link store, to the key that the unit has found, is still to be performed (R271, R272). -/
  | enqLink (d : SReg) (old new : Word) (key : Nat)
  | chase (d : SReg) (left : Nat) (off : Int)
  /-- An operation packet with a reply (R273): RLD when `opk` is none. -/
  | remote (d : SReg) (opk : Option Opk) (wide : Bool) (b : Word) (chip : BitVec 13) (seq : BitVec 16)
  /-- An aggregated element (R278): a store when `opk` is none. -/
  | agg (opk : Option Opk) (wide : Bool) (b : Word) (chip : BitVec 13)
  | streamIn (f : Fin 8)
  | streamOut (f : Fin 8)
  /-- An engine command that its engine has not accepted: the place it takes in flight (R221, R245). -/
  | place
  deriving DecidableEq, Repr

/-- Where an access is. -/
inductive AccAt where
  | queue | port | sent | performed
  deriving DecidableEq, Repr

/-- A device-memory or remote access under way. -/
structure Access where
  id : Nat
  core : Nat
  pc : Word
  lc : Nat
  op : AccOp
  addr : Word
  /-- The elements not performed yet, and of those that are: of a load the values by lane, of a store the key and the length of each. -/
  todo : List Elem
  got : List (Nat × Nat) := []
  /-- It sits in the load queue, the store queue or both (R253). -/
  inLoad : Bool
  inStore : Bool
  place : AccAt := .queue
  ord : Ord := .plain
  sco : Scope := .task
  deps : List Dep
  /-- Its place in the order of entry into the memory port (R251). -/
  portSeq : Nat := 0
  /-- The graph slot in whose context it is translated. -/
  slot : Nat := 0
  abandoned : Bool := false
  /-- The OP of an atomic, which R396 reports; the access lies in the range that holds its first byte (R394 sub-cause 0x05). -/
  opcode : Nat := 0
  span : Bool := false
  /-- Its place in program order where that is not the order of ids: a group of a stream stands at its SBIND (R93). -/
  order : Nat := id
  /-- Which group of its stream it is. -/
  group : Nat := 0
  deriving DecidableEq, Repr

/-- What a cluster scratchpad access does at its target (R30, R214, R216, R227). -/
inductive ClOp where
  | ld (d : SReg) (sz : Size) (sg : Bool)
  | st (n data : Nat)
  | vld (vd : VReg) (mask : BitVec 64) (stride : Nat)
  | vst (mask : BitVec 64) (val : BitVec 2048) (stride : Nat)
  | vldg (vd : VReg) (mask : BitVec 64) (addrs : List Nat)
  | vsts (mask : BitVec 64) (val : BitVec 2048) (addrs : List Nat)
  | atom (d : SReg) (opk : Opk) (wide : Bool) (b c : Word)
  deriving DecidableEq, Repr

/-- A cluster scratchpad access under way: performed at the target's logical cycle `perform`, visible to the issuer from `vis`.
`addr` is the address in the cluster space. -/
structure ClAcc where
  id : Nat
  core : Nat
  target : Nat
  addr : Nat
  perform : Nat
  vis : Nat
  slotIx : Nat
  pc : Word
  op : ClOp
  /-- The address of the first element of the instruction's access, from whose tile the format comes (R214). -/
  first : Nat := 0
  /-- The target's task had ended when it was issued (R30). -/
  ended : Bool := false
  /-- Lanes that other targets have given the same instruction, and whether a reserved code was among them. -/
  have_ : BitVec 64 × BitVec 2048 × Bool := (0, 0, false)
  /-- Lanes of its result that no later result has overwritten (R35); of a scalar result, bit 0. -/
  keep : BitVec 64 := BitVec.allOnes 64
  /-- Its result is abandoned (R358, R393). -/
  abandoned : Bool := false
  deriving DecidableEq, Repr

/-! ## Messages, routers and links -/

/-- A message (R234, R311): `kind` 0 register, 1 tile, 2 collective; `len` in 32-bit words or 64-byte units. -/
structure Message where
  circ : Nat
  stamp : Word
  kind : Nat
  len : Nat
  fmt : Nat
  sdev : Nat
  stask : Nat
  cstep : Word
  payload : List (BitVec 512)
  deriving DecidableEq, Repr

/-- One flit of the fabric (R303, R307): TYPE, the CIRC byte, PCLS, 64 bytes; `arrive` is the router's logical cycle from which it
can move. For a packet's flits (R307) CIRC holds the flit's index and the count, and `dst` is the device it goes to. -/
structure Flit where
  type : Nat
  circ : Nat
  pcls : Nat := 0
  data : BitVec 512
  arrive : Nat := 0
  order : Nat := 0
  dst : Nat := 0
  /-- A flit of a packet. -/
  pkt : Bool := false
  /-- The device that a packet comes from. -/
  src : Nat := 0
  /-- An error of the buffer that holds the flit, which its next read finds, and whether it cannot be corrected (R432). -/
  err : Option Bool := none
  /-- A buffer's read has marked the flit bad (R432). -/
  bad : Bool := false
  /-- The link whose skid buffer holds it (R309). -/
  via : Option Nat := none
  /-- The repair copy that a packet of class 7 is part of (R428). -/
  repair : Option Repair := none
  deriving DecidableEq, Repr

/-- A cluster router (0-11) or the hub (12) with its two planes (R301, R302): an entry is a number whose byte p controls output p. -/
structure Router where
  lc : Nat := 0
  primary : List Nat := []
  backup : List Nat := []
  /-- Waiting flits by input port, oldest first. -/
  inq : List (List Flit)
  /-- The packet that each output is in the middle of: its input port (R303). -/
  pkt : List (Option Nat)
  deriving DecidableEq, Repr

/-- LNKSTAT.STATE (R439). -/
inductive LinkState where
  | untrained | up | retraining | dead
  deriving DecidableEq, Repr

/-- This device's end of one link (R307-R310, R422-R439). -/
structure Link where
  state : LinkState := .untrained
  /-- This link carries its sibling's traffic. -/
  failover : Bool := false
  /-- A dead link is being trained again; it was, and has not taken its traffic back (R439). -/
  reviving : Bool := false
  parked : Bool := false
  /-- SEQ of the next flit sent, and the unacknowledged flits with their SEQ, oldest first (R308). -/
  txSeq : BitVec 12 := 0
  retry : List (BitVec 12 × Flit) := []
  credits : Nat := 1024
  lastCred : BitVec 11 := 0
  /-- The clock since which the oldest unacknowledged flit has waited (R424). -/
  oldest : Nat := 0
  /-- The SEQ of the next flit of a replay under way (R424). -/
  replayFrom : Option (BitVec 12) := none
  /-- GOOD of the replay under way (R424). -/
  replayOf : BitVec 12 := 0
  /-- SEQ expected next, places of the skid buffer in use, places freed since training (R422, R423). -/
  rxSeq : BitVec 12 := 0
  used : Nat := 0
  freed : BitVec 11 := 0
  /-- Sequenced flits taken and not acknowledged (R308). -/
  unacked : Nat := 0
  /-- A NAK has been sent since the last flit taken in sequence, and when (R422). -/
  nakAt : Option Nat := none
  consecSent : Nat := 0
  consecSeen : Nat := 0
  /-- Clocks at which retrains started, newest first (R434). -/
  retrainAt : List Nat := []
  /-- The peer has acknowledged the notice of the dead sibling (R435), and when a notice was last sent. -/
  deadAcked : Bool := false
  deadSentAt : Nat := 0
  fcrcErrors : Nat := 0
  retrains : Nat := 0
  replays : Nat := 0
  naks : Nat := 0
  en : Bool := false
  vec : BitVec 8 := 0
  /-- Acknowledgements, NAKs and align flits that have arrived and have not been taken. -/
  ctlIn : List (BitVec 576) := []
  /-- The packet whose last flit has arrived and whose tail has not: its PCLS and the tail's CIRC byte. -/
  tailDue : Option (Nat × Nat) := none
  /-- The payloads of that packet, and the circuits of which a message is arriving. -/
  pktBody : List (BitVec 512) := []
  opened : List Nat := []
  /-- Flits of the dead sibling that wait for room (R435). -/
  backlog : List Flit := []
  /-- The dead sibling's flits wait for the peer's DGOOD, and the traffic of the pair behind them (R435, R437). -/
  awaitsGood : Bool := false
  /-- The two words of the last align flit received (R310). -/
  aligned : Option (Word × Word) := none
  /-- Every wire flit sent, oldest first: what the far end sees. -/
  sent : List (BitVec 576) := []
  deriving DecidableEq, Repr

/-- A message kept for repair until its receiver confirms it (R428). -/
structure Stored where
  circ : Nat
  ordinal : BitVec 16
  flits : List Flit
  deriving DecidableEq, Repr

/-- A place in a circuit's order at its receiver (R429): a message that has checked, or one whose tag failed, with the clock of its
last re-request and the device that sent it. -/
inductive RxPlace where
  | ready (m : Message)
  | failed (ordinal : BitVec 16) (asked : Nat) (sdev : Nat)
  deriving DecidableEq, Repr

/-- A tile that the fabric interface reads for a SENDT or writes for a RECVT (R83, R238): the units still to come, and the number
of the message whose flits wait for them. -/
structure TileIo where
  core : Nat
  tile : Nat
  out : Bool
  fmt : Nat
  unit : Nat
  data : List (BitVec 512)
  order : Nat
  deriving DecidableEq, Repr

/-- One circuit as the running node declares it (R460), with its send buffer and its receiving side. -/
structure Circuit where
  id : Nat
  links : BitVec 12
  lat : Nat
  rtask : Nat
  stask : Nat
  rhere : Bool
  shere : Bool
  /-- Flits that have not left the fabric interface, each with the accesses that a fence makes its message wait for (R261, R461). -/
  out : List (Flit × List Dep) := []
  sentOrd : BitVec 16 := 0
  /-- Flits received whose tail has not been judged. -/
  asm : List Flit := []
  rx : List RxPlace := []
  rxOrd : BitVec 16 := 0
  /-- For each message between two tasks of this device that has not been received: its sender, and the places in the sender's program order
  of the fences before it (R261, R263). -/
  carry : List (Nat × Nat × Nat) := []
  deriving DecidableEq, Repr

/-- A packet (R273, R279, R428) that has not entered the fabric, or one that has arrived complete. -/
structure Packet where
  pcls : Nat
  dst : Nat
  flits : List (BitVec 512)
  /-- The device that sent one that has arrived, as its tail names it. -/
  src : Nat := 0
  /-- The repair copy that it is part of (R428). -/
  repair : Option Repair := none
  deriving DecidableEq, Repr

/-- An operation packet whose reply is outstanding (R430). -/
structure OpSent where
  id : Nat
  task : Nat
  chip : Nat
  seq : BitVec 16
  at_ : Nat
  resends : Nat := 0
  deriving DecidableEq, Repr

/-- One element of an aggregation buffer: the access it came from and its two words (R279). -/
structure AggElem where
  id : Nat
  task : Nat
  word0 : Word
  word1 : Word
  pc : Word
  /-- The clock at which it entered. -/
  clk : Nat := 0
  deriving DecidableEq, Repr

/-- An open aggregation buffer (R278). -/
structure AggBuf where
  dst : Nat
  gslot : Nat
  elems : List AggElem
  openedAt : Nat
  lastAt : Nat
  deriving DecidableEq, Repr

/-- A packet that has left a buffer and is not acknowledged (R281, R430). -/
structure AggSent where
  dst : Nat
  pseq : BitVec 16
  gslot : Nat
  elems : List AggElem
  at_ : Nat
  resends : Nat := 0
  deriving DecidableEq, Repr

/-- A reply held for a source task (R274): the unit that executed it, source device, task, SEQ, STATUS and the old value. -/
structure CachedReply where
  ctl : Nat
  dev : Nat
  task : Nat
  seq : BitVec 16
  status : Nat
  value : Word
  deriving DecidableEq, Repr

/-- What the destination's fabric interface keeps for one stream of packets (R427): the number after the last one served, the packets held
behind a missing one since a clock, and the numbers marked missing. -/
structure Stream427 where
  agg : Bool
  dev : Nat
  task : Nat
  next : BitVec 16 := 0
  held : List Packet := []
  heldAt : Nat := 0
  missing : List (BitVec 16) := []
  /-- The numbers of operation packets whose tags have failed here, and which have not arrived again. -/
  lost : List (BitVec 16) := []
  /-- For aggregation packets: the next element of the packet in front, the cause and sub-cause of each one skipped, and the
  acknowledgements of the packets applied (R419, R430). -/
  elem : Nat := 0
  fails : List (Nat × Nat × Nat) := []
  applied : List (BitVec 16 × BitVec 512) := []
  deriving DecidableEq, Repr

/-! ## Engines -/

/-- What an engine command asks for. -/
inductive CmdKind where
  | copy (tmpl : Nat) (param : Int)
  | coll (tmpl : Nat) (param : Int)
  | ksrch (a : Word) (stk : Nat)
  | kred (a : Word) (stk : Nat)
  | kop (a : Word) (stk : Nat)
  deriving DecidableEq, Repr

/-- One element as a copy or kiln command has it: a key of R292, with the candidate's expanded bit. -/
structure Cand where
  dist : W32
  id : Nat
  expanded : Bool := false
  deriving DecidableEq, Repr

/-- The fields of a query packet that the search uses, and the shard entries of its descriptor (R288, R290). -/
structure Query where
  nip : Bool
  e : Nat
  k : Nat
  b : Nat
  g : Nat
  dim : Nat
  budget : Nat
  rhandle : Nat
  roff : Nat
  shards : List (List Nat)
  vfmt : Fmt
  q : List W32
  /-- Every handle that the command uses, with its offset. -/
  handles : List (Nat × Nat)
  deriving DecidableEq, Repr

/-- What the kiln of a stack keeps of a query since its first request there: the query vector and the shard entry of its stack (R291). -/
structure KilnShare where
  stack : Nat
  q : List W32
  shard : List Nat
  deriving DecidableEq, Repr

/-- A query context (R292). -/
structure QueryCtx where
  qp : Query
  visited : List Nat := []
  cands : List Cand := []
  results : List Cand := []
  expansions : Nat := 0
  rounds : Nat := 0
  badId : Bool := false
  vfull : Bool := false
  /-- The ids of the round under way, those whose distance has been requested, and the distances that have returned. -/
  members : List Nat := []
  asked : List Cand := []
  replies : List Cand := []
  /-- What the kilns to which a request has gone keep of the query. -/
  shares : List KilnShare := []
  deriving DecidableEq, Repr

/-- What a copy command still transfers in one tile (R83): `out` for a source, the bytes left, the 64-byte block that the run in
progress lies in. -/
structure TileUse where
  tile : Nat
  out : Bool
  left : Nat
  blk : Option Nat := none
  deriving DecidableEq, Repr

/-- A copy command that its engine has accepted (R223): the source format, the next run and element, the destination bytes of the
present chunk, its tiles. -/
structure CopyJob where
  fmt : Nat
  run : Nat := 0
  elem : Nat := 0
  chunk : Nat := 0
  started : Bool := false
  /-- The transfer is complete and the follow-on command has not run. -/
  follow : Bool := false
  uses : List TileUse
  deriving DecidableEq, Repr

/-- Where a running command stands. -/
inductive Progress where
  | copy (job : CopyJob)
  | kred (words : List Nat) (chunk : Nat)
  /-- The physical page, its format, the next bank, and the element that a bank could not read: its address and line. -/
  | kop (words : List Nat) (pagePa : Nat) (fmt : Fmt) (bank : Nat) (bad : Option (Nat × Nat))
  | ksrch (ctx : QueryCtx)
  | coll
  deriving DecidableEq, Repr

/-- How far an engine command is (R240, R241, R406). -/
inductive CmdState where
  | waiting
  | running (p : Progress)
  /-- Complete, not retired. -/
  | done
  | failed
  | cancelled
  deriving DecidableEq, Repr

/-- An engine command from its issue to its retirement. -/
structure Cmd where
  id : Nat
  core : Nat
  cluster : Nat
  ch : Chan
  inc : Nat
  kind : CmdKind
  pc : Word
  /-- The logical cycle of its issue. -/
  lc : Nat
  /-- What must be complete before the engine accepts it (R262). -/
  deps : List Dep
  st : CmdState := .waiting
  /-- The address in host space that its engine awaits (R369). -/
  awaits : Option Nat := none
  /-- What it has written, as key and number of bytes, to lines that stood poisoned or in error: all 64 bytes of one clear it (R388). -/
  wrote : List (Nat × Nat) := []
  deriving DecidableEq, Repr

/-- What the collective engine waits for (R320, R321): the source's handoffs, messages, the destination's handoffs, the return of the
tiles and the successor's confirmations. -/
inductive CollStage where
  | source | ring | dest | finish
  deriving DecidableEq, Repr

/-- What one or more messages of the ring carry (R316-R319): chunk c of the sum of `n` members from rank `lo` on, in the order of the kind (one
member: its own bytes); the final value of chunk c; chunk c of its owner's source; or a member's whole source. -/
inductive CollItem where
  | part (c lo n : Nat)
  | final (c : Nat)
  | piece (c : Nat)
  | whole (rank : Nat)
  deriving DecidableEq, Repr

/-- A collective that the engine has accepted (R314-R321). -/
structure CollRun where
  cmd : Nat
  core : Nat
  tmpl : Nat
  param : Int
  ordinal : BitVec 40
  members : List Nat
  rank : Nat
  stage : CollStage := .source
  /-- The clock at which the present wait began (R440). -/
  waitFrom : Nat := 0
  /-- The bytes of this member's source. -/
  src : List Byte := []
  /-- What has arrived whole from the predecessor. -/
  vals : List (CollItem × List Byte) := []
  /-- The bytes of the item that is arriving, or of the local buffer being read, and the messages received. -/
  part : List Byte := []
  step : Nat := 0
  /-- Items and messages that have been sent. -/
  itemsOut : Nat := 0
  stepOut : Nat := 0
  /-- The next unit of a local buffer. -/
  unit : Nat := 0
  /-- The tiles that have been handed over, with their directions; the cycle of a tile's handoff tells it from a later one. -/
  tiles : List (Nat × Bool) := []
  givenAt : List (Nat × Nat) := []
  /-- Ordinals of the messages sent on the circuit to the successor, oldest first, and the clocks at which they were sent (R440). -/
  sent : List (BitVec 16 × Nat) := []
  deriving DecidableEq, Repr

/-- An abort flit's payload as the engine remembers it (R442). -/
structure Abort where
  cstep : Word
  suspect : BitVec 13
  origin : BitVec 13
  sub : BitVec 8
  deriving DecidableEq, Repr

/-- The collective engine. -/
structure CollEngine where
  queue : List CollRun := []
  run : Option CollRun := none
  /-- Ordinal of the next collective since ALIGN (R440). -/
  next : BitVec 40 := 0
  aborts : List Abort := []
  /-- The clock of the last acceptance, and the task it was for (R320). -/
  accepted : Nat × Nat := (0, 0)
  deriving DecidableEq, Repr

/-! ## The memory side -/

/-- A merge entry (R269): the line's address key, the controller, and the clock of its last access. -/
structure Merge where
  line : Nat
  ctl : Nat
  last : Nat
  deriving DecidableEq, Repr

/-- A release store at CLUSTER scope that has reached the coherence point: its bytes still hold its value, and accesses that happen before it
may not be performed at DEVICE scope yet (R257, R259). -/
structure Released where
  key : Nat
  n : Nat
  core : Nat
  /-- Its place in program order. -/
  order : Nat
  deriving DecidableEq, Repr

/-- A row of a controller's count table (R275). -/
structure CountRow where
  ctl : Nat
  region : Nat
  loc : Nat := 0
  host : Nat := 0
  rems : List (Nat × Nat) := []
  rother : Nat := 0
  posted : Bool := false
  deriving DecidableEq, Repr

/-- A translation that a cluster's page cache holds (R100): the page's first address and its leaf entry. -/
structure CachedPage where
  slot : Nat
  base : Nat
  size : Nat
  pte : Word
  deriving DecidableEq, Repr

/-- A range entry that a cluster's range cache holds: its slot, its index and its 64 bytes. -/
structure CachedRange where
  slot : Nat
  index : Nat
  words : BitVec 512
  deriving DecidableEq, Repr

/-- The translation caches of a cluster, or of another unit that translates. -/
structure Cluster where
  ranges : List CachedRange := []
  pages : List CachedPage := []
  deriving DecidableEq, Repr

/-- A migration under way (R277). -/
structure Migration where
  slot : Nat
  index : Nat
  off : Nat
  tier : Bool
  /-- The logical cycle from which an SSTEP of the node's tasks is its boundary. -/
  after : Nat := 0
  /-- The clock at which the first task was held. -/
  heldFrom : Option Nat := none
  /-- The range has been copied: packets for the context are held. -/
  copied : Bool := false
  /-- The range has moved: the held packets are performed at the new location, then the tasks are released. -/
  moved : Bool := false
  /-- The packets that were held when the range had moved. -/
  freed : List Packet := []
  deriving DecidableEq, Repr

/-- A page request that the host has not answered (R369). -/
structure PageRequest where
  index : Nat
  pasid : Nat
  page : Nat
  deriving DecidableEq, Repr

/-- A page request that the host has answered with a failure, while what waits for it fails (R369): its sub-cause. -/
structure Denial where
  req : PageRequest
  sub : Nat
  deriving DecidableEq, Repr

/-- A host AtomicOp on a page without SYSAT between its read and its write (R268): the key of its bytes, the value read, the value to
be written, none where nothing is. -/
structure HostRmw where
  key : Nat
  n : Nat
  old : Nat
  new : Option Nat
  deriving DecidableEq, Repr

/-- A translation that the host has granted through ATS (R334): host pages are 4 KiB. -/
structure AtsEntry where
  pasid : Nat
  page : Nat
  hostPage : Nat
  write : Bool
  deriving DecidableEq, Repr

/-! ## Graph slots, the running node and the host -/

/-- GSTATE's state (R324). -/
inductive SlotState where
  | idle | ready | running | saved | faulted
  deriving DecidableEq, Repr

/-- A run manifest's record (R337), 96 bytes. -/
abbrev ManifestRec := BitVec 768

/-- A graph slot (R324) with what the command core keeps for it (R165, R327, R248). -/
structure GraphSlot where
  prog : Word := 0
  rtab : Word := 0
  root : Word := 0
  seed : BitVec 32 := 0
  args : Word := 0
  daddr : Word := 0
  valid : Bool := false
  pasid : BitVec 20 := 0
  vec : BitVec 8 := 0
  st : SlotState := .idle
  prio : Nat := 0
  subPrio : Nat := 0
  discarded : BitVec 32 := 0
  /-- The stored submission (R325). -/
  submitted : Word := 0
  levelAtSubmit : Nat := 0
  /-- Nodes that others have completed while it was ready or saved (R48), and when it last launched one. -/
  waited : Nat := 0
  lastLaunch : Nat := 0
  savedPc : Word := 0
  savedS : List Word := []
  nodeIx : BitVec 32 := 0
  launched : Nat := 0
  /-- The end status of its last node (R163), none while that node runs. -/
  status : Option Word := some 0
  recs : List ManifestRec := []
  /-- The last closed manifest (R336). -/
  closed : List Byte := []
  deriving DecidableEq, Repr

/-- One parameter window (R94): its handle, offset and size, and the first 4 KiB as they stood at launch. -/
structure BoundWindow where
  handle : BitVec 32
  off : Word
  size : Nat
  cache : List Byte
  deriving DecidableEq, Repr

/-- What LAUNCH has loaded of a node image, or a graph start of a graph program's (R329, R330, R457). -/
structure Image where
  base : Nat
  patience : Nat := 64
  cov : Nat := 0
  dclass : Bool := false
  summap : Nat := 0
  pclass : Nat := 0
  domtag : Word := 0
  dict : List (BitVec 384) := []
  dir : List Nat := []
  entries : List (Option Nat) := []
  copyT : List (BitVec 512) := []
  collT : List (BitVec 512) := []
  windows : List (Option BoundWindow) := []
  sig : BitVec 256 := 0
  deriving DecidableEq, Repr

/-- The running node (R18, R46). -/
structure Node where
  slot : Nat
  index : BitVec 32
  seed : Word
  image : Image
  /-- Physical cluster and core by task index (R22). -/
  place : List (Nat × Nat)
  digest : BitVec 256
  manifestAt : Nat
  /-- The first record's status once one has been received (R367). -/
  status : Option Word := none
  /-- A record has been received: the other tasks halt. -/
  stopping : Bool := false
  /-- The clock of the first record, and the last task that has had its bundle of that clock (R367: ascending task index). -/
  stopAt : Nat × Nat := (0, 0)
  aligned : Bool := false
  deriving DecidableEq, Repr

/-- The command core saves a slot or restores one (R328). -/
inductive CmdBusy where
  | free | saving | restoring (slot : Nat)
  deriving DecidableEq, Repr

/-- What the SPDM responder answers (R335, R336); the wire form of SPDM is not the spec's. -/
inductive SpdmReply where
  | version
  | capabilities
  | algorithms
  | digest (chain : List Byte)
  | certificate (part : List Byte) (left : Nat)
  | challenge (chain nonce signature : List Byte)
  /-- Blocks by index, whether each carries the DMTF raw bit-stream type, and the signature if one was asked for. -/
  | measurements (blocks : List (Nat × Bool × List Byte)) (signature : Option (List Byte))
  /-- The number of measurement blocks. -/
  | blockCount (n : Nat)
  | error
  deriving DecidableEq, Repr

/-- What the device has sent to the host, oldest first. -/
inductive HostEvent where
  | write (addr : Nat) (bytes : List Byte)
  | msix (vec : Nat)
  | read (off : Nat) (bytes : List Byte) (ep : Bool)
  | atomic (old : Word) (ep : Bool)
  | pageRequest (index pasid page : Nat)
  | invalidated (pasid va : Nat)
  /-- An access to host space (R334) accepted by the root complex. -/
  | hostStore (pasid va : Nat) (bytes : List Byte)
  | spdm (r : SpdmReply)
  deriving DecidableEq, Repr

/-- The driver's registers of BAR0 beyond those of slots and links (R276, R324, R332, R333, R368, R400, R402, R410). -/
structure HostRegs where
  b2win : Word := 0
  migthr : BitVec 16 := 0
  mhqbase : Word := 0
  mhqhead : BitVec 10 := 0
  mhqtail : BitVec 10 := 0
  mhqlost : BitVec 32 := 0
  migreq : Word := 0
  migctx : Nat := 0
  migstat : Nat := 0
  tlbase : Word := 0
  tlctl : Word := 0
  tlhead : BitVec 32 := 0
  tltail : BitVec 32 := 0
  tllost : BitVec 32 := 0
  faqhead : BitVec 32 := 0
  faqtail : BitVec 32 := 0
  faqlost : BitVec 32 := 0
  faqctl : Word := 0x100000
  cewin : Nat := 36
  faq : Sparse (BitVec 128) := []
  bplstat : Nat := 0
  bplpend : Word := 0
  bplidx : BitVec 10 := 0
  deriving DecidableEq, Repr

/-- The scribe (R453-R456). -/
structure Scribe where
  ring : Sparse (BitVec 256) := []
  /-- Places of the ring whose SRAM holds an uncorrectable error (R453). -/
  bad : List Nat := []
  /-- Those of them that have begun a freeze (R455). -/
  found : List Nat := []
  head : BitVec 32 := 0
  sst : Bool := false
  frozen : Bool := false
  /-- Records still to be written before a freeze that has been triggered takes effect. -/
  freezeIn : Option Nat := none
  missed : BitVec 32 := 0
  /-- Ticks of the reference counter (R459), and the part of a tick that has passed since the last, in units of one tick by the core clock's MHz. -/
  time : Word := 0
  part : Nat := 0
  deriving DecidableEq, Repr

/-- The SPDM responder (R335). -/
structure Spdm where
  versioned : Bool := false
  capable : Bool := false
  negotiated : Bool := false
  deriving DecidableEq, Repr

/-- What survives every reset (R335, R402). -/
structure NonVolatile where
  bpl : List Word := []
  /-- The next LMS leaf index that has not been committed. -/
  leaf : Nat := 0
  /-- The harvested core of each physical cluster (R22). -/
  harvested : List (Option Nat) := List.replicate 12 none
  deriving DecidableEq, Repr

/-- The state of the machine: one device. Core keys 0-383 are task indices; 384 is the command core. -/
structure State where
  cores : Sparse Core
  cur : Nat
  /-- Steps that the outside world and physical timing have already decided: core clocks that pass before each, and the step. -/
  agenda : List (Nat × Instr)
  clk : Nat
  /-- Serial numbers of accesses and commands, in issue order. -/
  nextId : Nat
  accs : List Access
  clAccs : List ClAcc
  cmds : List Cmd
  /-- Device memory: key 2^52 × tier + physical address. -/
  mem : Sparse Byte
  /-- Poisoned 64-byte lines (R388) by address key. -/
  poison : List Nat
  /-- Lines whose next read finds an error (R386), and whether it cannot be corrected. -/
  errs : List (Nat × Bool)
  /-- Stacks whose kiln reads a bad word of its SRAM next (R386). -/
  kilnBad : List Nat
  released : List Released
  /-- By controller, the clock and the port of the last access that arrived there (R270). -/
  arrivals : Sparse (Nat × Nat)
  merges : List Merge
  counts : List CountRow
  window : Nat
  /-- Corrected errors in the present window (R401), by 2,048 × the key of the 4 KiB page + the controller. -/
  ceCounts : Sparse Nat
  /-- The clock at which a controller's present counting window began (R400). -/
  ceWindows : Sparse Nat
  clusters : Sparse Cluster
  ats : List AtsEntry
  requests : List PageRequest
  /-- Set only within a step, while a denied page's accesses fail. -/
  denied : Option Denial
  hostRmw : Option HostRmw
  migration : Option Migration
  node : Option Node
  circuits : List Circuit
  tileIo : List TileIo
  routers : List Router
  links : List Link
  store : List Stored
  /-- Packets whose tag has checked, and flits of packets that are arriving, by the port of the endpoint. -/
  inPkts : List Packet
  pktIn : Sparse (List Flit)
  /-- Abort flits that have arrived (R442): the link, the CIRC byte, the payload. -/
  abortIn : List (Nat × Nat × BitVec 512)
  opsSent : List OpSent
  aggBufs : List AggBuf
  aggSent : List AggSent
  aggSeq : Sparse (BitVec 16)
  replies : List CachedReply
  streams427 : List Stream427
  coll : CollEngine
  /-- The image of the node last launched: its collective templates and DOMTAG serve the aborts that pass (R442). -/
  lastImage : Option Image
  slots : Sparse GraphSlot
  /-- The slot whose graph program the command core runs, and that program's image. -/
  graph : Option Nat
  graphImage : Option Image
  cmdBusy : CmdBusy
  /-- The images of saved graph programs, by slot (R327). -/
  savedImages : Sparse Image
  launches : Nat
  regs : HostRegs
  host : List HostEvent
  deviceId : BitVec 13
  level : Nat
  firmware : List (BitVec 256)
  /-- A firmware image has failed its verification since reset (R336). -/
  bootFailed : Bool
  mhz : Nat
  scribe : Scribe
  spdm : Spdm
  nv : NonVolatile
  /-- The model's own: the number of free values drawn so far. -/
  free : Nat
  deriving DecidableEq, Repr

/-- A router with nothing waiting. -/
def Router.empty (ports : Nat) : Router :=
  { inq := List.replicate ports [], pkt := List.replicate ports none }

/-- The machine right after a cold reset. -/
def State.reset : State where
  cores := []
  cur := 0
  agenda := []
  clk := 0
  nextId := 0
  accs := []
  clAccs := []
  cmds := []
  mem := []
  poison := []
  errs := []
  kilnBad := []
  released := []
  arrivals := []
  merges := []
  counts := []
  window := 0
  ceCounts := []
  ceWindows := []
  clusters := []
  ats := []
  requests := []
  denied := none
  hostRmw := none
  migration := none
  node := none
  circuits := []
  tileIo := []
  routers := List.replicate 12 (Router.empty 4) ++ [Router.empty 26]
  links := List.replicate 12 {}
  store := []
  inPkts := []
  pktIn := []
  abortIn := []
  opsSent := []
  aggBufs := []
  aggSent := []
  aggSeq := []
  replies := []
  streams427 := []
  coll := {}
  lastImage := none
  slots := []
  graph := none
  graphImage := none
  cmdBusy := .free
  savedImages := []
  launches := 0
  regs := {}
  host := []
  deviceId := 0
  level := 0
  firmware := []
  bootFailed := false
  mhz := 2250
  scribe := {}
  spdm := {}
  nv := {}
  free := 0

end Sys2Proof.Machine
end

