-- ==== Sys2Proof/Machine/Ops.lean ====
section
/-! DEFINITION. The named operations over the state: cores, registers, the fixed-latency results, scratchpad and tiles, device memory by
physical address, the scribe and the host's log, and taking a trap (R34, R44, R85, R350-R356, R368, R393, R453). -/

namespace Sys2Proof.Machine

/-! ## Cores -/

/-- The command core's key in `State.cores`. -/
def cmdKey : Nat := 384

def State.core (s : State) (k : Nat) : Core := Sparse.get Core.idle s.cores k
def State.setCore (s : State) (k : Nat) (c : Core) : State := { s with cores := Sparse.insert k c s.cores }
/-- The core that the step concerns. -/
def State.me (s : State) : Core := s.core s.cur
def State.setMe (s : State) (c : Core) : State := s.setCore s.cur c
def State.updCore (s : State) (k : Nat) (f : Core → Core) : State := s.setCore k (f (s.core k))
def State.updMe (s : State) (f : Core → Core) : State := s.updCore s.cur f
def State.isCmd (s : State) : Bool := s.cur == cmdKey

/-- The cluster of a task index (R18). -/
def clusterOf (task : Nat) : Nat := task / 32
def State.cluster (s : State) (c : Nat) : Cluster := Sparse.get {} s.clusters c
def State.setCluster (s : State) (c : Nat) (x : Cluster) : State := { s with clusters := Sparse.insert c x s.clusters }
def State.slot (s : State) (n : Nat) : GraphSlot := Sparse.get {} s.slots n
def State.setSlot (s : State) (n : Nat) (g : GraphSlot) : State := { s with slots := Sparse.insert n g s.slots }
def State.updSlot (s : State) (n : Nat) (f : GraphSlot → GraphSlot) : State := s.setSlot n (f (s.slot n))

/-- The image that the core runs: the node's, or the graph program's on the command core. -/
def State.imageOf (s : State) (k : Nat) : Option Image :=
  if k = cmdKey then s.graphImage else s.node.map (·.image)

/-- The graph slot in whose context a core's accesses are translated (R324). -/
def State.slotOfCore (s : State) (k : Nat) : Nat :=
  if k = cmdKey then s.graph.getD 0 else (s.node.map (·.slot)).getD 0

/-- The patience that bounds a core's waits, in clocks (R32). -/
def State.patience (s : State) (k : Nat) : Nat := ((s.imageOf k).map (·.patience)).getD 64 * 1024

/-- The coverage level of a core: COV of the image that it runs (R366). -/
def State.covOf (s : State) (k : Nat) : Nat := ((s.imageOf k).map (·.cov)).getD 0
/-- That of the core which the step concerns. -/
def State.cov (s : State) : Nat := s.covOf s.cur

/-- The clock counts on; the reference counter of R459 runs at 1 GHz whatever the core clock, and what is left of a tick counts for the next. -/
def State.tick (s : State) (n : Nat) : State :=
  let t := s.scribe.part + n * 1000
  { s with clk := s.clk + n, scribe := { s.scribe with time := s.scribe.time + BitVec.ofNat 64 (t / s.mhz), part := t % s.mhz } }

/-! ## Registers -/

/-- R136: a read of S0 gives 0. -/
def Core.rdS (c : Core) (n : SReg) : Word := if n = 0 then 0 else c.s[n]
/-- R136: a write to S0 is discarded. -/
def Core.wrS (c : Core) (n : SReg) (v : Word) : Core := if n = 0 then c else { c with s := c.s.set n v }
/-- R136: a read of P0 gives 1. -/
def Core.rdP (c : Core) (n : PReg) : Bool := n = 0 || c.p.getLsbD n
/-- Bit i of a 16-bit file. -/
def setBit16 (p : BitVec 16) (i : Nat) (b : Bool) : BitVec 16 :=
  let k : BitVec 16 := BitVec.ofNat 16 (2 ^ i)
  if b then p ||| k else p &&& ~~~k
/-- R136: a write to P0 is discarded. -/
def Core.wrP (c : Core) (n : PReg) (v : Bool) : Core := if n = 0 then c else { c with p := setBit16 c.p n v }
/-- R177: M0 is all ones. -/
def Core.rdM (c : Core) (n : MReg) : BitVec 64 := if n = 0 then BitVec.allOnes 64 else c.m[n]
/-- R177: a write to M0 is discarded; the bits of the mask are written. -/
def Core.wrM (c : Core) (n : MReg) (mask v : BitVec 64) : Core :=
  if n = 0 then c else { c with m := c.m.set n ((c.m[n] &&& ~~~mask) ||| (v &&& mask)) }
/-- The stream that V24 + F names when it is bound (R91). -/
def Core.streamOf (c : Core) (n : VReg) : Option Stream := if 24 ≤ n.val then c.streams[n.val % 8]'(Nat.mod_lt _ (by decide)) else none
/-- R92: a bound input stream gives the group that this bundle popped. -/
def Core.rdV (c : Core) (n : VReg) : BitVec 2048 :=
  match c.streamOf n with
  | some st => st.cur
  | none => c.v[n]
def Core.wrV (c : Core) (n : VReg) (mask : BitVec 64) (v : BitVec 2048) : Core :=
  { c with v := c.v.set n (mergeLanes mask c.v[n] v) }
def Core.wrT (c : Core) (n : TReg) (nbits : Nat) (v : BitVec 65536) : Core :=
  { c with t := c.t.set n (BitVec.ofNat 65536 (v.toNat % 2 ^ nbits + c.t[n].toNat / 2 ^ nbits * 2 ^ nbits)) }
def Core.wrTcfg (c : Core) (n : TReg) (v : Word) : Core :=
  { c with tcfg := c.tcfg.set n (v &&& 0x3FFFFF3) }
/-- One accumulator row (R88). -/
def Core.accRow (c : Core) (row : Nat) : BitVec 2048 := Sparse.get 0 c.acc row
def Core.setAccRow (c : Core) (row : Nat) (v : BitVec 2048) : Core := { c with acc := Sparse.set 0 c.acc row v }
def Core.queue (c : Core) (q : QReg) : List QRow := c.q[q]
def Core.setQueue (c : Core) (q : QReg) (l : List QRow) : Core := { c with q := c.q.set q l }
def Core.setStream (c : Core) (f : Fin 8) (st : Option Stream) : Core := { c with streams := c.streams.set f st }

/-- CORECTL as CSRR reads it (R155). -/
def Core.corectl (c : Core) (cov : Nat) : Word := BitVec.ofNat 64 (c.sbchk.toNat + 2 * c.inh.toNat + 16 * cov)

/-! ## Fixed-latency results (R34, R35) -/

/-- A result of latency `lat`, from the bundle at issue. -/
def Core.later (c : Core) (lat slot : Nat) (what : Commit) : Core :=
  { c with pend := c.pend ++ [{ key := 2 * (c.lc.toNat + lat), slot := slot, lc := c.lc.toNat, pc := c.pc, what := what }] }

/-- A happening at the end of the logical cycle `lat` after the bundle at issue. -/
def Core.atEnd (c : Core) (lat slot : Nat) (what : Commit) : Core :=
  { c with pend := c.pend ++ [{ key := 2 * (c.lc.toNat + lat) + 1, slot := slot, lc := c.lc.toNat, pc := c.pc, what := what }] }

/-- The push of another slot of the same bundle to the same stream in the same cycle. -/
def samePush (c : Core) (key : Nat) (f : Fin 8) (p : Pending) : Bool :=
  p.key == key && p.lc == c.lc.toNat && p.pc == c.pc &&
    match p.what with
    | .push g _ _ _ => g == f
    | _ => false

/-- A group for an output stream: two slots of one bundle with the same latency build one group, lane by lane (R179). `parts` are the
cluster accesses that still owe lanes of it. -/
def Core.laterPush (c : Core) (lat slot : Nat) (f : Fin 8) (mask : BitVec 64) (v : BitVec 2048) (parts : List Nat := []) : Core :=
  let key := 2 * (c.lc.toNat + lat)
  if c.pend.any (samePush c key f) then
    { c with pend := c.pend.map fun p =>
        if samePush c key f p then
          match p.what with
          | .push g m old l => { p with what := .push g (m ||| mask) (mergeLanes mask old v) (l ++ parts) }
          | _ => p
        else p }
  else
    let c := c.later lat slot (.push f mask v parts)
    { c with streams := c.streams.set f ((c.streams[f]).map fun st => { st with done := st.done + 1 }) }

/-- S[d] := v at the bundle's cycle + lat (R34). -/
def State.putS (s : State) (slot : Nat) (d : SReg) (v : Word) (lat : Nat) : State := s.updMe (·.later lat slot (.s d v))
def State.putP (s : State) (slot : Nat) (d : PReg) (v : Bool) (lat : Nat) : State := s.updMe (·.later lat slot (.p d v))
def State.putM (s : State) (slot : Nat) (d : MReg) (mask v : BitVec 64) (lat : Nat) : State := s.updMe (·.later lat slot (.m d mask v))

/-- A vector result; a destination that is bound as an output stream takes one group, the lanes not written as zero (R179). -/
def State.putV (s : State) (slot : Nat) (d : VReg) (mask : BitVec 64) (v : BitVec 2048) (lat : Nat) : State :=
  s.updMe fun c =>
    match c.streamOf d with
    | some _ => c.laterPush lat slot (Fin.ofNat 8 d.val) mask v
    | none => c.later lat slot (.v d mask v)

/-- The first n columns of an accumulator row. -/
def firstCols (n : Nat) : BitVec 64 := BitVec.ofNat 64 (2 ^ n - 1)

/-- The registers that a commit writes. -/
def Commit.regs : Commit → List Reg
  | .s n _ => [.s n.val]
  | .p n _ => [.p n.val]
  | .v n _ _ => [.v n.val]
  | .m n _ _ => [.m n.val]
  | .t n _ _ => [.t n.val]
  | .tcfg n _ => [.tcfg n.val]
  | .csr n _ => if 0x80 ≤ n then [.tcfg (n - 0x80)] else []
  | .acc row mask _ => [.acc row mask]
  | .aclr aw => (List.range 64).map fun i => .acc (8 * aw + i) (BitVec.allOnes 64)
  | .mat op _ _ => (List.range op.m).map fun i => .acc (op.row0 + i) (firstCols op.n)
  | .store addr bytes _ => (List.range (bytes.length / 4)).map fun i => .scale (addr + 4 * i)
  | .sticky _ | .drain _ _ | .room _ _ | .qclr _ | .push _ _ _ _ | .pushOld _ _ _ _ _ | .lend _ => []

/-- Two names mean registers that share a part. -/
def Reg.meets : Reg → Reg → Bool
  | .acc a cols, .acc b cols2 => a == b && (cols &&& cols2) != 0
  | .scale a, .scale b => decide (a < b + 4) && decide (b < a + 4)
  | a, b => a == b

/-- The commit writes part of a register. -/
def Commit.touches (w : Commit) (r : Reg) : Bool := w.regs.any (·.meets r)

/-- What happens later than other results of the same cycle: rows of a DRAIN are read as the cycle leaves the accumulators (R210, R231), and
groups leave after that. -/
def Commit.stage : Commit → Nat
  | .drain _ _ => 1
  | .push _ _ _ _ | .pushOld _ _ _ _ _ => 2
  | _ => 0

/-- One result takes effect before another: by cycle; within one cycle by issue and, within a bundle, by slot (R35). Groups of one cycle
leave by slot (R179); of two from slots of one number, in different bundles, the model lets the one issued first leave first (log entry 82). -/
def Pending.before (p q : Pending) : Bool :=
  if p.key ≠ q.key then decide (p.key < q.key)
  else if p.what.stage ≠ q.what.stage then decide (p.what.stage < q.what.stage)
  else if p.what.stage = 2 then decide (p.slot < q.slot) || (p.slot == q.slot && decide (p.lc < q.lc))
  else decide (p.lc < q.lc) || (p.lc == q.lc && decide (p.slot < q.slot))

/-- Insertion after what does not come later. -/
def insertPending (p : Pending) : List Pending → List Pending
  | [] => [p]
  | q :: r => if p.before q then p :: q :: r else q :: insertPending p r

/-- The order in which results take effect. -/
def dueOrder (l : List Pending) : List Pending := l.foldl (fun acc p => insertPending p acc) []

/-! ## Scratchpad and tiles (R78-R85) -/

def scratchTop : Nat := 0x180000

def Core.byteAt (c : Core) (a : Nat) : Byte := Sparse.get 0 c.scratch a
def Core.readBytes (c : Core) (a n : Nat) : List Byte := (List.range n).map fun i => c.byteAt (a + i)
/-- The number that n bytes at a local address stand for (R2). -/
def Core.readNat (c : Core) (a n : Nat) : Nat := leNat (c.readBytes a n)

/-- The replacement comes after the place (cycle, rank) in the order of R80. -/
def Undo.after (u : Undo) (cycle rank : Nat) : Bool := decide (cycle < u.cycle) || (u.cycle == cycle && decide (rank < u.rank))

/-- A replacement takes its place; the latest stands first. -/
def insertUndo (u : Undo) : List Undo → List Undo
  | [] => [u]
  | v :: r => if v.after u.cycle u.rank then v :: insertUndo u r else u :: v :: r

def Undo.ofByte (u : Undo) (a : Nat) : Bool :=
  match u.what with
  | .byte x _ => x == a
  | .tile _ _ => false

/-- The byte that the first write of it after a place replaced, if there is one. -/
def Core.replacedAfter (c : Core) (cycle rank a : Nat) : Option Byte :=
  (((c.undo.takeWhile (·.after cycle rank)).filter (·.ofByte a)).getLast?).bind fun u =>
    match u.what with
    | .byte _ old => some old
    | .tile _ _ => none

/-- That write is said to replace another byte. -/
def reviseUndo (cycle rank a : Nat) (b : Byte) (l : List Undo) : List Undo :=
  let later := l.takeWhile (·.after cycle rank)
  let rest := l.dropWhile (·.after cycle rank)
  let n := (later.filter (·.ofByte a)).length
  (later.foldl (fun (acc : List Undo × Nat) u =>
    if u.ofByte a then (acc.1 ++ [if acc.2 + 1 = n then { u with what := .byte a b } else u], acc.2 + 1) else (acc.1 ++ [u], acc.2)) ([], 0)).1 ++ rest

/-- One byte is written at a place in the order of R80: a later write of it stands. -/
def Core.writeByte (c : Core) (cycle rank a : Nat) (b : Byte) : Core :=
  match c.replacedAfter cycle rank a with
  | none => { c with scratch := Sparse.set 0 c.scratch a b, undo := insertUndo ⟨cycle, rank, .byte a (c.byteAt a)⟩ c.undo }
  | some old => { c with undo := insertUndo ⟨cycle, rank, .byte a old⟩ (reviseUndo cycle rank a b c.undo) }

def Core.writeAt (c : Core) (cycle rank a : Nat) : List Byte → Core
  | [] => c
  | b :: r => (c.writeByte cycle rank a b).writeAt cycle rank (a + 1) r

/-- The core's own write at its present logical cycle. -/
def Core.writeBytes (c : Core) (a : Nat) (l : List Byte) : Core := c.writeAt c.lc.toNat 0 a l
def Core.writeNat (c : Core) (a n v : Nat) : Core := c.writeBytes a (leBytes n v)

/-- The 64-bit words that n bytes at a touch. -/
def wordsTouched (a n : Nat) : List Nat := if n = 0 then [] else (List.range ((a + n - 1) / 8 - a / 8 + 1)).map (a / 8 + ·)

/-- Reading a scratchpad word with an uncorrectable error (R386): its byte address. -/
def Core.badScratch (c : Core) (a n : Nat) : Option Nat :=
  ((wordsTouched a n).find? fun w => c.bad.contains (.scratch w)).map (8 * ·)

/-- Words wholly overwritten are good again. -/
def Core.clearBadScratch (c : Core) (a n : Nat) : Core :=
  { c with bad := c.bad.filter fun b =>
      match b with
      | .scratch w => !(a ≤ 8 * w && 8 * w + 8 ≤ a + n)
      | _ => true }

def Core.tile (c : Core) (t : Nat) : Tile := Sparse.get {} c.tiles t
/-- Tile state changes at a logical cycle. -/
def Core.setTileAt (c : Core) (cycle t : Nat) (x : Tile) : Core :=
  { c with tiles := Sparse.set {} c.tiles t x, undo := insertUndo ⟨cycle, 0, .tile t (c.tile t)⟩ c.undo }
def Core.setTile (c : Core) (t : Nat) (x : Tile) : Core := c.setTileAt c.lc.toNat t x
/-- The engines change the state of a tile that has been handed to them. -/
def Core.setLent (c : Core) (t : Nat) (x : Tile) : Core := c.setTileAt (c.tile t).giveLc t x

/-- One replacement is taken back. -/
def Core.unwrite (c : Core) (u : Undo) : Core :=
  match u.what with
  | .byte a old => { c with scratch := Sparse.set 0 c.scratch a old }
  | .tile t old => { c with tiles := Sparse.set {} c.tiles t old }

/-- The scratchpad and the tile states as an access at a place in the order of R80 finds them. -/
def Core.asOf (c : Core) (cycle rank : Nat) : Core := (c.undo.takeWhile (·.after cycle rank)).foldl Core.unwrite c

/-- The tiles that n bytes at a touch (R79). -/
def tilesTouched (a n : Nat) : List Nat := if n = 0 then [] else (List.range ((a + n - 1) / 4096 - a / 4096 + 1)).map (a / 4096 + ·)

/-- The tile state word (R81). -/
def Tile.word (t : Tile) : Word :=
  BitVec.ofNat 64 (t.tag.toNat + t.fmt * 2 ^ 4 + t.verified.toNat * 2 ^ 10 + t.engine.toNat * 2 ^ 11 + t.dir.toNat * 2 ^ 12
    + t.expect * 2 ^ 13 + t.arrived * 2 ^ 20)

/-- The wait of a core access for tiles that the engines own (R84), as R357 reports it. -/
def Core.tileWait (c : Core) (ts : List Nat) : Option Wait :=
  (ts.find? fun t => (c.tile t).engine).map fun t =>
    { sub := 5, info0 := BitVec.ofNat 64 t, info1 := BitVec.ofNat 64 (c.tile t).arrived, addr := BitVec.ofNat 64 (t * 4096) }

/-- The overrun report of R363 that the access takes in its place. -/
def Core.overrunTrap (c : Core) (ts : List Nat) : Option Trap :=
  (ts.find? fun t => (c.tile t).overrun).map fun t =>
    let x := c.tile t
    { cause := 0x13, sub := if x.dir then 2 else 1, info0 := BitVec.ofNat 64 x.expect,
      info1 := BitVec.ofNat 64 (min 255 x.offered), addr := BitVec.ofNat 64 (t * 4096), opc := x.givePc, defer := true, origin := x.giveLc }

/-- tile_access of R85 for one tile: the schedule fault, if any. -/
def tileFault (x : Tile) (t : Nat) (isRead tc : Bool) (tagx : BitVec 4) : Option Trap :=
  if tc then
    if tagx ≠ x.tag then
      some { cause := 0x11, sub := 1, info0 := BitVec.ofNat 64 tagx.toNat, info1 := BitVec.ofNat 64 x.tag.toNat, addr := BitVec.ofNat 64 (t * 4096) }
    else none
  else if isRead && !x.verified then
    some { cause := 0x11, sub := 2, info1 := x.word, addr := BitVec.ofNat 64 (t * 4096) }
  else none

/-- tile_access over tiles in ascending order (R201). -/
def Core.tileCheck (c : Core) (ts : List Nat) (isRead tc : Bool) (tagx : BitVec 4) : Option Trap :=
  match c.overrunTrap ts with
  | some t => some t
  | none => ts.findSome? fun t => tileFault (c.tile t) t isRead tc tagx

/-- A match of the tag sets VERIFIED (R85), at a logical cycle. -/
def Core.verifyAt (c : Core) (cycle : Nat) (ts : List Nat) (tc : Bool) : Core :=
  if tc then ts.foldl (fun c t => c.setTileAt cycle t { c.tile t with verified := true }) c else c
def Core.verifyTiles (c : Core) (ts : List Nat) (tc : Bool) : Core :=
  if tc then ts.foldl (fun c t => c.setTile t { c.tile t with verified := true }) c else c

/-- The unpopulated-address fault of R394 for SP 0. -/
def scratchFault (a n : Nat) (sp : Nat) : Option Trap :=
  if a + n ≤ scratchTop then none
  else some { cause := 0x30, sub := 7, info0 := BitVec.ofNat 64 sp, info1 := BitVec.ofNat 64 a, addr := BitVec.ofNat 64 a }

/-- The alignment fault of R397 sub-cause 0x01. -/
def alignFault (a n : Nat) (ln : Nat := 0) : Option Trap :=
  if a % n = 0 then none
  else some { cause := 0x33, sub := 1, info0 := BitVec.ofNat 64 n, info1 := BitVec.ofNat 64 ln, addr := BitVec.ofNat 64 a }

/-- The alignment fault of R397 sub-cause 0x02. -/
def alignFault2 (a n : Nat) : Option Trap :=
  if a % n = 0 then none else some { cause := 0x33, sub := 2, info0 := BitVec.ofNat 64 n, addr := BitVec.ofNat 64 a }

/-- Bytes of the scratchpad are read at a place in the order of R80. -/
def Core.lookAt (c : Core) (cycle rank : Nat) (l : List (Nat × Nat)) : Core :=
  { c with looked := l.map (fun p => { cycle := cycle, rank := rank, start := p.1, len := p.2 }) ++ c.looked }

/-- The core's own reads at its present logical cycle. -/
def State.look (s : State) (k : Nat) (l : List (Nat × Nat)) : State :=
  if l.isEmpty then s else s.updCore k fun c => c.lookAt c.lc.toNat 0 l

/-- Two runs of bytes share one. -/
def spansMeet (a b : Nat × Nat) : Bool := decide (a.1 < b.1 + b.2) && decide (b.1 < a.1 + a.2)

/-- Some byte of the spans has been read at a place after (cycle, rank). -/
def Core.sawAfter (c : Core) (cycle rank : Nat) (l : List (Nat × Nat)) : Bool :=
  c.looked.any fun x => (decide (cycle < x.cycle) || (x.cycle == cycle && decide (rank < x.rank))) && l.any (spansMeet (x.start, x.len))

/-! ## Device memory by physical address (R102) -/

/-- The key of a physical byte: tier 0 HBM4E, tier 1 LPDDR 6. -/
def memKey (tier : Bool) (pa : Nat) : Nat := (if tier then 2 ^ 52 else 0) + pa

/-- A physical address within its tier (R102). -/
def paOk (tier : Bool) (pa : Nat) : Bool := if tier then pa < 0x18000000000 else pa < 2 ^ 39

def State.memByte (s : State) (k : Nat) : Byte := Sparse.get 0 s.mem k
def State.memBytes (s : State) (k n : Nat) : List Byte := (List.range n).map fun i => s.memByte (k + i)
def State.memNat (s : State) (k n : Nat) : Nat := leNat (s.memBytes k n)

def writeMem (m : Sparse Byte) (k : Nat) : List Byte → Sparse Byte
  | [] => m
  | b :: r => writeMem (Sparse.set 0 m k b) (k + 1) r

/-- The lines wholly inside n bytes at a key. -/
def fullLines (k n : Nat) : List Nat :=
  let first := (k + 63) / 64
  (List.range ((k + n) / 64 - first)).map (first + ·)

/-- A write at the coherence point; a write of all 64 bytes of a line clears its poison (R388) and what errors it held. -/
def State.memWrite (s : State) (k : Nat) (l : List Byte) : State :=
  { s with
    mem := writeMem s.mem k l
    poison := s.poison.filter fun x => !(fullLines k l.length).contains x
    errs := s.errs.filter fun x => !(fullLines k l.length).contains x.1
    released := s.released.filter fun r => !(decide (r.key < k + l.length) && decide (k < r.key + r.n)) }

/-- Lines have been written whole: their poison and their errors are gone (R388). -/
def State.cleanLines (s : State) (l : List Nat) : State :=
  if l.isEmpty then s else { s with poison := s.poison.filter (!l.contains ·), errs := s.errs.filter fun x => !l.contains x.1 }

/-- The 64-byte lines that n bytes at a key touch. -/
def linesTouched (k n : Nat) : List Nat := if n = 0 then [] else (List.range ((k + n - 1) / 64 - k / 64 + 1)).map (k / 64 + ·)

/-- The first poisoned line that n bytes at a key touch. -/
def State.poisoned (s : State) (k n : Nat) : Option Nat := (linesTouched k n).find? fun l => s.poison.contains l

/-- Bytes that no read can deliver: a line of theirs is poisoned, or holds an error that cannot be corrected. -/
def State.spoilt (s : State) (key n : Nat) : Bool :=
  (s.poisoned key n).isSome || (linesTouched key n).any fun l => s.errs.any fun e => e.1 == l && e.2

/-- The controller of a byte (R102): pseudo-channels 0-1535 of HBM4E, then the 64 LPDDR channels. -/
def controllerOf (k : Nat) : Nat :=
  if 2 ^ 52 ≤ k then 1536 + (k - 2 ^ 52) / 256 % 64
  else
    let stack := k / 2 ^ 36
    let frame := k / 2 ^ 21 % 2 ^ 15
    stack * 192 + (if frame < 3072 then frame % 192 else k / 256 % 2 ^ 28 % 192)

/-! ## Time, free values, the host -/

def State.post (s : State) (e : HostEvent) : State := { s with host := s.host ++ [e] }

/-! ## The clocks for which a bundle is held (R454) -/

/-- The clocks of the present stall, or fetch wait, up to now count for the stall summary. -/
def Core.book (c : Core) (clk : Nat) : Core :=
  match c.stallFrom with
  | none => c
  | some t =>
    if c.heldSub = 0x0D then { c with stallFrom := none, fetchClk := c.fetchClk + (clk - t) }
    else { c with stallFrom := none, stallClk := c.stallClk + (clk - t) }

/-- The bundle is held by a wait: from now on the clocks count for its kind. -/
def Core.stallsFrom (c : Core) (clk sub : Nat) : Core :=
  if c.stallFrom.isSome && (c.heldSub == 0x0D) == (sub == 0x0D) then { c with heldSub := sub }
  else { c.book clk with heldSub := sub, stallFrom := some clk }

/-- The present hold ends. -/
def Core.unhold (c : Core) (clk : Nat) : Core := { c.book clk with held := none }

/-! ## The scribe (R453-R455) -/

/-- The rank of a record among those of one TIME: by class, then by task; the records of class 2 go with theirs of class 1 (R455). -/
def scribeKey (cls task : Nat) : Nat := (if cls = 2 then 1 else cls) * 512 + task % 512

/-- A record that has been written comes after a new one of that rank. -/
def Scribe.later (r : Scribe) (x : BitVec 256) (key : Nat) : Bool :=
  bits x.toNat 0 64 == r.time.toNat && decide (key < scribeKey (bits x.toNat 120 8) (bits x.toNat 103 9))

/-- A record with a SEQ. -/
def withSeq (x : BitVec 256) (q : BitVec 32) : BitVec 256 :=
  BitVec.ofNat 256 (bits x.toNat 0 64 + q.toNat * 2 ^ 64 + x.toNat / 2 ^ 96 * 2 ^ 96)

/-- The SEQ that a new record of a rank takes; the records that come after it move on by one. -/
def Scribe.room (r : Scribe) (key : Nat) : Nat → Sparse (BitVec 256) → BitVec 32 → Sparse (BitVec 256) × BitVec 32
  | 0, ring, q => (ring, q)
  | n + 1, ring, q =>
    let x := Sparse.get 0 ring ((q - 1).toNat % 8192)
    if r.later x key then r.room key n (Sparse.insert (q.toNat % 8192) (withSeq x q) ring) (q - 1) else (ring, q)

/-- A freeze takes effect after 64 further records (R455). -/
def Scribe.startFreeze (r : Scribe) : Scribe := if r.freezeIn.isNone && !r.frozen then { r with freezeIn := some 64 } else r

/-- A record as it reads: BAD stands in it where the SRAM finds an uncorrectable error (R453). -/
def Scribe.record (r : Scribe) (place : Nat) : BitVec 256 :=
  let x := Sparse.get 0 r.ring place
  if r.bad.contains place then x ||| BitVec.ofNat 256 (2 ^ 96) else x

/-- A BAD record begins a freeze, once (R455). The step in which the host reads it through BAR0 is none of the machine's, and the model takes the BAD record as
found when the next record is written at the latest (log entry 63). -/
def Scribe.findBad (r : Scribe) : Scribe := if r.bad.all r.found.contains then r else { r.startFreeze with found := r.bad }

/-- Errors of places of the ring once n records from a SEQ on have moved by one place and a record has been written before them: what stood at the place after
them is overwritten, and their own errors move with them. -/
def movedBad (q : BitVec 32) (n : Nat) (l : List Nat) : List Nat :=
  l.filterMap fun p =>
    let d := (p + 8192 - q.toNat % 8192) % 8192
    if d < n then some ((p + 1) % 8192) else if d = n then none else some p

/-- Writes one record in the order of R455; a frozen scribe counts the event instead. -/
def Scribe.put (r : Scribe) (cls code task gslot : Nat) (lc info : Word) : Scribe :=
  if r.frozen then (if cls = 2 then r else { r with missed := r.missed + 1 })
  else
    let r := r.findBad
    let x := r.room (scribeKey cls task) 8191 r.ring r.head
    let n := (r.head - x.2).toNat
    let w1 := cls * 2 ^ 56 + code % 256 * 2 ^ 48 + task % 512 * 2 ^ 39 + gslot % 64 * 2 ^ 33 + x.2.toNat
    let rec' := BitVec.ofNat 256 (r.time.toNat + w1 * 2 ^ 64 + lc.toNat * 2 ^ 128 + info.toNat * 2 ^ 192)
    let r := { r with ring := Sparse.insert (x.2.toNat % 8192) rec' x.1, head := r.head + 1, bad := movedBad x.2 n r.bad, found := movedBad x.2 n r.found }
    match r.freezeIn with
    | none => r
    | some n => if n ≤ 1 then { r with frozen := true, freezeIn := none } else { r with freezeIn := some (n - 1) }

/-- A record of an event that concerns a graph slot. -/
def State.scribeAt (s : State) (gslot cls code task : Nat) (lc info : Word) : State :=
  { s with scribe := s.scribe.put cls code task gslot lc info }

/-- A record of an event of the running node, or of the device. -/
def State.scribe1 (s : State) (cls code task : Nat) (lc info : Word) : State :=
  s.scribeAt ((s.node.map (·.slot)).getD (s.graph.getD 0)) cls code task lc info

/-- Word i of a 64-byte record. -/
def word512 (r : BitVec 512) (i : Nat) : Word := BitVec.ofNat 64 (r.toNat / 2 ^ (64 * i))

/-- A trap record as the scribe keeps it: one record of class 1 and six of class 2 (R454); a machine check starts the freeze
of R455. -/
def State.scribeTrap (s : State) (task : Nat) (r : Record) : State :=
  let cause := bits (word512 r 0).toNat 40 8
  let gslot := bits (word512 r 0).toNat 32 6
  let s := s.scribeAt gslot 1 cause task (word512 r 3) (word512 r 0)
  let s := [(0, 1), (1, 2), (2, 4), (3, 5), (4, 6), (5, 7)].foldl (fun s (c, w) => s.scribeAt gslot 2 c task 0 (word512 r w)) s
  if cause = 0x50 then { s with scribe := s.scribe.startFreeze } else s

/-! ## The host trap log (R368) -/

/-- Posts a record to the ring, or counts it as lost. -/
def State.logRecord (s : State) (r : Record) : State :=
  let ctl := s.regs.tlctl.toNat
  let sz := bits ctl 16 4
  let size := 2 ^ (sz + 6)
  let base := bits s.regs.tlbase.toNat 12 40 * 4096
  let used := (s.regs.tlhead - s.regs.tltail).toNat
  if bit ctl 8 && sz ≤ 10 && base % (64 * size) = 0 && used < size then
    let s := s.post (.write (base + 64 * (s.regs.tlhead.toNat % size)) (leBytes 64 r.toNat))
    let s := { s with regs := { s.regs with tlhead := s.regs.tlhead + 1 } }
    s.post (.msix (bits ctl 0 8))
  else { s with regs := { s.regs with tllost := s.regs.tllost + 1 } }

/-! ## Trap records (R355) -/

/-- Physical cluster and core of a task (R22); zero where there is none. -/
def State.placeOf (s : State) (task : Nat) : Nat × Nat :=
  ((s.node.bind fun n => n.place[task]?).getD (0, 0))

/-- INFO0 of a machine check on an array of a core (R393): the array, the unit and the syndrome, which the spec leaves open. -/
def State.arrayInfo (s : State) (k array : Nat) : Word :=
  let p := s.placeOf k
  BitVec.ofNat 64 (array * 2 ^ 56 + (p.1 * 64 + p.2) * 2 ^ 40 + (Config.syndrome s.free).toNat)

/-- The machine check of a core read of a scratchpad word that cannot be corrected (R386, R393); `k` is the core that holds it. -/
def State.scratchMachineCheck (s : State) (k a n : Nat) : Option Trap :=
  ((s.core k).badScratch a n).map fun w => { cause := 0x50, sub := 1, addr := BitVec.ofNat 64 w, info0 := s.arrayInfo k 0 }

/-- The record of a trap. `task` is 0 for records that concern no task. -/
def State.mkRecord (s : State) (t : Trap) (src task : Nat) (pcv nest : Bool) (pc lc : Word) (hcause hsub : Nat) (slot node : Nat) : Record :=
  let place := if src = 0 || src = 3 then s.placeOf task else (0, 0)
  let w0 := s.deviceId.toNat + place.1 * 2 ^ 13 + place.2 * 2 ^ 17 + task * 2 ^ 23 + slot * 2 ^ 32 + t.cause * 2 ^ 40 + t.sub * 2 ^ 48
    + t.slot * 2 ^ 56 + t.defer.toNat * 2 ^ 59 + pcv.toNat * 2 ^ 60 + src * 2 ^ 61 + nest.toNat * 2 ^ 63
  let w1 := node % 2 ^ 32 + (if nest then hsub * 2 ^ 48 + hcause * 2 ^ 56 else 0)
  BitVec.ofNat 512 (packNat 64 [w0, w1, pc.toNat % 2 ^ 57, lc.toNat, t.addr.toNat, t.info0.toNat, t.info1.toNat, t.opc.toNat % 2 ^ 57])

/-- Writes a record to the scribe and the host's log (R367 step 4). -/
def State.record (s : State) (task : Nat) (r : Record) : State := (s.scribeTrap task r).logRecord r

/-- The record of a tile task stops the node: its end status is that of the first (R163, R367). -/
def State.stopNode (s : State) (task cause : Nat) : State :=
  match s.node with
  | none => s
  | some n =>
    let st := match n.status with
      | some w => some w
      | none => some (BitVec.ofNat 64 (cause + task * 256))
    let at_ := if n.stopping then n.stopAt else (s.clk, task)
    { s with node := some { n with status := st, stopping := true, stopAt := at_ } }

/-- A cause that goes to the core's own handler when R356 allows it (R354). -/
def coreCause (cause : Nat) : Bool :=
  cause == 0x05 || (0x10 ≤ cause && cause ≤ 0x15) || (0x20 ≤ cause && cause ≤ 0x22) || cause == 0x51

def causeWord (t : Trap) : Word := BitVec.ofNat 64 (t.cause + t.sub * 256 + t.slot * 2 ^ 16 + t.defer.toNat * 2 ^ 19)

/-- R351 steps 2 and 3 on the core: loops end and the trap CSRs are written. -/
def Core.setTrap (c : Core) (t : Trap) (pc lc : Word) : Core :=
  { c with loops := [], entering := none, held := none,
           trap := { cause := causeWord t, pc := pc, lc := lc, addr := t.addr, info0 := t.info0, info1 := t.info1, opc := t.opc } }

end Sys2Proof.Machine
end

