-- ==== Sys2Proof/Machine/Operands.lean ====
section
/-! DEFINITION. Operand forms: effective addresses, the elements of vector accesses and of streams, tile register elements, and the
conversion of lanes between registers and memory (R60, R61, R86, R91, R200, R213-R216). -/

namespace Sys2Proof.Machine

/-- The effective address S[BS] + sign_extend(OFF) (R200), modulo 2^64. -/
def effAddr (base : Word) (w : Nat) (off : BitVec w) : Nat := (base + off.signExtend 64).toNat

def Size.bytes : Size → Nat
  | .b1 => 1
  | .b2 => 2
  | .b4 => 4
  | .b8 => 8

/-- The bytes of an atomic's operand (R226). -/
def wideBytes (wide : Bool) : Nat := if wide then 8 else 4

/-- sign_extend or zero_extend of the bytes loaded (R213). -/
def loadExtend (sz : Size) (sg : Bool) (x : Nat) : Word :=
  if sg then signExtend x (8 * Size.bytes sz) else zeroExtend x (8 * Size.bytes sz)

/-! ## Elements in memory -/

/-- Bytes that one element takes, or one byte for the ternary formats. -/
def elemBytes (f : Fmt) : Nat :=
  match f with
  | .tri2 | .tri5 => 1
  | f => Fmt.width f / 8

/-- Elements in one byte of a ternary format; 1 otherwise. -/
def perByte : Fmt → Nat
  | .tri2 => 4
  | .tri5 => 5
  | _ => 1

def ternary (f : Fmt) : Bool := f == .tri2 || f == .tri5

/-- The byte address of the element `i` elements after the one at `a` (R214). -/
def elemAddr (f : Fmt) (a i : Nat) : Nat := (a + i / perByte f * elemBytes f) % 2 ^ 64

/-- The element in its bytes: a ternary element's place in its byte is its number modulo the elements in a byte. -/
def elemCode (f : Fmt) (raw i : Nat) : Nat := if f = .tri2 then bits raw (2 * (i % 4)) 2 else raw

/-- Whether a reserved ternary code is decoded (R59). -/
def elemReserved (f : Fmt) (raw i : Nat) : Bool := reservedCode f (elemCode f raw i)

/-- The value of an element (R57, R58, R62). -/
def elemVal (f : Fmt) (raw i : Nat) : Val :=
  if f = .tri5 then .ofInt (decodeTri5 raw (i % 5)).1 else decodeVal f (elemCode f raw i)

/-- The lane that VLD delivers for an element without a scale (R214). -/
def loadLane (f : Fmt) (raw i : Nat) : W32 :=
  match f with
  | .raw32 => BitVec.ofNat 32 raw
  | .i8 => BitVec.ofInt 32 (toSigned 8 raw)
  | .i16 => BitVec.ofInt 32 (toSigned 16 raw)
  | .tri2 => BitVec.ofInt 32 (decodeTri2 (elemCode .tri2 raw i)).1
  | .tri5 => BitVec.ofInt 32 (decodeTri5 raw (i % 5)).1
  | f => loadFp32 f raw

/-- The value of a scale entry (R60). -/
def scaleVal (fp32s : Bool) (raw : Nat) : Val := decodeVal (if fp32s then .fp32 else .bf16) raw

/-- The lane of an element of a scaled range (R61); RAW32 words are delivered unchanged (R214). -/
def loadScaled (f : Fmt) (raw i : Nat) (fp32s : Bool) (scale : Nat) : W32 :=
  if f = .raw32 then BitVec.ofNat 32 raw else roundFp32 .rne ((elemVal f raw i).mul (scaleVal fp32s scale))

/-- The code that VST writes for a lane (R214); none for the ternary formats. -/
def storeLane (f : Fmt) (x : W32) : Option Nat :=
  match f with
  | .fp32 | .raw32 => some x.toNat
  | .i8 | .i16 => some (convertD .raw32 f x.toNat .rne .sat)
  | .tri2 | .tri5 => none
  | f => some (convertD .fp32 f x.toNat .rne .sat)

/-- The active lanes of a mask, ascending. -/
def activeLanes (m : BitVec 64) : List Nat := (List.range 64).filter fun i => m.getLsbD i

/-- The bytes each active lane touches: lane and byte address. -/
def laneAddrs (f : Fmt) (a stride : Nat) (m : BitVec 64) : List (Nat × Nat) :=
  (activeLanes m).map fun i => (i, elemAddr f a (i * stride))

/-- Lane addresses of VLDG and VSTS (R216). -/
def indexAddrs (base : Word) (vi : BitVec 2048) (sc : Fin 4) (m : BitVec 64) : List (Nat × Nat) :=
  (activeLanes m).map fun i => (i, (base + ((lane vi i).signExtend 64 <<< sc.val)).toNat)

/-- Lanes from a list of (lane, value): the others zero, a later value of a lane standing. -/
def lanesOf (l : List (Nat × W32)) : BitVec 2048 :=
  vecOf ((List.range 64).map fun i => ((l.reverse.find? fun p => p.1 == i).map (·.2)).getD 0)

/-! ## Streams (R91, R92) -/

/-- The number of groups. -/
def Stream.total (st : Stream) : Nat := st.counts.foldl (· * ·) 1

/-- The address of the first element of a group. -/
def Stream.groupAddr (st : Stream) (g : Nat) : Nat :=
  let c0 := st.counts.getD 0 1
  let c1 := st.counts.getD 1 1
  let a : Int := st.start.toNat + (g % c0 : Nat) * st.strides.getD 0 0 + (g / c0 % c1 : Nat) * st.strides.getD 1 0
    + (g / (c0 * c1) : Nat) * st.strides.getD 2 0
  (a % (2 ^ 64 : Nat)).toNat

/-- The byte range of 64 consecutive elements. -/
def groupBytes (f : Fmt) : Nat := elemAddr f 0 63 + elemBytes f

/-! ## Scratchpad elements -/

/-- The format of the tile that holds an address. -/
def Core.fmtAt (c : Core) (a : Nat) : Fmt := fmtOfCode (c.tile (a / 4096)).fmt

/-- The lanes of a local vector read, and whether a reserved code was decoded. -/
def Core.gather (c : Core) (f : Fmt) (l : List (Nat × Nat)) : BitVec 2048 × Bool :=
  let raws := l.map fun p => (p.1, c.readNat p.2 (elemBytes f))
  (lanesOf (raws.map fun p => (p.1, loadLane f p.2 p.1)), raws.any fun p => elemReserved f p.2 p.1)

/-- A vector write to the scratchpad at a place in the order of R80, in ascending lane order. -/
def Core.scatterAt (c : Core) (cycle rank : Nat) (f : Fmt) (l : List (Nat × Nat)) (v : BitVec 2048) : Core :=
  l.foldl (fun c p =>
    match storeLane f (lane v p.1) with
    | some code => (c.clearBadScratch p.2 (elemBytes f)).writeAt cycle rank p.2 (leBytes (elemBytes f) code)
    | none => c) c

/-- The core's own vector write at its present logical cycle. -/
def Core.scatter (c : Core) (f : Fmt) (l : List (Nat × Nat)) (v : BitVec 2048) : Core := c.scatterAt c.lc.toNat 0 f l v

/-- The tiles that elements touch, ascending. -/
def tilesOf (f : Fmt) (l : List (Nat × Nat)) : List Nat :=
  l.foldl (fun acc p => (tilesTouched p.2 (elemBytes f)).foldl (fun a t => addSorted t a) acc) []

/-! ## Tile registers (R86, R87) -/

def cfgCols (w : Word) : Nat := bits w.toNat 16 10 + 1
def cfgRows (w : Word) : Nat := bits w.toNat 8 8 + 1
def cfgFmt (w : Word) : Nat := bits w.toNat 4 4
def cfgWidth (w : Word) : Nat :=
  match bits w.toNat 0 2 with
  | 0 => 2
  | 1 => 8
  | 2 => 16
  | _ => 32

/-- Bits of the register that the shape covers. -/
def cfgBits (w : Word) : Nat := cfgRows w * cfgCols w * cfgWidth w

/-- WIDTH and FMT pair (R87). -/
def cfgPairs (w : Word) : Bool :=
  match cfgWidth w, cfgFmt w with
  | 2, 9 => true
  | 8, 6 | 8, 8 | 8, 10 => true
  | 16, 2 | 16, 3 | 16, 5 | 16, 7 => true
  | 32, 1 | 32, 4 | 32, 0 => true
  | _, _ => false

/-- A shape that MOVTC accepts (R203). -/
def cfgOk (w : Word) : Bool := decide (cfgRows w ≤ 64) && cfgPairs w && decide (cfgBits w ≤ 65536)

/-- Element (i, j) of a tile register. -/
def tileElem (v : BitVec 65536) (cols width i j : Nat) : Nat := bits v.toNat ((i * cols + j) * width) width

end Sys2Proof.Machine
end

