-- ==== Sys2Proof/Machine/Hash.lean ====
section
/-! DEFINITION. Philox4x32-10 (R20), SHA-256 (R24, R329, R336), CRC-32C (R307) and CRC-64 (R312). -/

namespace Sys2Proof.Machine

/-! ## Philox (R20) -/

/-- The state of Philox: key and counter words. -/
structure Philox where
  k0 : W32
  k1 : W32
  c0 : W32
  c1 : W32
  c2 : W32
  c3 : W32
  deriving DecidableEq, Repr

def Philox.round (p : Philox) : Philox :=
  let p0 := 0xD2511F53 * p.c0.toNat
  let p1 := 0xCD9E8D57 * p.c2.toNat
  { p with
    c0 := BitVec.ofNat 32 (p1 / 2 ^ 32) ^^^ p.c1 ^^^ p.k0, c1 := BitVec.ofNat 32 p1,
    c2 := BitVec.ofNat 32 (p0 / 2 ^ 32) ^^^ p.c3 ^^^ p.k1, c3 := BitVec.ofNat 32 p0 }

def Philox.bump (p : Philox) : Philox := { p with k0 := p.k0 + 0x9E3779B9, k1 := p.k1 + 0xBB67AE85 }

/-- n further rounds, the keys raised before each. -/
def Philox.rounds : Nat → Philox → Philox
  | 0, p => p
  | n + 1, p => Philox.rounds n p.bump.round

/-- philox(k0, k1, c0, c1, c2, c3): ten rounds. -/
def philox (k0 k1 c0 c1 c2 c3 : W32) : Philox := Philox.rounds 9 (Philox.round ⟨k0, k1, c0, c1, c2, c3⟩)

/-- draw(d) of R22: its word y0. -/
def drawY0 (seed : Word) (node : BitVec 32) (d : Nat) : Nat :=
  (philox (seed.setWidth 32) ((seed >>> 32).setWidth 32) node (BitVec.ofNat 32 d) 0 0).c0.toNat

/-! ## SHA-256 (R24, R329, R336)

The spec names the function; its constants are fractions of roots of primes, and a test computes them (log entry 74). A block is worked as two histories of
numbers below 2^32, newest first: each round puts one word in front of each. -/

/-- The first 32 bits of the fractions of the cube roots of the first 64 primes: that of prime t at bit 32t. -/
def cubeFractions : Nat := 0xC67178F2BEF9A3F7A4506CEB90BEFFFA8CC7020884C8781478A5636F748F82EE682E6FF35B9CCA4F4ED8AA4A391C0CB334B0BCB52748774C1E376C0819A4C116106AA070F40E3585D6990624D192E819C76C51A3C24B8B70A81A664BA2BFE8A192722C8581C2C92E766A0ABB650A735453380D134D2C6DFC2E1B213827B70A851429296706CA6351D5A79147C6E00BF3BF597FC7B00327C8A831C66D983E515276F988DA5CB0A9DC4A7484AA2DE92C6F240CA1CC0FC19DC6EFBE4786E49B69C1C19BF1749BDC06A780DEB1FE72BE5D74550C7DC3243185BE12835B01D807AA98AB1C5ED5923F82A459F111F13956C25BE9B5DBA5B5C0FBCF71374491428A2F98

/-- Those of the square roots of the first eight primes. -/
def squareFractions : Nat := 0x5BE0CD191F83D9AB9B05688C510E527FA54FF53A3C6EF372BB67AE856A09E667

/-- A turn to the right of 32 bits by n places. -/
def turn (n x : Nat) : Nat := x / 2 ^ n + x % 2 ^ n * 2 ^ (32 - n)

/-- Exclusive or of three. -/
def xor3 (x y z : Nat) : Nat := Nat.xor x (Nat.xor y z)

/-- For each bit, that of y where x holds 1, else that of z. -/
def choose (x y z : Nat) : Nat := Nat.xor z (Nat.land x (Nat.xor y z))

/-- For each bit, what at least two of the three hold. -/
def major (x y z : Nat) : Nat := Nat.lor (Nat.land x y) (Nat.land z (Nat.lor x y))

/-- The word of a block 16 places after the first of its last 16, oldest first. -/
def nextWord (w : List Nat) : Nat :=
  let old := w.getD 1 0
  let new := w.getD 14 0
  (w.getD 0 0 + xor3 (turn 7 old) (turn 18 old) (old / 2 ^ 3) + w.getD 9 0 + xor3 (turn 17 new) (turn 19 new) (new / 2 ^ 10)) % 2 ^ 32

/-- The two histories, each of four words. -/
structure Histories where
  up : List Nat
  low : List Nat
  deriving DecidableEq, Repr

/-- One round: with a constant and a word of the block. -/
def Histories.round (k w : Nat) (x : Histories) : Histories :=
  let l (i : Nat) : Nat := x.low.getD i 0
  let u (i : Nat) : Nat := x.up.getD i 0
  let t := l 3 + xor3 (turn 6 (l 0)) (turn 11 (l 0)) (turn 25 (l 0)) + choose (l 0) (l 1) (l 2) + k + w
  { up := (t + xor3 (turn 2 (u 0)) (turn 13 (u 0)) (turn 22 (u 0)) + major (u 0) (u 1) (u 2)) % 2 ^ 32 :: x.up.take 3
    low := (u 3 + t) % 2 ^ 32 :: x.low.take 3 }

/-- The rounds of one block: n are left, the constants of those from bit 0 of `k` on, the words of the next 16 in `w`. -/
def shaRounds : Nat → Nat → List Nat → Histories → Histories
  | 0, _, _, x => x
  | n + 1, k, w, x => shaRounds n (k / 2 ^ 32) (w.drop 1 ++ [nextWord w]) (x.round (k % 2 ^ 32) (w.getD 0 0))

/-- Bytes to words of 32 bits, the first byte highest. -/
def beWords : Nat → List Byte → List Nat
  | 0, _ => []
  | n + 1, l => leNat (l.take 4).reverse :: beWords n (l.drop 4)

/-- A sum of each word, modulo 2^32. -/
def addWords (x y : List Nat) : List Nat := List.zipWith (fun a b => (a + b) % 2 ^ 32) x y

/-- One block of 64 bytes. -/
def Histories.block (x : Histories) (b : List Byte) : Histories :=
  let y := shaRounds 64 cubeFractions (beWords 16 b) x
  { up := addWords x.up y.up, low := addWords x.low y.low }

/-- The histories before the first block. -/
def Histories.first : Histories :=
  { up := unpackNat 32 4 squareFractions, low := unpackNat 32 4 (squareFractions / 2 ^ 128) }

/-- The eight words as bytes. -/
def Histories.bytes (x : Histories) : List Byte := (x.up ++ x.low).flatMap fun w => (leBytes 4 w).reverse

/-- What follows a message of n bytes: a one bit, zeros up to eight bytes before the end of a block, and the length in bits. -/
def shaPad (n : Nat) : List Byte := 0x80 :: List.replicate ((119 - n % 64) % 64) 0 ++ (leBytes 8 (8 * n)).reverse

/-- n blocks of 64 bytes in order. -/
def Histories.blocks : Nat → List Byte → Histories → Histories
  | 0, _, x => x
  | n + 1, l, x => Histories.blocks n (l.drop 64) (x.block (l.take 64))

def sha256 (m : List Byte) : List Byte :=
  let l := m ++ shaPad m.length
  (Histories.blocks (l.length / 64) l Histories.first).bytes

/-! ## CRC -/

/-- CRC-32C of R307, reflected, one bit at a time. -/
def crc32cBits : Nat → Nat → Nat
  | 0, c => c
  | n + 1, c => crc32cBits n (if c % 2 = 1 then Nat.xor (c / 2) 0x82F63B78 else c / 2)

def crc32c (l : List Byte) : Nat :=
  Nat.xor (l.foldl (fun c b => crc32cBits 8 (Nat.xor c b.toNat)) 0xFFFFFFFF) 0xFFFFFFFF

/-- CRC-64 of R312, not reflected. -/
def crc64Bits : Nat → Nat → Nat
  | 0, c => c
  | n + 1, c => crc64Bits n (if bit c 63 then Nat.xor (c * 2 % 2 ^ 64) 0x42F0E1EBA9EA3693 else c * 2 % 2 ^ 64)

def crc64From (c : Nat) (l : List Byte) : Nat := l.foldl (fun c b => crc64Bits 8 (Nat.xor c (b.toNat * 2 ^ 56))) c

def crc64 (l : List Byte) : Nat := crc64From 0 l

/-- The end-to-end tag over 64-byte payloads in order (R312). -/
def tagOf (flits : List (BitVec 512)) : Word :=
  BitVec.ofNat 64 (flits.foldl (fun c f => crc64From c (leBytes 64 f.toNat)) 0)

end Sys2Proof.Machine
end

