-- ==== Sys2Proof/Machine/Translate.lean ====
section
/-! DEFINITION. Translation of device virtual addresses: range entries, page tables, the clusters' caches, host space, and their
failures (R95-R101, R334, R369, R388, R394-R396). -/

namespace Sys2Proof.Machine

/-- A failure of R394 or R396: cause, sub-cause and the two information words. -/
structure XFault where
  cause : Nat
  sub : Nat
  info0 : Nat := 0
  info1 : Nat := 0
  deriving DecidableEq, Repr

/-- What translate gives (R99): where the byte lies, and the attributes of its range or page. -/
structure Xlat where
  /-- The byte lies in host space (R334). -/
  host : Bool := false
  /-- Its key in `State.mem`; in host space, the host address. -/
  key : Nat
  fmt : Nat := 0
  /-- Block length; 0: none, as in a RAW32 range (R52). -/
  blk : Nat := 0
  sfp32 : Bool := false
  splane : Nat := 0
  /-- BASE of the range, 0 without one. -/
  base : Nat := 0
  cc : Bool := false
  sysat : Bool := false
  ro : Bool := false
  /-- The range slot, when a range entry gave the attributes. -/
  range : Option Nat := none
  /-- Word 3 of the range, or the leaf entry. -/
  word : Nat := 0
  deriving DecidableEq, Repr

inductive Xl where
  | ok (x : Xlat)
  | fault (f : XFault)
  /-- A page of host space that ATS has not granted (R369). -/
  | miss
  deriving DecidableEq, Repr

/-! ## Range entries (R95) -/

/-- A range entry as read from the table. -/
structure Range where
  index : Nat
  base : Nat
  limit : Nat
  offset : Nat
  word3 : Nat
  splane : Nat
  deriving DecidableEq, Repr

def Range.gen (r : Range) : Nat := bits r.word3 32 20
def Range.valid (r : Range) : Bool := bit r.word3 12
def Range.tier (r : Range) : Bool := bit r.word3 11
def Range.blkCode (r : Range) : Nat := bits r.word3 4 3
def Range.fmt (r : Range) : Nat := bits r.word3 0 4
def Range.holds (r : Range) (va : Nat) : Bool := decide (r.base ≤ va) && decide (va ≤ r.limit)

/-- The block length of a BLK code. -/
def blkLen (code : Nat) : Nat := if code = 0 then 0 else 16 * 2 ^ code

def Range.ofWords (index w : Nat) : Range :=
  { index := index, base := bits w 0 57, limit := bits w 64 57, offset := bits w 128 52, word3 := bits w 192 64, splane := bits w 256 57 }

/-- R394 sub-cause 0x0B. -/
def Range.malformed (r : Range) : Bool :=
  (bit r.word3 8 && r.tier) || decide (5 ≤ r.blkCode) || decide (11 ≤ r.fmt) || r.base % 4096 != 0 || (r.limit + 1) % 4096 != 0
    || r.offset % 4096 != 0 || !paOk r.tier (r.offset + r.limit - r.base)

def Range.xlat (r : Range) (va : Nat) : Xlat :=
  { key := memKey r.tier (r.offset + (va - r.base)), fmt := r.fmt, blk := if r.fmt = 0 then 0 else blkLen r.blkCode, sfp32 := bit r.word3 7, splane := r.splane,
    base := r.base, cc := bit r.word3 8, sysat := bit r.word3 9, ro := bit r.word3 10, range := some r.index, word := r.word3 }

/-- The key of a table address register: [52] tier, [51:12] address (R324). -/
def tableKey (w : Nat) (alignBits : Nat) : Nat := memKey (bit w 52) (bits w alignBits (52 - alignBits) * 2 ^ alignBits)

/-- Key of entry `index` of the slot's range table. -/
def State.rangeKey (s : State) (slot index : Nat) : Nat := tableKey (s.slot slot).rtab.toNat 12 + 64 * index

/-- The entry as the table in memory holds it. -/
def State.rangeEntry (s : State) (slot index : Nat) : Range := Range.ofWords index (s.memNat (s.rangeKey slot index) 64)

/-- The entry as the cluster's range cache holds it, and otherwise as the table does. -/
def State.rangeOf (s : State) (cl slot index : Nat) : Range :=
  match (s.cluster cl).ranges.find? (fun c => c.slot == slot && c.index == index) with
  | some c => Range.ofWords index c.words.toNat
  | none => s.rangeEntry slot index

/-- An entry of the range table that the walker cannot read; the spec names its report for a page table alone, and the model gives the same, with level 0
(R388, log entry 97). -/
def State.rangeSpoilt (s : State) (cl slot index : Nat) : Bool :=
  !((s.cluster cl).ranges.any fun c => c.slot == slot && c.index == index) && s.spoilt (s.rangeKey slot index) 64

/-- range_cache_match (R99): of several (R97), any one. -/
def State.rangeMatch (s : State) (cl slot va : Nat) : Option Range :=
  let l := ((s.cluster cl).ranges.filter (·.slot == slot)).map (fun c => Range.ofWords c.index c.words.toNat)
  let l := l.filter (fun r => r.valid && r.holds va)
  if l.length ≤ 1 then l.head? else l[Config.rangeChoice cl va s.free % l.length]?

/-! ## Page tables (R98) -/

/-- What a walk finds: the leaf, its page's first virtual address and its size. -/
structure Leaf where
  pte : Nat
  base : Nat
  size : Nat
  deriving DecidableEq, Repr

def pteTier (e : Nat) : Bool := bit e 52
def ptePa (e : Nat) : Nat := bits e 12 40 * 4096
def pageSize (level e : Nat) : Nat := if level = 3 then 2 ^ 30 else if level = 4 then 2 ^ 21 else if bit e 7 then 65536 else 4096

/-- R394 sub-cause 0x03 on one entry; `group` says that the entries of its 64 KiB group are the same. -/
def pteMalformed (level e : Nat) (group : Bool) : Bool :=
  bits e 2 2 != 0 || !paOk (pteTier e) (ptePa e) ||
  (if bit e 1 then
     decide (level ≤ 2) || decide (11 ≤ bits e 8 4) || ptePa e % pageSize level e != 0 || !paOk (pteTier e) (ptePa e + pageSize level e - 1)
       || (bit e 5 && (pteTier e || level != 4)) || (bit e 7 && (level != 5 || !group))
   else level == 5)

/-- The index into the table of a level. -/
def vaIndex (level va : Nat) : Nat := bits va (57 - 9 * level) 9

/-- walk(va) from a table at a key; `fuel` levels remain. -/
def State.walk (s : State) (va : Nat) : Nat → Nat → Except XFault Leaf
  | 0, _ => .error { cause := 0x30, sub := 3 }
  | fuel + 1, key =>
    let level := 5 - fuel
    let ek := key + 8 * vaIndex level va
    if s.spoilt ek 8 then .error { cause := 0x30, sub := 3, info0 := level, info1 := 2 ^ 64 - 1 }
    else
      let e := s.memNat ek 8
      if !bit e 0 then .error { cause := 0x30, sub := 2, info0 := level, info1 := e }
      else
        let g := key + 8 * (vaIndex level va / 16 * 16)
        let group := !(level == 5 && bit e 7) || (!s.spoilt g 128 && (List.range 16).all fun i => s.memNat (g + 8 * i) 8 == e)
        if pteMalformed level e group then .error { cause := 0x30, sub := 3, info0 := level, info1 := e }
        else if bit e 1 then
          let size := pageSize level e
          .ok { pte := e, base := va / size * size, size := size }
        else s.walk va fuel (memKey (pteTier e) (ptePa e))

/-- The leaf of an address: from the cluster's page cache, or by a walk. -/
def State.leafOf (s : State) (cl slot va : Nat) : Except XFault Leaf :=
  match (s.cluster cl).pages.find? (fun p => p.slot == slot && decide (p.base ≤ va) && decide (va < p.base + p.size)) with
  | some p => .ok { pte := p.pte.toNat, base := p.base, size := p.size }
  | none => s.walk va 5 (tableKey (s.slot slot).root.toNat 12)

def Leaf.xlat (l : Leaf) (va : Nat) : Xlat :=
  { key := memKey (pteTier l.pte) (ptePa l.pte + (va - l.base)), fmt := bits l.pte 8 4, cc := bit l.pte 5, sysat := bit l.pte 6,
    ro := bit l.pte 4, word := l.pte }

/-! ## translate (R99) -/

def State.xlatRange (va n : Nat) (r : Range) : Xl :=
  if r.malformed then .fault { cause := 0x30, sub := 0xB, info0 := r.index, info1 := r.word3 }
  else if r.limit < va + n - 1 then .fault { cause := 0x30, sub := 5, info0 := r.limit, info1 := va + n - 1 }
  else .ok (r.xlat va)

/-- The host page of an address of host space (R334). -/
def hostPage (va : Nat) : Nat := bits va 12 44

/-- translate(va, access) for n bytes at va, in the slot's context, by the caches of a cluster. At L1 only tier 1 is served (R338); a range or a page leaf
that an access meets there can still name tier 0, for which the spec gives no fate but the refusal of a launch: whoever makes it, the command core's
graph program or image reads, a task or a remote operation, the model lets the access reach it (R104, log entry 77). -/
def State.translate (s : State) (cl slot va n : Nat) : Xl :=
  if bit va 56 then
    match s.ats.find? (fun a => a.pasid == (s.slot slot).pasid.toNat && a.page == hostPage va) with
    | some a => .ok { host := true, key := a.hostPage * 4096 + va % 4096, ro := !a.write }
    | none =>
      match s.denied with
      | some d => if d.req.pasid = (s.slot slot).pasid.toNat && d.req.page = hostPage va then .fault { cause := 0x30, sub := d.sub, info0 := d.req.index, info1 := d.req.pasid } else .miss
      | none => .miss
  else
    match s.rangeMatch cl slot va with
    | some r => State.xlatRange va n r
    | none =>
      match s.leafOf cl slot va with
      | .error f => .fault f
      | .ok l =>
        if bit l.pte 63 then
          let r := s.rangeOf cl slot (bits l.pte 53 10)
          if s.rangeSpoilt cl slot r.index then .fault { cause := 0x30, sub := 3, info1 := 2 ^ 64 - 1 }
          else if r.valid && r.holds va then State.xlatRange va n r
          else .fault { cause := 0x30, sub := 4, info0 := bits l.pte 53 10, info1 := r.word3 }
        else .ok (l.xlat va)

/-- R396 sub-causes 0x01 and 0x03 for a write. -/
def State.writeFault (s : State) (slot : Nat) (x : Xlat) : Option XFault :=
  if !x.ro then none
  else if x.host then some { cause := 0x31, sub := 3, info0 := (s.slot slot).pasid.toNat, info1 := x.key }
  else some { cause := 0x31, sub := 1, info0 := x.range.getD 0x3FF, info1 := x.word }

/-- translate with the check of a write. -/
def State.translateFor (s : State) (cl slot va n : Nat) (write : Bool) : Xl :=
  match s.translate cl slot va n with
  | .ok x =>
    if write then
      match s.writeFault slot x with
      | some f => .fault f
      | none => .ok x
    else .ok x
  | r => r

/-! ## Handles (R96) -/

/-- The range that a handle names: its slot is a valid entry whose GEN is the handle's. -/
def State.handleRange (s : State) (cl slot : Nat) (h : BitVec 32) : Range := s.rangeOf cl slot (bits h.toNat 0 10)

def Range.stale (r : Range) (h : BitVec 32) : Bool := !r.valid || r.gen != bits h.toNat 12 20 || bits h.toNat 10 2 != 0

/-- The scale entry of element j (R60, R95): its virtual address and its bytes. -/
def Xlat.scaleAt (x : Xlat) (j : Nat) : Option (Nat × Nat) :=
  if x.blk = 0 then none else
    let w := if x.sfp32 then 4 else 2
    some (x.splane + w * (j / x.blk), w)

/-- The element that begins at an address of a range, in element units (R95). -/
def Xlat.elemIndex (x : Xlat) (va : Nat) : Nat :=
  if x.fmt = 10 then (va - x.base) * 5 else (va - x.base) * 8 / Fmt.width (fmtOfCode x.fmt)

/-- A machine check's address and unit words for a memory line (R393): ADDR and INFO0 without the syndrome. -/
def lineWords (k : Nat) : Nat × Nat :=
  if 2 ^ 52 ≤ k then
    let pa := (k - 2 ^ 52) / 64 * 64
    (2 ^ 63 + pa, 5 * 2 ^ 56 + (pa / 256 % 64) * 2 ^ 40)
  else
    let pa := k / 64 * 64
    (pa, 4 * 2 ^ 56 + controllerOf k * 2 ^ 40)

/-- The bank of a physical byte of HBM4E (R103); the spec gives a bank only for channel frames. -/
def bankOf (k : Nat) (cc : Bool) : Nat :=
  if 2 ^ 52 ≤ k then 0 else if cc then bits k 17 4 else if k / 2 ^ 21 % 2 ^ 15 < 3072 then bits k 6 4 else 0

end Sys2Proof.Machine
end

