-- ==== Sys2Proof/Machine/Lines.lean ====
section
/-! DEFINITION. What any access does to the memory lines it reaches: open merge entries, errors that its reading finds and the fault-address
queue, and the order of arrival at a controller (R269, R270, R386-R388, R400, R401). -/

namespace Sys2Proof.Machine

/-- An access reaches the open merge entries of the lines that n bytes at a key touch (R269). -/
def State.touch (s : State) (key n : Nat) : State :=
  { s with merges := s.merges.map fun m => if (linesTouched key n).contains m.line then { m with last := s.clk } else m }

/-! ## The attributes of a physical address (R95, R98, R268) -/

/-- The attributes SYSAT and CC of every valid range entry that maps a physical byte. -/
def State.rangeAttrs (s : State) (key : Nat) : List (Bool × Bool) :=
  (s.slots.filter (·.2.valid)).flatMap fun p =>
    (List.range 1024).filterMap fun i =>
      let r := s.rangeEntry p.1 i
      let k := memKey r.tier r.offset
      if r.valid && decide (k ≤ key) && decide (key < k + (r.limit + 1 - r.base)) then some (bit r.word3 9, bit r.word3 8) else none

/-- The leaves without a range that map a physical byte, below a table; `fuel` levels remain. -/
def State.leafAttrs (s : State) (key : Nat) : Nat → Nat → List (Bool × Bool)
  | 0, _ => []
  | fuel + 1, table =>
    (List.range 512).flatMap fun i =>
      let e := s.memNat (table + 8 * i) 8
      if !bit e 0 then []
      else if bit e 1 then
        let k := memKey (pteTier e) (ptePa e)
        if !bit e 63 && decide (k ≤ key) && decide (key < k + pageSize (5 - fuel) e) then [(bit e 6, bit e 5)] else []
      else State.leafAttrs s key fuel (memKey (pteTier e) (ptePa e))

/-- SYSAT and CC of the page of a physical byte: those of any mapping of it. -/
def State.physAttrs (s : State) (key : Nat) : Bool × Bool :=
  let l := s.rangeAttrs key ++ (s.slots.filter (·.2.valid)).flatMap fun p => s.leafAttrs key 5 (tableKey p.2.root.toNat 12)
  (l.any (·.1), l.any (·.2))

/-! ## The fault-address queue (R400, R401) -/

/-- Who finds an error, as SRC of an entry names it. -/
def srcScrub : Nat := 0
def srcCore : Nat := 1
def srcCopy : Nat := 2
def srcKiln : Nat := 3
def srcFabric : Nat := 4
def srcHost : Nat := 5
def srcUnit : Nat := 6

/-- An entry of the queue. -/
def faqEntry (ue : Bool) (src key count bank : Nat) (synd : BitVec 32) : BitVec 128 :=
  let tier := if 2 ^ 52 ≤ key then 1 else 0
  let w0 := key % 2 ^ 52 / 64 * 64 + tier * 2 ^ 52 + src * 2 ^ 60 + ue.toNat * 2 ^ 63
  BitVec.ofNat 128 (w0 + (synd.toNat + bank * 2 ^ 40 + min count 0xFFFF * 2 ^ 48) * 2 ^ 64)

/-- The scribe keeps an entry (R454). -/
def State.scribeFaq (s : State) (dropped : Nat) (e : BitVec 128) : State :=
  s.scribe1 3 dropped 0x1FF (BitVec.ofNat 64 (e.toNat / 2 ^ 64)) (BitVec.ofNat 64 e.toNat)

/-- An entry is posted, or dropped and counted; the scribe keeps it. -/
def State.postFaq (s : State) (e : BitVec 128) : State :=
  let ctl := s.regs.faqctl.toNat
  let full := s.regs.faqhead - s.regs.faqtail = 256
  if bit ctl 8 && !full then
    let s := s.scribeFaq 0 e
    { s with regs := { s.regs with faq := Sparse.insert (s.regs.faqhead.toNat % 256) e s.regs.faq, faqhead := s.regs.faqhead + 1 } }.post (.msix (bits ctl 0 8))
  else
    let s := s.scribeFaq 1 e
    { s with regs := { s.regs with faqlost := s.regs.faqlost + 1 } }

/-- The row of a page in its controller's table. -/
def ceRow (key : Nat) : Nat := key / 4096 * 2048 + controllerOf key

/-- Corrected errors of a page counted by its controller. -/
def State.ceCount (s : State) (key : Nat) : Nat := Sparse.get 0 s.ceCounts (ceRow key)

/-- The entry of an error found in a line; its syndrome is a free value. -/
def State.errorEntry (s : State) (ue : Bool) (src key count : Nat) : BitVec 128 :=
  faqEntry ue src key count (bankOf key (s.physAttrs key).2) (Config.syndrome s.free)

/-- A corrected error: its page's count, and an entry when that reaches the threshold. The scribe keeps every one (R387), one that posts no entry in the
form of an entry that was dropped: R454 lists no other form. -/
def State.corrected (s : State) (src key : Nat) : State :=
  let row := ceRow key
  let rows := s.ceCounts.filter fun p => p.1 % 2048 = controllerOf key
  let counts := !((Sparse.find? row s.ceCounts).isNone && decide (1024 ≤ rows.length))
  let n := s.ceCount key + 1
  let e := s.errorEntry false src key n
  let s := if counts then { s with ceCounts := Sparse.insert row n s.ceCounts } else s
  let s := if counts && n == bits s.regs.faqctl.toNat 16 16 then s.postFaq e else s.scribeFaq 1 e
  { s with free := s.free + 1 }

/-- An error that cannot be corrected: the line is poisoned, and posted the first time. -/
def State.uncorrected (s : State) (src key : Nat) : State :=
  if s.poison.contains (key / 64) then s
  else
    let s := s.postFaq (s.errorEntry true src key (s.ceCount key))
    { s with poison := addSorted (key / 64) s.poison, free := s.free + 1 }

/-! ## Reading a line (R386-R388) -/

/-- A read of a line finds its error. -/
def State.meetLine (s : State) (src line : Nat) : State :=
  match s.errs.find? (fun e => e.1 == line) with
  | none => s
  | some e =>
    let s := { s with errs := s.errs.erase e }
    if e.2 then s.uncorrected src (64 * line) else if s.poison.contains line then s else s.corrected src (64 * line)

/-- The lines of n bytes at a key are read. -/
def State.meet (s : State) (src key n : Nat) : State := (linesTouched key n).foldl (fun s l => s.meetLine src l) s

/-! ## The order of arrival (R270) -/

/-- The port by which the accesses of a cluster's cores and copy engine arrive: its physical number. What the command core accesses arrives with the
host's, as the spec names no port for it (log entry 86). -/
def State.clusterPort (s : State) (cl : Nat) : Nat := if cl < 12 then (s.placeOf (32 * cl)).1 else 22
def kilnPort (stk : Nat) : Nat := 12 + stk
def collEnginePort : Nat := 20
def fabricPort : Nat := 21
def hostPort : Nat := 22

/-- The controllers of n bytes at a key. -/
def controllersOf (key n : Nat) : List Nat := (linesTouched key n).map fun l => controllerOf (64 * l)

/-- Nothing of a later port has arrived at the controllers in this clock. -/
def State.portTurn (s : State) (port key n : Nat) : Bool :=
  (controllersOf key n).all fun c =>
    match Sparse.find? c s.arrivals with
    | some (t, p) => decide (t < s.clk) || decide (p ≤ port)
    | none => true

/-- An access arrives. -/
def State.arriveAt (s : State) (port key n : Nat) : State :=
  { s with arrivals := (controllersOf key n).foldl (fun l c => Sparse.insert c (s.clk, port) l) s.arrivals }

/-- A read of n bytes arrives at their controller, finds their errors, and reaches their merge entries. -/
def State.readsLine (s : State) (src port key n : Nat) : State := ((s.arriveAt port key n).meet src key n).touch key n

/-- A walker reads table words: it finds their errors and reaches their merge entries (R269, R386). -/
def State.tableRead (s : State) (src key n : Nat) : State := (s.meet src key n).touch key n

/-- A walker reads a range entry that the caches do not hold. -/
def State.rangeRead (s : State) (src cl slot index : Nat) : State :=
  if (s.cluster cl).ranges.any fun c => c.slot == slot && c.index == index then s else s.tableRead src (s.rangeKey slot index) 64

/-- The table words that a walk of an address reads, from a table at a key, up to the last one that it needs; `fuel` levels remain. -/
def State.walkReads (src cl slot va : Nat) : Nat → Nat → State → State
  | 0, _, s => s
  | fuel + 1, key, s =>
    let ek := key + 8 * vaIndex (5 - fuel) va
    let s := s.tableRead src ek 8
    let e := s.memNat ek 8
    if s.spoilt ek 8 || !bit e 0 then s
    else if bit e 1 then
      let s := if fuel = 0 && bit e 7 then s.tableRead src (key + 8 * (vaIndex 5 va / 16 * 16)) 128 else s
      if bit e 63 then s.rangeRead src cl slot (bits e 53 10) else s
    else State.walkReads src cl slot va fuel (memKey (pteTier e) (ptePa e)) s

/-- What the translation of an address reads in memory: nothing where the caches answer (R99, R100). -/
def State.walkMeets (s : State) (src cl slot va : Nat) : State :=
  if s.errs.isEmpty && s.merges.isEmpty then s
  else if bit va 56 || (s.rangeMatch cl slot va).isSome then s
  else
    match (s.cluster cl).pages.find? (fun p => p.slot == slot && decide (p.base ≤ va) && decide (va < p.base + p.size)) with
    | some p => if p.pte.getLsbD 63 then s.rangeRead src cl slot (bits p.pte.toNat 53 10) else s
    | none => State.walkReads src cl slot va 5 (tableKey (s.slot slot).root.toNat 12) s

/-- The lines that n bytes at an address of a slot's context lie in, read piece by piece up to one that cannot be read. -/
def State.vaMeets (src port cl slot : Nat) : Nat → Nat → Nat → State → State
  | 0, _, _, s => s
  | fuel + 1, va, n, s =>
    if n = 0 then s
    else
      let m := min n (64 - va % 64)
      let s := s.walkMeets src cl slot va
      match s.translate cl slot va m with
      | .ok x =>
        let s := if x.host then s else s.readsLine src port x.key m
        if !x.host && (s.poisoned x.key m).isSome then s else State.vaMeets src port cl slot fuel (va + m) (n - m) s
      | _ => s

end Sys2Proof.Machine
end

