-- ==== Sys2Proof/Machine/Traps.lean ====
section
/-! DEFINITION. Delivery of traps, machine checks and the end of a graph (R331, R337, R350-R358, R367, R393). -/

namespace Sys2Proof.Machine

/-! ## The end of a graph (R331) -/

/-- The launch seed of a slot's nodes (R326). -/
def GraphSlot.launchSeed (g : GraphSlot) : Word := BitVec.ofNat 64 (bits g.submitted.toNat 3 32 * 2 ^ 32 + g.seed.toNat)

/-- The head and the records of a run manifest (R337). -/
def State.manifestBytes (s : State) (slot : Nat) : List Byte :=
  let g := s.slot slot
  let w0 := s.deviceId.toNat + g.levelAtSubmit * 2 ^ 16 + slot * 2 ^ 18 + g.recs.length * 2 ^ 32
  leBytes 8 w0 ++ leBytes 8 g.launchSeed.toNat ++ sha256 (s.firmware.flatMap fun d => leBytes 32 d.toNat) ++ leBytes 16 0
    ++ g.recs.flatMap fun r => leBytes 96 r.toNat

/-- The run of a slot ends: after GDONE with code 0, after a stop with the cause. -/
def State.endGraph (s : State) (slot code : Nat) : State :=
  let g := s.slot slot
  let s := s.setSlot slot { g with closed := s.manifestBytes slot, st := if code = 0 then .idle else .faulted }
  let s := if g.daddr = 0 then s else s.post (.write g.daddr.toNat (leBytes 8 (code + g.launched * 2 ^ 32)))
  let s := s.post (.msix g.vec.toNat)
  let s := { s with accs := s.accs.map fun (a : Access) => if a.core == cmdKey then { a with abandoned := true } else a }
  { s.setCore cmdKey { Core.idle with lc := (s.core cmdKey).lc } with graph := none, graphImage := none }

/-! ## Machine checks and delivery -/

/-- The operations whose value goes to a register. -/
def AccOp.dest : AccOp → Option Reg
  | .ld d _ _ | .ldw d _ _ _ | .enq d _ | .enqLink d _ _ _ | .chase d _ _ => some (.s d.val)
  | .atom d _ _ _ _ => if d = 0 then none else some (.s d.val)
  | .remote d op _ _ _ _ => if d = 0 && op.isSome then none else some (.s d.val)
  | .vld vd _ _ | .vldw vd _ => some (.v vd.val)
  | .casw d _ _ => some (.s d.val)
  | .st | .agg _ _ _ _ | .streamIn _ | .streamOut _ | .place => none

/-- Every register that the access will write (CASW writes several). -/
def AccOp.dests : AccOp → List Reg
  | .casw d expect _ => (List.range expect.length).map fun i => .s (d.val + i)
  | op => op.dest.toList

/-- The access still owes a value to the core. -/
def Access.owes (a : Access) : Bool := a.op.dest.isSome && !a.abandoned

/-- A group of an output stream expects no more lanes. -/
def Commit.complete : Commit → Commit
  | .push f mask group _ => .push f mask group []
  | .pushOld f st mask group _ => .pushOld f st mask group []
  | w => w

/-- R358: what the core awaits is abandoned, the results of cluster accesses that lagging targets have not performed included. -/
def State.abandon (s : State) (k : Nat) : State :=
  let s : State := { s with
    accs := s.accs.map fun a => if a.core == k && a.owes then { a with abandoned := true } else a
    clAccs := s.clAccs.map fun a => if a.core == k then { a with abandoned := true } else a }
  s.updCore k fun c => { c with pend := c.pend.map fun p => { p with what := p.what.complete } }

/-- R393: a core that stops abandons every load, those of its input streams too. -/
def State.abandonLoads (s : State) (k : Nat) : State :=
  let s := s.abandon k
  { s with accs := s.accs.map fun a => if a.core == k && a.inLoad then { a with abandoned := true } else a }

/-- The node index and graph slot that a core's records carry. -/
def State.recordPlace (s : State) (k : Nat) : Nat × Nat :=
  if k = cmdKey then (s.graph.getD 0, (s.slot (s.graph.getD 0)).nodeIx.toNat)
  else ((s.node.map fun n => n.slot).getD 0, (s.node.map fun n => n.index.toNat).getD 0)

/-- The trap goes to the command core: the task, or the graph, stops with a record (R356, R367). -/
def State.recordTrap (s : State) (k : Nat) (t : Trap) (pc lc : Word) (pcv : Bool) : State :=
  let c := s.core k
  let (slot, node) := s.recordPlace k
  let hc := c.trap.cause.toNat
  if k = cmdKey then
    let r := s.mkRecord t 1 0 pcv false pc lc 0 0 slot node
    (s.record 0x1FF r).endGraph slot t.cause
  else
    let r := s.mkRecord t 0 k pcv c.inh pc lc (bits hc 0 8) (bits hc 8 8) slot node
    let s := s.setCore k { c.setTrap t pc lc with phase := .stopped }
    (s.record k r).stopNode k t.cause

/-- R356: to the core's handler, or to the command core. -/
def State.deliver (s : State) (k : Nat) (t : Trap) (pc lc : Word) : State :=
  let c := s.core k
  if k ≠ cmdKey && coreCause t.cause && bits c.trapvec.toNat 0 57 != 0 && !c.inh then
    s.setCore k { c.setTrap t pc lc with
      phase := .running, inh := true, pc := c.trapvec, lc := lc, jump := none, branchFrom := some pc, fellFrom := none }
  else s.recordTrap k t pc lc true

/-- The reports that a machine check drops are kept by the scribe alone (R405). -/
def State.scribeDropped (s : State) (k : Nat) : State :=
  let c := s.core k
  let (slot, node) := s.recordPlace k
  (c.reports.filter fun r => decide (r.due ≤ c.lc.toNat)).foldl (fun s r =>
    s.scribeTrap k (s.mkRecord r.trap (if k = cmdKey then 1 else 0) (if k = cmdKey then 0 else k) true c.inh c.pc c.lc (bits c.trap.cause.toNat 0 8)
      (bits c.trap.cause.toNat 8 8) slot node)) s

/-- R393: the core stops in the clock of detection. -/
def State.machineCheck (s : State) (k : Nat) (t : Trap) : State :=
  let c := s.core k
  let s := { s with free := s.free + 1 }.updCore k (·.unhold s.clk)
  (((s.scribeDropped k).abandonLoads k).recordTrap k t c.lastPc c.lastLc false).updCore k fun c => { c with pend := [], reports := [] }

/-- A deferred report of core k, due at a logical cycle, of the bundle that issued at another (R352, R395). -/
def State.defer (s : State) (k : Nat) (due origin : Nat) (t : Trap) : State :=
  s.updCore k fun c => { c with reports := c.reports ++ [{ due := due, trap := { t with defer := true, origin := origin } }] }

end Sys2Proof.Machine
end

