-- ==== Sys2Proof/Machine/Wire.lean ====
section
/-! DEFINITION. Wire flits, message heads and packet words (R273, R307-R312). -/

namespace Sys2Proof.Machine

/-- A wire flit of 72 bytes (R307): payload, SEQ, TYPE, CIRC, PCLS and the FCRC over bytes 0-67. -/
def wireFlit (type seq circ pcls : Nat) (payload : BitVec 512) : BitVec 576 :=
  let body := payload.toNat + (seq % 4096 + type * 2 ^ 12 + circ % 256 * 2 ^ 16 + pcls % 256 * 2 ^ 24) * 2 ^ 512
  BitVec.ofNat 576 (body + crc32c (leBytes 68 body) * 2 ^ 544)

/-- FCRC matches. -/
def wireOk (w : BitVec 576) : Bool := bits w.toNat 544 32 == crc32c (leBytes 68 (w.toNat % 2 ^ 544))
def wireType (w : BitVec 576) : Nat := bits w.toNat 524 4
def wireSeq (w : BitVec 576) : Nat := bits w.toNat 512 12
def wireCirc (w : BitVec 576) : Nat := bits w.toNat 528 8
def wirePcls (w : BitVec 576) : Nat := bits w.toNat 536 8
def wirePayload (w : BitVec 576) : BitVec 512 := BitVec.ofNat 512 w.toNat

/-- Eight words as a payload. -/
def payloadOf (l : List Nat) : BitVec 512 := BitVec.ofNat 512 (packNat 64 l)

/-- The head flit of a message (R311). -/
def headFlit (m : Message) : BitVec 512 :=
  payloadOf [m.stamp.toNat, m.circ + m.kind * 2 ^ 8 + m.len % 128 * 2 ^ 16 + m.fmt * 2 ^ 24 + m.stask * 2 ^ 32 + m.sdev * 2 ^ 41, m.cstep.toNat]

/-- The message that a head and payload flits carry. -/
def messageOf (head : BitVec 512) (payload : List (BitVec 512)) : Message :=
  let w1 := (word512 head 1).toNat
  { circ := bits w1 0 8, stamp := word512 head 0, kind := bits w1 8 2, len := bits w1 16 7, fmt := bits w1 24 4, sdev := bits w1 41 13,
    stask := bits w1 32 9, cstep := word512 head 2, payload := payload }

/-- Head, payload and tail as they leave a sender (R312). -/
def messageFlits (m : Message) : List Flit :=
  let body := headFlit m :: m.payload
  let tail := payloadOf [(tagOf body).toNat]
  let fl (t : Nat) (d : BitVec 512) : Flit := { type := t, circ := m.circ, data := d }
  fl 1 (headFlit m) :: m.payload.map (fl 2) ++ [fl 3 tail]

/-- Bytes as 64-byte payloads, the last filled with zeros. -/
def payloads : Nat → List Byte → List (BitVec 512)
  | 0, _ => []
  | n + 1, l => BitVec.ofNat 512 (leNat (l.take 64)) :: payloads n (l.drop 64)

/-- An align flit on a link (R310). -/
def alignFlit (tag node : Nat) : BitVec 576 := wireFlit 7 0 0 0 (payloadOf [tag, node])

/-- A link event as the scribe keeps it (R454): 0 NAK, 1 retrain, 2 dead, 3 failover, 4 training complete. -/
def State.linkEvent (s : State) (j what : Nat) : State := s.scribe1 4 j 0x1FF 0 (BitVec.ofNat 64 what)

/-- An error of a flit buffer as the scribe keeps it (R432). R454 lists no form for it and lets no other value be written: the model keeps it as a fault-address
entry that was dropped, found by the fabric, with no address (log entry 85). -/
def State.scribeFlit (s : State) (ue : Bool) : State := s.scribeFaq 1 (faqEntry ue srcFabric 0 0 0 0)

/-- A buffer that holds a flit is read (R432): an error that can be corrected changes nothing, another one marks the flit bad, and its payload is what
was read, which the spec leaves open. -/
def State.readFlit (s : State) (f : Flit) : State × Flit :=
  match f.err with
  | none => (s, f)
  | some ue =>
    let g := { f with err := none }
    ({ s.scribeFlit ue with free := s.free + 1 }, if ue then { g with bad := true, data := BitVec.ofNat 512 (Config.freeBits s.free 0) } else g)

/-- A wire flit leaves on a link. -/
def State.wire (s : State) (link : Nat) (w : BitVec 576) : State :=
  { s with links := modifyAt (fun l => { l with sent := l.sent ++ [w] }) link s.links }

/-- A link's sibling. -/
def sibling (j : Nat) : Nat := if j % 2 = 0 then j + 1 else j - 1

/-- The link that carries a link's traffic: its sibling once it is dead (R435), until it takes it back (R439). -/
def State.carrier (s : State) (j : Nat) : Nat :=
  if (s.links[j]?).any fun l => l.state == LinkState.dead || l.parked then sibling j else j

/-! ## Packets (R307, R312) -/

/-- The flits of a packet with its tail. -/
def packetFlits (clk pcls src dst : Nat) (l : List (BitVec 512)) : List Flit :=
  let n := l.length
  let flit (type circ : Nat) (d : BitVec 512) : Flit := { type := type, circ := circ, pcls := pcls, data := d, order := clk, src := src, dst := dst, pkt := true }
  ((List.range n).zip l).map (fun p => flit 4 (p.1 + 4 * (n - 1)) p.2) ++ [flit 3 (n % 4 + 4 * (n - 1)) (payloadOf [(tagOf l).toNat])]

/-- Flits wait at an input port of a router. -/
def State.enqueue (s : State) (router port : Nat) (l : List Flit) : State :=
  { s with routers := modifyAt (fun r => { r with inq := modifyAt (· ++ l) port r.inq }) router s.routers }

/-- A packet enters the fabric at a router's input port. -/
def State.sendPacket (s : State) (router port pcls dst : Nat) (l : List (BitVec 512)) : State :=
  s.enqueue router port (packetFlits s.clk pcls s.deviceId.toNat dst l)

/-- The hub's place in `State.routers`, and its ports for the collective engine and the memory side (R301). -/
def hub : Nat := 12
def collPort : Nat := 24
def memPort : Nat := 25

end Sys2Proof.Machine
end

