-- ==== Sys2Proof/Machine/Access.lean ====
section
/-! DEFINITION. Device-memory and remote accesses: their issue with what they must wait for, the aggregation buffers they flush, and the
value a load returns (R249-R261, R264, R278-R280). -/

namespace Sys2Proof.Machine

/-! ## Levels -/

/-- The point of R250 at which a store is performed at a scope; at TASK scope it is performed in the store queue. -/
def scopeLevel : Scope → Option Level
  | .task => none
  | .cl => some .port
  | .dev | .dom | .sys => some .ctl

def Scope.wide : Scope → Bool
  | .dom | .sys => true
  | _ => false

/-- A strong store at DEVICE scope or wider is not served from the memory port (R251). -/
def Access.hiddenInPort (a : Access) : Bool := a.ord == .strong && a.inStore && scopeLevel a.sco == some .ctl

def Access.isAgg (a : Access) : Bool :=
  match a.op with
  | .agg _ _ _ _ => true
  | _ => false

def Access.isStream (a : Access) : Bool :=
  match a.op with
  | .streamIn _ | .streamOut _ => true
  | _ => false

/-- A core-issued atomic on this device's memory. -/
def Access.isAtomic (a : Access) : Bool :=
  match a.op with
  | .atom _ _ _ _ _ | .casw _ _ _ | .enq _ _ | .enqLink _ _ _ _ => true
  | .remote _ opk _ _ _ _ => opk.isSome
  | _ => false

/-- The access has reached the level; an aggregated element has when its acknowledgement has ended it (R281). Neither an atomic, which its unit performs, nor
a strong store that the port hides is performed at CLUSTER scope before the coherence point (R250, R258). -/
def Access.reached (a : Access) (lv : Level) : Bool :=
  !a.isAgg &&
    match lv with
    | .performed | .ctl => a.place == .performed
    | .entered => a.place != .queue
    | .port => a.place == .performed || (a.place == .port && !a.hiddenInPort && !a.isAtomic)
    | .observed _ _ | .groups _ _ _ => true

/-- The access stands before another in program order. -/
def Access.olderThan (a b : Access) : Bool := decide (a.order < b.order) || (a.order == b.order && decide (a.id < b.id))

/-- A store that a core has observed is performed at DEVICE scope, or at the core's CLUSTER scope. -/
def State.seenDone (s : State) (k : Nat) (wide : Bool) (id : Nat) : Bool :=
  match s.accs.find? (fun a => a.id == id) with
  | none => true
  | some a => a.reached (if wide || clusterOf a.core != clusterOf k then .ctl else .port)

/-- What happens before a place in a core's program order through other tasks is performed: the loads that may observe it, and the stores (R257). -/
def State.observedMet (s : State) (k n : Nat) (wide : Bool) : Bool :=
  s.accs.all (fun a => !(a.core == k && a.inLoad && a.place != .performed && decide (a.order < n)))
    && (s.core k).seen.all fun x => decide (n ≤ x.from_) || s.seenDone k wide x.store

/-- A result in flight is one of the first n groups of a device stream whose binding has ended; `order` names the stream. -/
def Pending.owesGroup (order n : Nat) (p : Pending) : Bool :=
  match p.what with
  | .pushOld _ st _ _ _ => st.device && st.order == order && decide (st.moved < n)
  | _ => false

/-- The first n groups of a device stream of core k, or those of them that its bundles have pushed, have all entered the queues, and each has come far
enough (R93, R253). -/
def State.groupsMet (s : State) (k order n : Nat) (lv : Level) : Bool :=
  let c := s.core k
  (c.streams.toList.all fun o => o.all fun st => st.order != order || !st.device || decide ((if st.output then min n st.done else n) ≤ st.moved))
    && !c.pend.any (·.owesGroup order n)
    && s.accs.all fun a => !(a.core == k && a.isStream && a.order == order && decide (a.group < n)) || a.reached lv

/-- The dependence is satisfied: the access is no longer under way, or has come far enough. -/
def State.depMet (s : State) (d : Dep) : Bool :=
  match d.level with
  | .observed k wide => s.observedMet k d.id wide
  | .groups k n lv => s.groupsMet k d.id n lv
  | lv =>
    match s.accs.find? (fun a => a.id == d.id) with
    | none => true
    | some a => a.reached lv

def State.depsMet (s : State) (l : List Dep) : Bool := l.all s.depMet

/-- Dependences that are not satisfied yet. -/
def State.openDeps (s : State) (l : List Dep) : List Dep := l.filter fun d => !s.depMet d

/-! ## What is older -/

def Access.isPlace (a : Access) : Bool :=
  match a.op with
  | .place => true
  | _ => false

/-- Accesses of the core in the load queue that are not performed. -/
def State.queuedLoads (s : State) (k : Nat) : List Dep :=
  (s.accs.filter fun a => a.core == k && a.inLoad && a.place != .performed).map fun a => ⟨a.id, .performed⟩

/-- Groups that the core's device input streams have still to ask for: they stand in the load queue from the SBIND on (R253). -/
def State.comingLoads (s : State) (k : Nat) : List Dep :=
  (s.core k).streams.toList.filterMap fun o => o.bind fun st =>
    if st.device && !st.output && decide (st.moved < st.total) then some ⟨st.order, .groups k st.total .performed⟩ else none

/-- Loads of the core, those of its streams included, that are not performed. -/
def State.olderLoads (s : State) (k : Nat) : List Dep := s.queuedLoads k ++ s.comingLoads k

/-- Groups that the core's bundles have pushed to device output streams and that are still in the pipelines, to be waited for at a level (R253). -/
def State.pushedGroups (s : State) (k : Nat) (lv : Level) : List Dep :=
  ((s.core k).streams.toList.filterMap fun o => o.bind fun st =>
      if st.device && st.output && decide (st.moved < min st.total st.done) then some ⟨st.order, .groups k (min st.total st.done) lv⟩ else none)
    ++ (s.core k).pend.filterMap fun p =>
      match p.what with
      | .pushOld _ st _ _ _ => if st.device && decide (st.moved < st.total) then some ⟨st.order, .groups k (st.moved + 1) lv⟩ else none
      | _ => none

/-- Stores of the core, the pushed groups of its streams included, to be waited for at a level. -/
def State.olderStores (s : State) (k : Nat) (lv : Level) : List Dep :=
  (s.accs.filter fun a => a.core == k && a.inStore && a.place != .performed).map (fun a => ⟨a.id, lv⟩) ++ s.pushedGroups k lv

/-- Aggregated elements of the task that are not applied. -/
def State.olderElems (s : State) (k : Nat) : List Dep :=
  (s.accs.filter fun a => a.core == k && a.isAgg).map fun a => ⟨a.id, .performed⟩

/-- What a release at a scope, at the present end of the core's program order, waits for (R257, R260): it is cumulative. -/
def State.releaseDeps (s : State) (k : Nat) (sco : Scope) : List Dep :=
  s.olderLoads k
    ++ (match scopeLevel sco with
        | none => []
        | some lv => s.olderStores k lv ++ [⟨s.nextId, .observed k (lv == .ctl)⟩])
    ++ (if Scope.wide sco then s.olderElems k else [])

/-- A core is within a scope of another core's access (R249). -/
def inScope (k : Nat) (sco : Scope) (j : Nat) : Bool :=
  match sco with
  | .task => k == j
  | .cl => clusterOf k == clusterOf j
  | .dev | .dom | .sys => true

def Access.releases (a : Access) : Bool := a.inStore && a.ord != .plain
def Access.acquires (a : Access) : Bool := a.inLoad && a.ord != .plain

/-- Stores that may not be performed at DEVICE scope and happen before places in a core's program order: its own up to one, and those of others that it
has observed up to another (R263). -/
def State.carried (s : State) (k own seen : Nat) : List Nat :=
  (s.accs.filter fun a => a.core == k && a.inStore && a.place != .performed && decide (a.order < own)).map (·.id)
    ++ ((s.core k).seen.filter fun x => decide (x.from_ < seen) && !s.seenDone k true x.store).map (·.store)

/-- A core has observed stores, from a place in its program order on. -/
def State.sees (s : State) (k place : Nat) (l : List Nat) : State :=
  s.updCore k fun c => { c with seen := (c.seen.filter fun x => !s.seenDone k true x.store) ++ l.eraseDups.map fun i => { store := i, from_ := place } }

def State.dropAccess (s : State) (id : Nat) : State := { s with accs := s.accs.filter fun a => a.id != id }
def State.updAccess (s : State) (id : Nat) (f : Access → Access) : State :=
  { s with accs := s.accs.map fun a => if a.id == id then f a else a }

/-! ## Aggregation buffers leave (R279, R280) -/

/-- The flits of an aggregation packet. -/
def aggFlits (src dst pseq gslot : Nat) (elems : List AggElem) : List (BitVec 512) :=
  let h := src + dst * 2 ^ 13 + gslot * 2 ^ 26 + elems.length * 2 ^ 32 + pseq * 2 ^ 48
  let w := [h, 0] ++ elems.flatMap fun e => [e.word0.toNat, e.word1.toNat]
  let all := packNat 64 w
  (unpackNat 512 4 all).map (BitVec.ofNat 512)

/-- The cluster router at which an aggregation packet enters the fabric: that of its oldest element's core. -/
def aggHome (elems : List AggElem) : Nat := clusterOf ((elems.map (·.task)).headD 0)

/-- The open buffer for a destination leaves as one packet. -/
def State.bufferLeaves (s : State) (dst : Nat) : State :=
  match s.aggBufs.find? (fun b => b.dst == dst) with
  | none => s
  | some b =>
    let pseq := Sparse.get 0 s.aggSeq dst
    let s : State := { s with
      aggBufs := s.aggBufs.filter fun x => x.dst != dst
      aggSeq := Sparse.insert dst (pseq + 1) s.aggSeq
      aggSent := s.aggSent ++ [({ dst := dst, pseq := pseq, gslot := b.gslot, elems := b.elems, at_ := s.clk } : AggSent)] }
    s.sendPacket (aggHome b.elems) 0 2 dst (aggFlits s.deviceId.toNat dst pseq.toNat b.gslot b.elems)

/-- Buffers with 15 elements leave with the clock in which the last one has entered, once no element of a lower task can come before it (R278, R280). -/
def State.fullLeave (s : State) : State := (s.aggBufs.filter fun b => decide (15 ≤ b.elems.length)).foldl (fun s b => s.bufferLeaves b.dst) s

/-- Clocks pass: what ends with the present clock, then the clocks. -/
def State.elapse (s : State) (n : Nat) : State := if n = 0 then s else s.fullLeave.tick n

/-- Every buffer that holds an element of the task leaves. -/
def State.flushTask (s : State) (k : Nat) : State :=
  (s.aggBufs.filter fun b => b.elems.any fun e => e.task == k).foldl (fun s b => s.bufferLeaves b.dst) s

/-! ## Aggregated elements enter buffers (R278, R279) -/

/-- The words of an element (R279). -/
def aggWords (opk : Option Opk) (wide : Bool) (b : Word) (addr : Word) : Word × Word :=
  (BitVec.ofNat 64 (bits addr.toNat 0 57 + wide.toNat * 2 ^ 58 + opk.isSome.toNat * 2 ^ 59 + ((opk.map Opk.code).getD 0) * 2 ^ 60), b)

/-- The open buffer whose last entry is oldest. -/
def oldestBuf (l : List AggBuf) : Option AggBuf :=
  l.foldl (fun b x =>
    match b with
    | none => some x
    | some y => if x.lastAt < y.lastAt then some x else some y) none

/-- A buffer is open for a destination: an existing one of the same context, a free one, or the one evicted. -/
def State.openBuf (s : State) (dst gslot : Nat) : State :=
  let s := if s.aggBufs.any fun b => b.dst == dst && b.gslot != gslot then s.bufferLeaves dst else s
  if s.aggBufs.any fun b => b.dst == dst then s
  else
    let s := if 256 ≤ s.aggBufs.length then s.fullLeave else s
    let s := if 256 ≤ s.aggBufs.length then
        (match oldestBuf s.aggBufs with
        | some b => s.bufferLeaves b.dst
        | none => s)
      else s
    { s with aggBufs := s.aggBufs ++ [{ dst := dst, gslot := gslot, elems := [], openedAt := s.clk, lastAt := s.clk }] }

/-- Elements of one clock stand in ascending task index. -/
def insertElem (e : AggElem) : List AggElem → List AggElem
  | [] => [e]
  | x :: r => if x.clk == e.clk && decide (e.task < x.task) then e :: x :: r else x :: insertElem e r

/-- The element enters the open buffer for its destination. -/
def State.putInto (s : State) (dst gslot : Nat) (e : AggElem) : State :=
  let s := s.openBuf dst gslot
  { s with aggBufs := s.aggBufs.map fun (b : AggBuf) => if b.dst == dst then { b with elems := insertElem { e with clk := s.clk } b.elems, lastAt := s.clk } else b }

/-- The element enters; a buffer takes 15. Where one of the same clock finds 15 there, the one that stands last enters a new buffer (R278, R279). -/
def State.putElem (s : State) (dst gslot : Nat) (e : AggElem) : State :=
  let s := s.putInto dst gslot e
  match s.aggBufs.find? fun b => b.dst == dst && decide (15 < b.elems.length) with
  | none => s
  | some b =>
    let s := { s with aggBufs := s.aggBufs.map fun (x : AggBuf) => if x.dst == dst then { x with elems := x.elems.take 15 } else x }.bufferLeaves dst
    (b.elems.drop 15).foldl (fun s x => s.putInto dst gslot x) s

/-- An element enters: in its issue clock, since an eviction makes room for it at once; elements of one core for one destination enter in issue order. -/
def State.aggEntry (s : State) (id : Nat) : State :=
  match s.accs.find? (fun a => a.id == id) with
  | none => s
  | some a =>
    match a.op with
    | .agg opk wide b chip =>
      let older := s.accs.any fun x => x.core == a.core && decide (x.id < a.id) && x.place == .queue &&
        match x.op with
        | .agg _ _ _ c => c == chip
        | _ => false
      if a.place != .queue || older || !s.depsMet a.deps then s
      else
        let w := aggWords opk wide b a.addr
        (s.updAccess id fun a => { a with place := .sent }).putElem chip.toNat a.slot { id := id, task := a.core, word0 := w.1, word1 := w.2, pc := a.pc }
    | _ => s
/-! ## Bytes that overlap (R252) -/

/-- The key of a byte that a core accesses in a slot's context, when it is translated. -/
def State.byteKey (s : State) (k slot va : Nat) : Option Nat :=
  match s.translate (clusterOf k) slot va 1 with
  | .ok x => if x.host then none else some x.key
  | _ => none

/-- Where an element of an access lies: its physical bytes, so that two names of one byte are one; apart from all memory where translation gives none. -/
def State.spanOf (s : State) (k slot : Nat) (e : Elem) : Nat × Nat := ((s.byteKey k slot e.va).getD (2 ^ 60 + e.va), e.n)

/-- The access is performed on this device's memory: a remote operation when it names this device (R229). -/
def State.onDevice (s : State) (a : Access) : Bool :=
  match a.op with
  | .remote _ _ _ _ chip _ => chip == s.deviceId
  | .agg _ _ _ _ | .place => false
  | _ => true

/-- Where an element of an access lies: the link word of an ENQ where its unit has found it (R272). -/
def State.accSpan (s : State) (a : Access) (e : Elem) : Nat × Nat :=
  match a.op with
  | .enqLink _ _ _ key => (key, e.n)
  | _ => s.spanOf a.core a.slot e

/-- What is left of an access touches bytes of elements that a core names in a slot's context. -/
def State.overlaps (s : State) (a : Access) (k slot : Nat) (l : List Elem) : Bool :=
  s.onDevice a && a.todo.any fun x => l.any fun y => spansMeet (s.accSpan a x) (s.spanOf k slot y)

/-- Elements still to be performed that lie in a controller. -/
def State.inController (s : State) (a : Access) (ctl : Nat) : Bool :=
  s.onDevice a && a.todo.any fun e => decide ((s.accSpan a e).1 < 2 ^ 60) && controllerOf (s.accSpan a e).1 == ctl

/-! ## Issue -/

/-- What the queues themselves impose on a new access (R252, R254, R256, R260). -/
def State.queueDeps (s : State) (k : Nat) (todo : List Elem) (inLoad inStore : Bool) : List Dep :=
  let c := s.core k
  (if inLoad then s.olderLoads k ++ s.openDeps c.ordLoads else [])
    ++ (if inStore then
          s.olderStores k .entered ++ s.openDeps c.ordStores
            ++ ((s.accs.filter fun a => a.core == k && a.inLoad && a.place != .performed && s.overlaps a k (s.slotOfCore k) todo).map fun a => ⟨a.id, .performed⟩)
        else [])

/-- What a remote operation that names this device waits for: older stores to its bytes and, when it writes, those of its controller (R252, R254). -/
def State.selfDeps (s : State) (k : Nat) (op : AccOp) (todo : List Elem) : List Dep :=
  match op with
  | .remote _ opk _ _ chip _ =>
    if chip = s.deviceId then
      (s.accs.filter fun a => a.core == k && a.inStore && a.place != .performed &&
        (s.overlaps a k (s.slotOfCore k) todo || (opk.isSome && todo.any fun e =>
          (s.byteKey k (s.slotOfCore k) e.va).any fun x => s.inController a (controllerOf x)))).map fun a => ⟨a.id, .ctl⟩
    else []
  | _ => []

/-- A new access of the core enters its queues. -/
def State.access (s : State) (k : Nat) (op : AccOp) (addr : Word) (todo : List Elem) (inLoad inStore : Bool) (ord : Ord := .plain)
    (sco : Scope := .task) (opcode : Nat := 0) (span : Bool := false) : State :=
  let c := s.core k
  let release := ord == .strong || (ord == .acqRel && inStore)
  let acquire := ord == .strong || (ord == .acqRel && inLoad)
  let s := if release && Scope.wide sco then s.flushTask k else s
  let deps := s.queueDeps k todo inLoad inStore ++ s.selfDeps k op todo ++ (if release then s.releaseDeps k sco else [])
  let a : Access :=
    { id := s.nextId, core := k, pc := c.pc, lc := c.lc.toNat, op := op, addr := addr, todo := todo, inLoad := inLoad, inStore := inStore,
      ord := ord, sco := sco, deps := deps, opcode := opcode, span := span, slot := s.slotOfCore k }
  let s := { s with accs := s.accs ++ [a], nextId := s.nextId + 1 }
  if acquire then
    let d : List Dep := match (if inStore then scopeLevel sco else some .performed) with
      | some lv => [⟨a.id, lv⟩]
      | none => []
    s.updCore k fun c => { c with ordLoads := s.openDeps c.ordLoads ++ d, ordStores := s.openDeps c.ordStores ++ d }
  else s

/-- FENCE (R145, R260, R261). -/
def State.fence (s : State) (k : Nat) (kind : FenceKind) (sco : Scope) : State :=
  let s := if Scope.wide sco then s.flushTask k else s
  let d := match kind with
    | .acq => s.olderLoads k
    | .full | .rel => s.releaseDeps k sco
  s.updCore k fun c =>
    { c with
      ordLoads := s.openDeps c.ordLoads ++ (if kind == .rel then [] else d)
      ordStores := s.openDeps c.ordStores ++ d
      ordMsgs := s.openDeps c.ordMsgs ++ d
      fences := (if kind == .acq then c.fences.1 else s.nextId, s.nextId) }

/-- QMARK (R146, R260, R261). -/
def State.qmark (s : State) (k : Nat) : State :=
  s.updCore k fun c =>
    { c with
      ordLoads := s.openDeps c.ordLoads ++ s.olderStores k .ctl
      ordStores := s.openDeps c.ordStores ++ s.olderLoads k
      ordMsgs := s.openDeps c.ordMsgs ++ s.olderLoads k
      fences := (c.fences.1, s.nextId) }

/-- What an engine command waits for before its engine accepts it (R262). -/
def State.commandDeps (s : State) (k : Nat) : List Dep := s.releaseDeps k .dev

/-! ## Places in flight (R29, R202) -/

/-- Accesses that take one of the core's 64 places. -/
def State.inFlight (s : State) (k : Nat) : Nat :=
  (s.accs.filter fun a => a.core == k && a.place != .performed && !a.isStream && !(a.isAgg && a.place == .sent)).length

/-! ## What a load returns (R251, R252) -/

/-- The newest byte that a list of stores, oldest first, holds for a key. -/
def State.storedByte (s : State) (stores : List Access) (key : Nat) : Option Byte :=
  stores.foldl (fun acc a =>
    a.todo.foldl (fun acc e =>
      match s.byteKey a.core a.slot e.va with
      | some k => if k ≤ key && key < k + e.n then some (BitVec.ofNat 8 (e.data / 2 ^ (8 * (key - k)))) else acc
      | none => acc) acc) none

/-- A plain store with elements still to be performed. -/
def Access.pendingStore (a : Access) : Bool :=
  a.place != .performed &&
    match a.op with
    | .st | .streamOut _ => true
    | _ => false

/-- Insertion by order of entry into the port. -/
def insertPort (a : Access) : List Access → List Access
  | [] => [a]
  | b :: r => if a.portSeq < b.portSeq then a :: b :: r else b :: insertPort a r

/-- The stores in a cluster's memory port, in order of entry. -/
def State.portOf (s : State) (cl : Nat) : List Access :=
  (s.accs.filter fun a => clusterOf a.core == cl && a.place == .port && a.pendingStore && !a.hiddenInPort).foldl (fun l a => insertPort a l) []

/-- Insertion by program order. -/
def insertOlder (a : Access) : List Access → List Access
  | [] => [a]
  | b :: r => if a.olderThan b then a :: b :: r else b :: insertOlder a r

/-- A byte in the store queue of a load's own task: of the youngest older store (R251). -/
def State.ownByte (s : State) (a : Access) (key : Nat) : Option Byte :=
  s.storedByte ((s.accs.filter fun b => b.core == a.core && b.olderThan a && b.pendingStore && (b.place == .queue || b.hiddenInPort)).foldl
    (fun l b => insertOlder b l) []) key

/-- A byte that the load finds before the controller: in its task's store queue or its cluster's port. -/
def State.heldByte (s : State) (a : Access) (key : Nat) : Option Byte :=
  match s.ownByte a key with
  | some b => some b
  | none => s.storedByte (s.portOf (clusterOf a.core)) key

/-- n bytes as a cluster's copy engine reads them: through its port (R251). -/
def State.portNat (s : State) (cl key n : Nat) : Nat :=
  let port := s.portOf cl
  leNat ((List.range n).map fun i => (s.storedByte port (key + i)).getD (s.memByte (key + i)))

end Sys2Proof.Machine
end

