-- ==== Sys2Proof/Machine/Commit.lean ====
section
/-! DEFINITION. Fixed-latency results take effect at their logical cycles: registers, matrix operations, DRAIN rows, queue checks, stores
of ACPY, groups of output streams (R34, R35, R59, R90, R179, R205-R211, R386-R391). -/

namespace Sys2Proof.Machine

/-- Bits of STICKY are set at the core's present logical cycle (R152). -/
def Core.setSticky (c : Core) (cycle : Nat) (v : BitVec 2) : Core :=
  if v = 0 then c
  else { c with sticky := c.sticky ||| v,
                stickyNow := (cycle, if c.stickyNow.1 = cycle then c.stickyNow.2 ||| v else v) }

/-! ## Matrix operations (R207) -/

/-- Element (i, k) of operand A and element (j, k) of operand B, and whether B's is a reserved ternary code. -/
def MatOp.aVal (o : MatOp) (i k : Nat) : Val := decodeVal o.fa (tileElem o.a o.k (Fmt.width o.fa) i k)

/-- An INT8 element of A and a ternary element of B (R205). -/
def MatOp.aInt (o : MatOp) (i k : Nat) : Int := toSigned 8 (tileElem o.a o.k 8 i k)

def MatOp.bInt (o : MatOp) (j k : Nat) : Int × Bool :=
  if o.fb = .tri5 then decodeTri5 (tileElem o.b (o.k / 5) 8 j (k / 5)) (k % 5) else decodeTri2 (tileElem o.b o.k 2 j k)

def MatOp.bVal (o : MatOp) (j k : Nat) : Val := decodeVal o.fb (tileElem o.b o.k (Fmt.width o.fb) j k)

/-- One word of MMT from the accumulator word w and the pairs of operand elements (R75). -/
def intWord (w : W32) (neg clr : Bool) (p : List (Int × Int)) : W32 :=
  let sum := p.foldl (fun t x => t + x.1 * x.2) (0 : Int)
  BitVec.ofInt 32 ((if clr then 0 else w.toInt) + (if neg then -sum else sum))

/-- One word of MMA (R73). -/
def valWord (w : W32) (neg clr : Bool) (sum : Shape) (p : List (Val × Val)) : W32 :=
  roundFp32 .rne (sumShape sum (if clr then Val.zero else fp32 w) (p.map fun x => if neg then (x.1.mul x.2).neg else x.1.mul x.2))

/-- The word of output element (i, j), from the accumulator word w. -/
def MatOp.word (o : MatOp) (w : W32) (i j : Nat) : W32 :=
  if o.mmt then intWord w o.neg o.clr ((List.range o.k).map fun k => (o.aInt i k, (o.bInt j k).1))
  else valWord w o.neg o.clr o.sum ((List.range o.k).map fun k => (o.aVal i k, o.bVal j k))

/-- A reserved ternary code lies among the elements used. -/
def MatOp.reserved (o : MatOp) : Bool :=
  o.mmt && (List.range o.n).any fun j => (List.range o.k).any fun k => (o.bInt j k).2

/-- Row r of a register of `cols` elements of `width` bits touches one of the 64-bit words. -/
def rowTouches (cols width r : Nat) (words : List Nat) : Bool :=
  words.any fun w => decide (r * cols * width < 64 * w + 64) && decide (64 * w < (r + 1) * cols * width)

def bCols (o : MatOp) : Nat := if o.fb = .tri5 then o.k / 5 else o.k

/-- The result word comes from bad data (R390). -/
def MatOp.derived (o : MatOp) (badA badB : List Nat) (bad : List BadCell) (i j : Nat) : Bool :=
  rowTouches o.k (Fmt.width o.fa) i badA || rowTouches (bCols o) (Fmt.width o.fb) j badB
    || (!o.clr && bad.contains (.acc (o.row0 + i) j))

/-- One row of the result, the words derived from bad data free values. -/
def MatOp.row (o : MatOp) (old : BitVec 2048) (badA badB : List Nat) (bad : List BadCell) (free i : Nat) : BitVec 2048 :=
  vecOf ((List.range 64).map fun j =>
    if o.n ≤ j then lane old j
    else if o.derived badA badB bad i j then Config.freeWord (free + 64 * i + j)
    else o.word (lane old j) i j)

/-- Groups g to g + n - 1 are poisoned, groups that were keep their record. -/
def poisonGroups (l : List GroupPoison) (g n sub : Nat) (pc : Word) : List GroupPoison :=
  l ++ ((List.range n).filter fun i => !l.any fun p => p.group == g + i).map fun i => { group := g + i, sub := sub, pc := pc }

/-- The operation commits (R207, R390). -/
def State.commitMat (s : State) (k cycle : Nat) (pc : Word) (o : MatOp) (badA badB : List Nat) : State :=
  let c := s.core k
  let startBad := !o.clr && (List.range o.m).any fun i => (List.range o.n).any fun j => c.bad.contains (.acc (o.row0 + i) j)
  let bad := c.bad.filter fun b =>
    match b with
    | .acc r j => !(o.row0 ≤ r && r < o.row0 + o.m && j < o.n)
    | _ => true
  let acc := (List.range o.m).foldl (fun c2 i => c2.setAccRow (o.row0 + i) (o.row (c.accRow (o.row0 + i)) badA badB c.bad s.free i)) c
  let operandBad := !badA.isEmpty || !badB.isEmpty
  let gp := if operandBad then poisonGroups c.groupPoison (o.row0 / 8) 8 1 pc
    else if startBad then poisonGroups c.groupPoison (o.row0 / 8) 8 3 pc else c.groupPoison
  let c2 := { acc with bad := bad, groupPoison := gp }
  let c2 := if o.reserved then c2.setSticky cycle stickyRsvd else c2
  { s.setCore k c2 with free := s.free + 4096 }

/-! ## DRAIN (R210, R211) -/

/-- The converted words of a row, or the failing column and the sub-cause of R376 with its source code. -/
def DrainOp.elems (o : DrainOp) (i : Nat) (row : BitVec 2048) : Except (Nat × Nat × Nat) (List Nat) :=
  (List.range 64).foldr (fun j acc =>
    let w := lane row j
    let v := if o.i32 then decodeVal .raw32 w.toNat else fp32 w
    let v := match o.cols with
      | some c => v.mul (fp32 (lane c j))
      | none => v
    let v := match o.rows with
      | some r => v.mul (fp32 (lane r i))
      | none => v
    match encodeVal o.df o.rm o.ov v with
    | .error sub => .error (j, sub, w.toNat)
    | .ok e =>
      match acc with
      | .error x => .error x
      | .ok l => .ok (e :: l)) (.ok [])

/-- What is left of a DRAIN after row i is dropped. -/
def cancelDrain (o : DrainOp) (lc i : Nat) (pc : Word) (l : List Pending) : List Pending :=
  l.filter fun p =>
    match p.what with
    | .drain o2 j => !(o2 == o && p.lc == lc && p.pc == pc && decide (i ≤ j))
    | .room o2 j => !(o2 == o && p.lc == lc && p.pc == pc && decide (i ≤ j))
    | _ => true

/-- Row i is read and pushed. -/
def State.commitDrain (s : State) (k : Nat) (p : Pending) (o : DrainOp) (i : Nat) : State :=
  let c := s.core k
  let r := o.row0 + i
  if c.groupPoison.any fun g => g.group == r / 8 then
    s.machineCheck k { cause := 0x50, sub := 7, addr := BitVec.ofNat 64 r, info0 := s.arrayInfo k 2 }
  else if (List.range 64).any fun j => c.bad.contains (.acc r j) then
    s.machineCheck k { cause := 0x50, sub := 3, addr := BitVec.ofNat 64 r, info0 := s.arrayInfo k 2 }
  else
    match o.elems i (c.accRow r) with
    | .ok l =>
      let row : QRow := { words := BitVec.ofNat 2048 (packNat (Fmt.width o.df) l) }
      s.setCore k (c.setQueue o.q (c.queue o.q ++ [row]))
    | .error (j, sub, code) =>
      let t : Trap := { cause := 0x20, sub := sub, slot := p.slot, info0 := BitVec.ofNat 64 (j + 64 * i), info1 := BitVec.ofNat 64 code, opc := p.pc }
      (s.setCore k { c with pend := cancelDrain o p.lc i p.pc c.pend }).defer k (p.key / 2) p.lc t

/-- The report of a row that does not fit (R364). -/
def roomTrap (p : Pending) (o : DrainOp) (i rows : Nat) : Trap :=
  { cause := 0x14, sub := 3, slot := p.slot, info0 := BitVec.ofNat 64 i, info1 := BitVec.ofNat 64 rows, addr := BitVec.ofNat 64 o.q.val, opc := p.pc }

/-- Pushes into the queue of the same cycle that come after this one. -/
def laterRooms (p : Pending) (o : DrainOp) (l : List Pending) : Nat :=
  (l.filter fun x => x.key == p.key && (x.lc != p.lc || x.pc != p.pc) &&
    match x.what with
    | .room o2 _ => o2.q == o.q
    | _ => false).length

/-- The row pushed by `p` is judged, with `pops` pops of its cycle still to act (R211): what does not fit is taken back. -/
def State.judgeRoom (s : State) (k : Nat) (p : Pending) (o : DrainOp) (i pops : Nat) : State :=
  let c := s.core k
  let rows := (c.queue o.q).length - pops
  if rows ≤ 32 then s
  else
    let ix := (c.queue o.q).length - 1 - laterRooms p o c.pend
    let c := c.setQueue o.q ((c.queue o.q).eraseIdx ix)
    (s.setCore k { c with pend := cancelDrain o p.lc i p.pc c.pend }).defer k (p.key / 2) p.lc (roomTrap p o i rows)

/-! ## Stores of ACPY and groups of output streams -/

/-- ACPY's stores at their logical cycle (R209, R391): poisoned words are written with the poison encoding. -/
def Core.commitStore (c : Core) (cycle addr : Nat) (bytes : List Byte) (poison : Bool) : Core :=
  let c := (c.clearBadScratch addr bytes.length).writeAt cycle 0 addr bytes
  if poison then { c with bad := c.bad ++ (wordsTouched addr bytes.length).map .scratch } else c

/-- The elements of one group of a stream. -/
def groupElems (f : Fmt) (a : Nat) (v : BitVec 2048) : List Elem :=
  (List.range 64).map fun i => { va := elemAddr f a i, n := elemBytes f, lane := i, data := (storeLane f (lane v i)).getD 0 }

/-- The accesses of the groups of a stream that are under way. -/
def State.streamAccs (s : State) (k : Nat) (op : AccOp) (st : Stream) : List Access :=
  s.accs.filter fun a => a.core == k && a.op == op && a.order == st.order

/-- The access of one group: it stands in program order at the stream's SBIND, behind the group before it and behind what the SBIND was
(R93, R253). -/
def State.streamAccess (s : State) (k : Nat) (op : AccOp) (st : Stream) (addr : Nat) (todo : List Elem) (inStore : Bool) : State :=
  let deps := match (s.streamAccs k op st).getLast? with
    | some a => [⟨a.id, if inStore then .entered else .performed⟩]
    | none => s.openDeps st.deps
  { s with
    accs := s.accs ++ [{ id := s.nextId, core := k, pc := st.pc, lc := st.lc, op := op, addr := BitVec.ofNat 64 addr, todo := todo,
                         inLoad := !inStore, inStore := inStore, deps := deps, span := true, slot := s.slotOfCore k, order := st.order, group := st.moved }]
    nextId := s.nextId + 1 }

/-- One group of a stream is written: to local tiles at its logical cycle, to device memory through the store queue. -/
def State.pushGroup (s : State) (k cycle : Nat) (f : Fin 8) (st : Stream) (mask : BitVec 64) (v : BitVec 2048) : State :=
  let c := s.core k
  let a := st.groupAddr st.moved
  let v := mergeLanes mask 0 v
  if st.total ≤ st.moved then s
  else if st.device then s.streamAccess k (.streamOut f) st a (groupElems (fmtOfCode st.fmt) a v) true
  else
    let fm := c.fmtAt a
    let l := laneAddrs fm a 1 (BitVec.allOnes 64)
    s.setCore k ((c.verifyAt cycle (tilesOf fm l) st.tc).scatterAt cycle 0 fm l v)

/-- One group leaves for the stream (R92, R179); past the last group it is discarded. -/
def State.commitPush (s : State) (k cycle : Nat) (f : Fin 8) (mask : BitVec 64) (v : BitVec 2048) : State :=
  match (s.core k).streams[f] with
  | none => s
  | some st =>
    let s := s.pushGroup k cycle f st mask v
    s.updCore k fun c => c.setStream f (some { st with moved := min st.total (st.moved + 1) })

/-! ## Commit -/

/-- A CSRW takes effect (R151-R156). -/
def Core.commitCsr (c : Core) (n : Nat) (v : Word) : Core :=
  if n = 0x10 then { c with trapvec := v &&& 0x01FFFFFFFFFFFFFF }
  else if n = 0x30 then { c with sbchk := v.getLsbD 0 }
  else if 0x80 ≤ n && n ≤ 0x8F then c.wrTcfg (Fin.ofNat 16 n) v
  else c

/-- The bad words that a result overwrites whole (R386). -/
def Commit.heals : Commit → BadCell → Bool
  | .s n _, .reg (.s r) => n.val == r
  | .p n _, .reg (.p r) => n.val == r
  | .m n mask _, .reg (.m r) => n.val == r && mask == BitVec.allOnes 64
  | .v n mask _, .reg (.v r) => n.val == r && mask == BitVec.allOnes 64
  | .t n nb _, .tile x w => n.val == x && decide (64 * w + 64 ≤ nb)
  | _, _ => false

/-- Which lanes of a result remain to be delivered after another result has been written over the register. -/
def Commit.over (w : Commit) (r : Reg) : BitVec 64 :=
  match w, r with
  | .v n mask _, .v x => if n.val = x then mask else 0
  | .s n _, .s x => if n.val = x then BitVec.allOnes 64 else 0
  | _, _ => 0

/-- The registers that a cluster access writes. -/
def ClAcc.dest (a : ClAcc) : Option Reg :=
  if a.keep = 0 || a.abandoned then none
  else
    match a.op with
    | .ld d _ _ | .atom d _ _ _ _ => some (.s d.val)
    | .vld vd _ _ | .vldg vd _ _ => some (.v vd.val)
    | .st _ _ | .vst _ _ _ | .vsts _ _ _ => none

/-- The result of a cluster access as it will be issued, for its place among the results of its cycle. -/
def ClAcc.result (a : ClAcc) (what : Commit) : Pending := { key := 2 * a.vis, slot := 4, lc := a.vis - 14, pc := a.pc, what := what }

/-- A result that takes effect stands over the result of a cluster access that comes before it and is still to arrive (R35, R199). -/
def State.overwriteCl (s : State) (k : Nat) (p : Pending) : State :=
  { s with clAccs := s.clAccs.map fun a =>
      match a.dest with
      | some r => if a.core == k && (a.result p.what).before p then { a with keep := a.keep &&& ~~~(p.what.over r) } else a
      | none => a }

/-- One result takes effect on the core. -/
def State.commit (s : State) (k : Nat) (p : Pending) : State :=
  let s := (s.overwriteCl k p).updCore k fun c => { c with bad := c.bad.filter fun b => !p.what.heals b }
  let cycle := min (p.key / 2) (s.core k).lc.toNat
  match p.what with
  | .s n v => s.updCore k (·.wrS n v)
  | .p n v => s.updCore k fun c => { c.wrP n v with pvis := c.pvis.set n cycle }
  | .v n mask v => s.updCore k (·.wrV n mask v)
  | .m n mask v => s.updCore k (·.wrM n mask v)
  | .t n nb v => s.updCore k (·.wrT n nb v)
  | .tcfg n v => s.updCore k (·.wrTcfg n v)
  | .csr n v => s.updCore k (·.commitCsr n v)
  | .sticky v => s.updCore k (·.setSticky cycle v)
  | .acc row mask v => s.updCore k fun c =>
      { c.setAccRow row (mergeLanes mask (c.accRow row) v) with
        bad := c.bad.filter fun b =>
          match b with
          | .acc r j => !(r == row && mask.getLsbD j)
          | _ => true }
  | .aclr aw => s.updCore k fun c =>
      { c with
        acc := c.acc.filter fun r => !(8 * aw ≤ r.1 && r.1 < 8 * aw + 64)
        groupPoison := c.groupPoison.filter fun g => !(aw ≤ g.group && g.group < aw + 8)
        bad := c.bad.filter fun b =>
          match b with
          | .acc r _ => !(8 * aw ≤ r && r < 8 * aw + 64)
          | _ => true }
  | .mat op a b => s.commitMat k cycle p.pc op a b
  | .drain op i => s.commitDrain k p op i
  | .room op i => s.judgeRoom k p op i 0
  | .qclr q => s.updCore k (·.setQueue q [])
  | .store a bytes poison => s.updCore k (·.commitStore cycle a bytes poison)
  | .push f mask v _ => s.commitPush k cycle f mask v
  | .pushOld f st mask v _ => s.pushGroup k cycle f st mask v
  | .lend aw => s.updCore k fun c => { c with lent := c.lent ++ [(aw, [])] }

/-- The stream that a group leaves for, whether its binding has ended, and the cluster accesses that still owe lanes of it. -/
def Commit.group : Commit → Option ((Fin 8 × Bool) × List Nat)
  | .push f _ _ parts => some ((f, false), parts)
  | .pushOld f _ _ _ parts => some ((f, true), parts)
  | _ => none

/-- The first result due by a key. A group that lacks lanes waits for them, and the later groups of its stream wait behind it (R179). -/
def nextDue (key : Nat) : List (Fin 8 × Bool) → List Pending → Option Pending
  | _, [] => none
  | held, p :: r =>
    if key < p.key then none
    else
      match p.what.group with
      | none => some p
      | some (f, parts) => if parts.isEmpty && !held.contains f then some p else nextDue key (f :: held) r

/-- The first result due by a key, and the others. -/
def takeDue (key : Nat) (l : List Pending) : Option (Pending × List Pending) :=
  (nextDue key [] (dueOrder l)).map fun p => (p, (dueOrder l).erase p)

/-- Results due by a key take effect, in the order of R35. Each may cancel later ones. -/
def State.commitFuel (k key : Nat) : Nat → State → State
  | 0, s => s
  | n + 1, s =>
    match takeDue key (s.core k).pend with
    | none => s
    | some (p, r) => State.commitFuel k key n ((s.updCore k fun c => { c with pend := r }).commit k p)

def State.commitUpTo (s : State) (k key : Nat) : State := State.commitFuel k key (s.core k).pend.length s

/-- What a bundle at the core's logical cycle reads: every result visible by then. -/
def State.commitDue (s : State) (k : Nat) : State := s.commitUpTo k (2 * (s.core k).lc.toNat)

/-- R351 step 1: every result in flight takes effect at once. -/
def State.commitAll (s : State) (k : Nat) : State :=
  s.commitUpTo k ((s.core k).pend.foldl (fun m p => max m p.key) 0)

end Sys2Proof.Machine
end

