-- ==== Sys2Proof/Machine/SlotOp.lean ====
section
/-! DEFINITION. How a slot operation issues: what it reads and writes, what holds it, what it traps on and what it does; taking a trap;
streams at issue (R29, R91-R93, R179, R350-R365, R371, R386). A meaning is one `SlotOp`. -/

namespace Sys2Proof.Machine

/-- One slot operation as the issue stage takes it. -/
structure SlotOp where
  slot : Nat
  /-- Registers read, with the distance in lc from issue to the read (0 but for DRAIN's rows). -/
  reads : List (Reg × Nat) := []
  writes : List Reg := []
  /-- The latency of its result (R131). -/
  lat : Nat := 1
  /-- Local tiles that it accesses at issue (R79, R84). -/
  tiles : State → List Nat := fun _ => []
  /-- Rows that it pops from a result queue at issue (R90). -/
  pops : Option (QReg × Nat) := none
  /-- It takes one of the core's 64 places in flight (R29, R202, R240). -/
  place : State → Bool := fun _ => false
  /-- Elastic waits of its own (R29). -/
  wait : State → List Wait := fun _ => []
  /-- Precise traps in the order of its pseudocode. -/
  check : State → Option Trap := fun _ => none
  /-- The tile that it hands to the engines, and the sub-cause of its owner fault (R219, R362). -/
  hands : Option (Nat × Nat) := none
  /-- The words of scale vectors that it reads (R360). -/
  scales : State → List Reg := fun _ => []
  /-- Deferred reports that it takes in its place, due or not (ENDT, R352, R407). -/
  takes : State → List Trap := fun _ => []
  /-- The addresses that an L slot forms (R366, R371). -/
  forms : State → List Nat := fun _ => []
  /-- The lanes that it stores (VST, VSTS), which the shadow datapath checks (R366). -/
  storesLanes : State → List Nat := fun _ => []
  /-- The bytes of its core's scratchpad that it reads, or hands to an engine that reads them: address and length. -/
  looks : State → List (Nat × Nat) := fun _ => []
  /-- A cluster store whose target has already read bytes of it at a later place in the order of R80: no core of the part comes to this, and the model
  leaves its state as it is (log entry 25). -/
  stuck : State → Bool := fun _ => false
  /-- Tiles that it writes at the logical cycle at which its result commits (R219). -/
  writesLater : State → List Nat := fun _ => []
  /-- Precise traps after those of `hands` and `pops`. -/
  last : State → Option Trap := fun _ => none
  /-- What happens in place of the bundle once nothing holds it: another graph is chosen, a launch is refused (R327, R330). -/
  instead : State → Option State := fun _ => none
  /-- What it takes from the state before any slot of the bundle acts. -/
  pre : State → State := id
  /-- Its effect when the bundle issues. -/
  act : State → State
  /-- What follows once every slot has acted and LC has advanced (TRAP, RFT, REWIND): the bundle's PC is the argument. -/
  after : Word → State → State := fun _ s => s

/-- A valid slot of the bundle at issue: its 60 bits, its guard, whether the guard is true. -/
structure IssueSlot where
  word : Nat
  guard : PReg
  on : Bool
  op : SlotOp

/-! ## Registers still to come (R29, R30, R357) -/

/-- A register as TRAPINFO0 names it (R357). -/
def Reg.word : Reg → Word
  | .s n => BitVec.ofNat 64 n
  | .p n => BitVec.ofNat 64 (0x100 + n)
  | .v n => BitVec.ofNat 64 (0x200 + n)
  | .m n => BitVec.ofNat 64 (0x300 + n)
  | .t n | .tcfg n | .acc n _ | .scale n => BitVec.ofNat 64 n

/-- A register that is hard-wired is never waited for (R136, R177). -/
def Reg.wired : Reg → Bool
  | .s 0 | .p 0 | .m 0 => true
  | _ => false

/-- The wait for a register with a variable-latency result under way; `sub` is 0x01 for a read, 0x0B for a write. -/
def State.regWait (s : State) (k sub : Nat) (r : Reg) : Option Wait :=
  if r.wired then none
  else (s.accs.find? fun a => a.core == k && a.owes && a.op.dests.contains r).map fun a =>
    { sub := sub, info0 := r.word, info1 := a.pc, addr := a.addr, opc := a.pc }

/-- The wait for the target of a cluster access (R357). -/
def State.targetWait (s : State) (a : ClAcc) : Wait :=
  { sub := 0x0C, info0 := BitVec.ofNat 64 (a.target % 32), info1 := (s.core a.target).lc, addr := BitVec.ofNat 64 a.addr, opc := a.pc }

/-- The wait for a register that a cluster access should have written by now, had its target performed it (R29, R30). -/
def State.lateWait (s : State) (k : Nat) (r : Reg) : Option Wait :=
  if r.wired then none
  else (s.clAccs.find? fun a => a.core == k && a.dest == some r && decide (a.vis ≤ (s.core k).lc.toNat)).map s.targetWait

/-- The waits of a register that is read. -/
def State.readWaits (s : State) (k : Nat) (r : Reg) : List Wait := (s.regWait k 1 r).toList ++ (s.lateWait k r).toList

/-! ## Streams (R91-R93, R179) -/

/-- The stream of a vector register that is bound. -/
def Core.boundAt (c : Core) (n : Nat) : Option (Fin 8 × Stream) :=
  if 24 ≤ n then (c.streams[n % 8]'(Nat.mod_lt _ (by decide))).map fun st => (Fin.ofNat 8 n, st) else none

/-- Streams that the register list names. -/
def Core.streamsOf (c : Core) (l : List Reg) : List (Fin 8 × Stream) :=
  l.filterMap fun r =>
    match r with
    | .v n => c.boundAt n
    | _ => none

/-- R374 sub-cause 0x08: a read of an output stream or a write of an input stream. -/
def Core.streamMisuse (c : Core) (op : SlotOp) : Option Trap :=
  let bad := (c.streamsOf (op.reads.map (·.1))).find? (fun p => p.2.output) <|>
    (c.streamsOf op.writes).find? (fun p => !p.2.output)
  bad.map fun p => { cause := 3, sub := 8, info1 := BitVec.ofNat 64 p.1.val }

/-- Groups of a device output stream that have not reached memory: pushed by bundles, in the pipelines or in the store queue. -/
def State.streamFlight (s : State) (k : Nat) (f : Fin 8) (st : Stream) : Nat :=
  st.done - st.moved + ((s.streamAccs k (.streamOut f) st).filter fun a => a.place != .performed).length

/-- The elements of group g of a local stream. -/
def Core.localGroup (c : Core) (st : Stream) (g : Nat) : Fmt × List (Nat × Nat) :=
  let a := st.groupAddr g
  let f := c.fmtAt a
  (f, laneAddrs f a 1 (BitVec.allOnes 64))

/-- The pushes of one bundle, by stream and latency (R179). -/
def bundlePushes (c : Core) (ops : List SlotOp) : List (Fin 8 × Nat) :=
  (ops.flatMap fun op => (c.streamsOf op.writes).map fun p => (p.1, op.lat)).foldl (fun l x => if l.contains x then l else l ++ [x]) []

/-- The input streams that a bundle pops. -/
def bundlePops (c : Core) (ops : List SlotOp) : List (Fin 8) :=
  (ops.flatMap fun op => (c.streamsOf (op.reads.map (·.1))).map (·.1)).foldl (fun l x => if l.contains x then l else l ++ [x]) []

/-- The local groups that a bundle pushes, in the order of their latencies: each push of a stream is one group later. -/
def Core.pushedGroups (c : Core) (ops : List SlotOp) : List ((Fin 8 × Nat) × Nat) :=
  let l := bundlePushes c ops
  let rank (p : Fin 8 × Nat) : Nat := (l.filter fun q => q.1 == p.1 && decide (q.2 < p.2)).length
  l.filterMap fun p =>
    match c.streams[p.1] with
    | some st => if st.output && decide (st.done + rank p < st.total) then some (p, st.done + rank p) else none
    | none => none

/-- The tiles of one group of a local stream. -/
def Core.groupTiles (c : Core) (st : Stream) (g : Nat) : List Nat :=
  if st.device then [] else
    let l := c.localGroup st g
    tilesOf l.1 l.2

/-- The tiles of the local groups that a bundle pops and pushes. -/
def Core.streamTiles (c : Core) (ops : List SlotOp) : List Nat :=
  ((bundlePops c ops).flatMap fun f =>
    match c.streams[f] with
    | some st => if st.output || st.total ≤ st.done then [] else c.groupTiles st st.done
    | none => []) ++
  ((c.pushedGroups ops).flatMap fun p =>
    match c.streams[p.1.1] with
    | some st => c.groupTiles st p.2
    | none => [])

/-- The waits of a bundle on its streams (R29). -/
def State.streamWaits (s : State) (k : Nat) (ops : List SlotOp) : List Wait :=
  let c := s.core k
  let pushes := bundlePushes c ops
  ((bundlePops c ops).filterMap fun f =>
    match c.streams[f] with
    | some st =>
      if st.device && !st.output && st.done < st.total && st.buf.isEmpty then
        some { sub := 3, info0 := BitVec.ofNat 64 f.val, info1 := 0, opc := st.pc } else none
    | none => none) ++
  (pushes.filterMap fun p =>
    match c.streams[p.1] with
    | some st =>
      let n := (pushes.filter fun q => q.1 == p.1).length
      let fl := s.streamFlight k p.1 st
      if st.device && st.output && st.done < st.total && 2 < fl + n then
        some { sub := 4, info0 := BitVec.ofNat 64 p.1.val, info1 := BitVec.ofNat 64 fl, opc := st.pc } else none
    | none => none)

/-- What a read of a vector register will give the bundle at issue: of a bound input stream, the group that it pops (R92, R179). -/
def Core.peekV (c : Core) (n : VReg) : BitVec 2048 :=
  match c.streamOf n with
  | some st =>
    if st.total ≤ st.done then 0
    else if st.device then (st.buf.headD (0, false)).1
    else
      let g := c.localGroup st st.done
      (c.gather g.1 g.2).1
  | none => c.v[n]

/-- The checks that each element access of a local group meets (R85, R394, R397), and those of a push (R214, R215). -/
def Core.groupCheck (c : Core) (st : Stream) (g : Nat) : Option Trap :=
  let (f, l) := c.localGroup st g
  (l.findSome? fun p => alignFault p.2 (elemBytes f) p.1) <|> (l.findSome? fun p => scratchFault p.2 (elemBytes f) 0)
    <|> (if st.output && ternary f then some { cause := 0x20, sub := 3, info1 := BitVec.ofNat 64 (fmtCode f) } else none)
    <|> c.tileCheck (tilesOf f l) (!st.output) st.tc st.tagx

/-- The check of a read of a local group's words (R386). -/
def State.groupBad (s : State) (k : Nat) (st : Stream) (g : Nat) : Option Trap :=
  let l := (s.core k).localGroup st g
  if st.output then none else l.2.findSome? fun p => s.scratchMachineCheck k p.2 (elemBytes l.1)

/-- The checks of one group of a stream. -/
def State.groupTrap (s : State) (k : Nat) (st : Stream) (g : Nat) : Option Trap :=
  if st.total ≤ g then none
  else if st.device then
    if !st.output then none
    else if ternary (fmtOfCode st.fmt) then some { cause := 0x20, sub := 3, info1 := BitVec.ofNat 64 st.fmt, addr := BitVec.ofNat 64 (st.groupAddr g) }
    else if st.blk ≠ 0 then
      some { cause := 0x20, sub := 4, info0 := BitVec.ofNat 64 st.blk, info1 := BitVec.ofNat 64 (bits st.handle.toNat 0 10), addr := BitVec.ofNat 64 (st.groupAddr g) }
    else none
  else (s.core k).groupCheck st g <|> s.groupBad k st g

/-- The stream checks of one operation of a bundle: the groups that it reads, and the one that it pushes. -/
def State.streamCheck (s : State) (k : Nat) (ops : List SlotOp) (op : SlotOp) : Option Trap :=
  let c := s.core k
  ((c.streamsOf (op.reads.map (·.1))).findSome? fun p => s.groupTrap k p.2 p.2.done)
    <|> (c.streamsOf op.writes).findSome? fun p =>
      ((c.pushedGroups ops).find? fun q => q.1 == (p.1, op.lat)).bind fun q => s.groupTrap k p.2 q.2

/-- The elements of a group that a device input stream reads. -/
def readElems (f : Fmt) (a : Nat) : List Elem := (List.range 64).map fun i => { va := elemAddr f a i, n := elemBytes f, lane := i }

/-- The bytes of one group of a local stream. -/
def Core.groupSpans (c : Core) (st : Stream) (g : Nat) : List (Nat × Nat) :=
  let l := c.localGroup st g
  l.2.map fun p => (p.2, elemBytes l.1)

/-- The groups of local streams that results in flight are to write: each with its logical cycle and its bytes. -/
def Core.comingGroups (c : Core) : List (Nat × List (Nat × Nat)) :=
  ((dueOrder c.pend).foldl (fun (acc : List (Nat × List (Nat × Nat)) × List (Fin 8)) p =>
    match p.what with
    | .push f _ _ _ =>
      match c.streams[f] with
      | some st => (if st.device then acc.1 else acc.1 ++ [(p.key / 2, c.groupSpans st (st.moved + (acc.2.filter (· == f)).length))], acc.2 ++ [f])
      | none => acc
    | .pushOld _ st _ _ _ => (if st.device then acc.1 else acc.1 ++ [(p.key / 2, c.groupSpans st st.moved)], acc.2)
    | _ => acc) ([], [])).1

/-- The bytes of local streams whose groups were to be written by the core's present logical cycle and wait for lanes of a cluster access that a lagging
target has still to perform, with the accesses awaited (R179). -/
def Core.heldGroups (c : Core) : List (List Nat × List (Nat × Nat)) :=
  ((dueOrder c.pend).foldl (fun (acc : List (List Nat × List (Nat × Nat)) × List (Fin 8 × List Nat)) p =>
    if 2 * c.lc.toNat < p.key then acc
    else
      match p.what with
      | .push f _ _ parts =>
        match c.streams[f] with
        | some st =>
          let mine := acc.2.filter (·.1 == f)
          let owed := mine.flatMap (·.2) ++ parts
          (if st.device || owed.isEmpty then acc.1 else acc.1 ++ [(owed, c.groupSpans st (st.moved + mine.length))], acc.2 ++ [(f, parts)])
        | none => acc
      | .pushOld _ st _ _ parts => (if st.device || parts.isEmpty then acc.1 else acc.1 ++ [(parts, c.groupSpans st st.moved)], acc.2)
      | _ => acc) ([], [])).1

/-- The bytes that a bundle reads of its core's scratchpad: its operations' own, and the groups that it pops. -/
def State.issueLooks (s : State) (k : Nat) (ops : List SlotOp) : List (Nat × Nat) :=
  let c := s.core k
  (ops.flatMap fun op => op.looks s) ++ (bundlePops c ops).flatMap fun f =>
    match c.streams[f] with
    | some st => if st.output || st.device || st.total ≤ st.done then [] else c.groupSpans st st.done
    | none => []

/-- The wait for a lagging target whose lanes a local stream's group owes to bytes that the bundle reads (R29, R179). -/
def State.groupWait (s : State) (k : Nat) (ops : List SlotOp) : Option Wait :=
  ((s.core k).heldGroups.find? fun h => h.2.any fun x => (s.issueLooks k ops).any (spansMeet x)).bind fun h =>
    (s.clAccs.find? fun a => h.1.contains a.id).map s.targetWait

/-- A device input stream asks for groups while fewer than two are buffered or under way (R31, R93). -/
def State.refill (k : Nat) (f : Fin 8) : Nat → State → State
  | 0, s => s
  | n + 1, s =>
    match (s.core k).streams[f] with
    | none => s
    | some st =>
      let under := (s.streamAccs k (.streamIn f) st).length
      if st.device && !st.output && st.moved < st.total && st.buf.length + under < 2 then
        let a := st.groupAddr st.moved
        let s := s.streamAccess k (.streamIn f) st a (readElems (fmtOfCode st.fmt) a) false
        State.refill k f n (s.updCore k fun c => c.setStream f (some { st with moved := st.moved + 1 }))
      else s

/-- A bundle pops one group of a stream (R92); past the last group, zero lanes. -/
def State.pop (s : State) (k lat slot : Nat) (f : Fin 8) : State :=
  let c := s.core k
  match c.streams[f] with
  | none => s
  | some st =>
    if st.total ≤ st.done then s.setCore k (c.setStream f (some { st with cur := 0 }))
    else if st.device then
      let g := st.buf.headD (0, false)
      let c := c.setStream f (some { st with cur := g.1, buf := st.buf.tail, done := st.done + 1 })
      State.refill k f 2 (s.setCore k (if g.2 then c.later lat slot (.sticky stickyRsvd) else c))
    else
      let (fm, l) := c.localGroup st st.done
      let (v, rsvd) := c.gather fm l
      let c := ((c.setStream f (some { st with cur := v, done := st.done + 1 })).verifyTiles (tilesOf fm l) st.tc).lookAt c.lc.toNat 0
        (l.map fun p => (p.2, elemBytes fm))
      s.setCore k (if rsvd then c.later lat slot (.sticky stickyRsvd) else c)

/-! ## Checks at issue (R360, R371, R386) -/

/-- The class of a register in TRAPCAUSE.SUB (R360). Of a scale vector's word the rule names no class: the model reports that of the accumulator,
from which alone such a word can be written late. -/
def Reg.sbClass : Reg → Nat
  | .s _ => 1 | .p _ => 2 | .v _ => 3 | .m _ => 4 | .t _ => 5 | .tcfg _ => 6 | .acc _ _ | .scale _ => 7
def Reg.number : Reg → Nat
  | .s n | .p n | .v n | .m n | .t n | .tcfg n | .acc n _ | .scale n => n

/-- The latest logical cycle at which a group of a local stream is still to write a word of a scale vector. -/
def Core.groupVis (c : Core) : Reg → Nat
  | .scale a => c.comingGroups.foldl (fun m g => if g.2.any (spansMeet (a, 4)) then max m g.1 else m) 0
  | _ => 0

/-- The logical cycle at which the latest fixed-latency write to a register becomes visible; 0 when none is under way. -/
def State.visAt (s : State) (k : Nat) (r : Reg) : Nat :=
  let v := ((s.core k).pend.filter fun p => p.what.touches r).foldl (fun m p => max m (p.key / 2)) ((s.core k).groupVis r)
  (s.clAccs.filter fun a => a.core == k && a.dest == some r).foldl (fun m a => max m a.vis) v

/-- The scoreboard trap of one read (R360). -/
def State.sbTrap (s : State) (k : Nat) (r : Reg) (dist : Nat) : Option Trap :=
  let u := (s.core k).lc.toNat + dist
  if (s.core k).sbchk && !r.wired && decide (u < s.visAt k r) then
    some { cause := 5, sub := r.sbClass, info0 := BitVec.ofNat 64 (s.visAt k r), info1 := BitVec.ofNat 64 u, addr := BitVec.ofNat 64 r.number }
  else none

/-- The machine check of a register read (R386, R393). -/
def State.regCheck (s : State) (k : Nat) (r : Reg) : Option Trap :=
  match r with
  | .s _ | .p _ | .v _ | .m _ =>
    if (s.core k).bad.contains (.reg r) then some { cause := 0x50, sub := 2, addr := r.word, info0 := s.arrayInfo k 1 } else none
  | _ => none

/-- Rows of a queue that the executing slots below a slot pop (R231). -/
def popsBelow (l : List IssueSlot) (q : QReg) (slot : Nat) : Nat :=
  (l.filter fun x => x.on && decide (x.op.slot < slot)).foldl (fun n x =>
    match x.op.pops with
    | some (r, m) => if r = q then n + m else n
    | none => n) 0

/-- The queue fault of a pop (R364), and the machine check of a row with bad parity (R386). -/
def State.popTrap (s : State) (k : Nat) (l : List IssueSlot) (op : SlotOp) : Option Trap :=
  match op.pops with
  | none => none
  | some (q, n) =>
    let rows := ((s.core k).queue q).drop (popsBelow l q op.slot)
    if rows.length < n then
      some { cause := 0x14, sub := if op.slot = 5 then 2 else 1, info0 := BitVec.ofNat 64 n, info1 := BitVec.ofNat 64 rows.length, addr := BitVec.ofNat 64 q.val }
    else if (rows.take n).any (·.bad) then some { cause := 0x50, sub := 4, addr := BitVec.ofNat 64 q.val, info0 := s.arrayInfo k 3 }
    else none

/-- Tiles that results in flight still write, with their cycles: ACPY's stores, and groups of local streams (R219). -/
def Core.pendingTiles (c : Core) : List (Nat × Nat) :=
  ((dueOrder c.pend).foldl (fun (acc : List (Nat × Nat) × List (Fin 8)) p =>
    match p.what with
    | .store a bytes _ => (acc.1 ++ (tilesTouched a bytes.length).map fun t => (t, p.key / 2), acc.2)
    | .push f _ _ _ =>
      match c.streams[f] with
      | some st => (acc.1 ++ (c.groupTiles st (st.moved + (acc.2.filter (· == f)).length)).map fun t => (t, p.key / 2), acc.2 ++ [f])
      | none => acc
    | .pushOld _ st _ _ _ => (acc.1 ++ (c.groupTiles st st.moved).map fun t => (t, p.key / 2), acc.2)
    | _ => acc) ([], [])).1

/-- Late loads that will push a group into a stream: the stream of each. -/
def Access.pushes (a : Access) (c : Core) : Option (Fin 8 × Stream) :=
  match a.op with
  | .vld vd _ _ | .vldw vd _ => if a.abandoned then none else c.boundAt vd.val
  | _ => none

/-- Tiles of the groups that late vector loads will push into local streams (R219): no logical cycle is fixed for them, and the one reported
is a free value. -/
def State.lateTiles (s : State) (k : Nat) : List (Nat × Nat) :=
  let c := s.core k
  ((s.accs.filter fun a => a.core == k).foldl (fun (acc : List (Nat × Nat) × List (Fin 8)) a =>
    match a.pushes c with
    | none => acc
    | some (f, st) =>
      let n := (c.pend.filter fun p =>
        match p.what with
        | .push g _ _ _ => g == f
        | _ => false).length
      (acc.1 ++ (c.groupTiles st (st.moved + n + (acc.2.filter (· == f)).length)).map fun t => (t, Config.freeBits s.free 0 % 2 ^ 64), acc.2 ++ [f]))
    ([], [])).1

/-- Tiles that the bundle at issue writes after its own logical cycle. -/
def State.bundleTiles (s : State) (k : Nat) (l : List IssueSlot) : List (Nat × Nat) :=
  let c := s.core k
  (l.filter (·.on)).flatMap fun x =>
    ((x.op.writesLater s) ++ c.streamTiles [{ x.op with reads := [] }]).map fun t => (t, c.lc.toNat + x.op.lat)

/-- The owner fault of a handoff (R219, R362). -/
def State.ownerTrap (s : State) (k : Nat) (l : List IssueSlot) (op : SlotOp) : Option Trap :=
  match op.hands with
  | none => none
  | some (t, sub) =>
    let w := (((s.core k).pendingTiles ++ s.lateTiles k ++ s.bundleTiles k l).filter fun p => p.1 == t).map (·.2)
    if w.isEmpty then none
    else
      some { cause := 0x12, sub := sub, info0 := BitVec.ofNat 64 t, info1 := BitVec.ofNat 64 (w.foldl max 0), addr := BitVec.ofNat 64 (t * 4096) }

/-- The next address whose duplicate computation will differ, and the bits in which it does (R366). -/
def Core.addrUpset (c : Core) : Option (Nat × Word) :=
  c.upsets.findSome? fun u =>
    match u with
    | .addr n d => some (n, d)
    | .vec _ _ => none

/-- The next lane whose duplicate computation will differ. -/
def Core.laneUpset (c : Core) : Option (Nat × W32) :=
  c.upsets.findSome? fun u =>
    match u with
    | .vec n d => some (n, d)
    | .addr _ _ => none

/-- The duplicate-check trap of an address (R366, coverage level 1). -/
def State.addrTrap (s : State) (k : Nat) (op : SlotOp) : Option Trap :=
  match (s.core k).addrUpset with
  | none => none
  | some (n, d) =>
    match (op.forms s)[n]? with
    | some a => if 1 ≤ s.covOf k then some { cause := 0x21, sub := 2, info0 := BitVec.ofNat 64 a, info1 := BitVec.ofNat 64 a ^^^ d } else none
    | none => none

/-- The first precise trap of one slot, in the order of its checks (R353). -/
def State.slotTrap (s : State) (k : Nat) (l : List IssueSlot) (x : IssueSlot) : Option Trap :=
  let c := s.core k
  let t := s.regCheck k (.p x.guard.val) <|> s.sbTrap k (.p x.guard.val) 0 <|>
    (if x.on then
      c.streamMisuse x.op <|> (x.op.reads.findSome? fun r => s.regCheck k r.1) <|> (x.op.reads.findSome? fun r => s.sbTrap k r.1 r.2)
        <|> ((x.op.scales s).findSome? fun r => s.sbTrap k r 0) <|> s.addrTrap k x.op
        <|> s.streamCheck k ((l.filter (·.on)).map (·.op)) x.op <|> x.op.check s <|> s.ownerTrap k l x.op <|> s.popTrap k l x.op <|> x.op.last s
    else none)
  t.map fun t => if t.defer then t else { t with slot := x.op.slot, info0 := if t.cause = 3 then BitVec.ofNat 64 x.word else t.info0 }

/-- What becomes of a bundle that has passed its encoding checks. -/
inductive Verdict where
  | hold (slot : Nat) (w : Wait)
  | trap (t : Trap)
  /-- Something else happens in its place. -/
  | other (s : State)
  | go

/-- Of several waits, the first in the table of R357. -/
def firstWait (l : List (Nat × Wait)) : Option (Nat × Wait) :=
  l.foldl (fun b x =>
    match b with
    | none => some x
    | some y => if x.2.sub < y.2.sub then some x else some y) none

/-- The wait for free places in flight, of the first slot for which none is left (R29, R240). -/
def State.placeWaits (s : State) (k : Nat) (l : List IssueSlot) : List (Nat × Wait) :=
  ((((l.filter (·.on)).filter fun x => x.op.place s).drop (64 - s.inFlight k)).take 1).map fun x => (x.op.slot, { sub := 7, info0 := 64 })

/-- Every wait of the executing slots. -/
def State.waits (s : State) (k : Nat) (l : List IssueSlot) : List (Nat × Wait) :=
  let ops := (l.filter (·.on)).map (·.op)
  (ops.flatMap fun op =>
    ((op.reads.flatMap fun r => s.readWaits k r.1) ++ (op.writes.filterMap fun r => s.regWait k 0x0B r)
      ++ ((s.core k).tileWait (op.tiles s)).toList ++ op.wait s).map fun w => (op.slot, w))
  ++ ((((s.core k).tileWait ((s.core k).streamTiles ops)).toList ++ s.streamWaits k ops ++ (s.groupWait k ops).toList).map fun w => (2, w))
  ++ s.placeWaits k l

/-- The tiles that the executing slots access at issue. -/
def State.issueTiles (s : State) (k : Nat) (l : List IssueSlot) : List Nat :=
  let ops := (l.filter (·.on)).map (·.op)
  (ops.flatMap fun op => op.tiles s) ++ (s.core k).streamTiles ops

/-- A channel error is reported in place of the bundle (R407): of a WAITC on its channel that waits, of an access held on a tile that the
failed command still holds. -/
def State.chanHeld (s : State) (k : Nat) (l : List IssueSlot) (waits : List (Nat × Wait)) (e : ChanErr) : Bool :=
  (waits.any fun w => w.2.sub == 9 && w.2.addr == BitVec.ofNat 64 e.ch)
    || (s.issueTiles k l).any fun t => ((s.core k).tile t).engine && e.tiles.contains t

/-- Failed remote operations whose register the slots read (R417). -/
def Core.regReports (c : Core) (ops : List SlotOp) : List Trap :=
  (c.regFaults.filter fun p => ops.any fun op => op.reads.any fun r => r.1 == p.1).map (·.2.trap)

/-- Overrun reports of the tiles that the slots access (R363). -/
def State.overrunReports (s : State) (k : Nat) (ops : List SlotOp) : List Trap :=
  let c := s.core k
  (ops.filterMap fun op => (c.overrunTrap (op.tiles s)).map fun t => { t with slot := op.slot }) ++ (c.overrunTrap (c.streamTiles ops)).toList

/-- Of several deferred reports, the one with the oldest originating bundle (R353). -/
def oldestTrap : List Trap → Option Trap
  | [] => none
  | t :: r =>
    match oldestTrap r with
    | some u => if u.origin < t.origin then some u else some t
    | none => some t

/-- The deferred reports that the bundle's own accesses and reads meet. -/
def State.metReports (s : State) (k : Nat) (l : List IssueSlot) (waits : List (Nat × Wait)) : List Trap :=
  let ops := (l.filter (·.on)).map (·.op)
  (s.core k).regReports ops ++ s.overrunReports k ops ++ ((s.core k).chanErr.filter (s.chanHeld k l waits)).map (·.trap)
    ++ ops.flatMap fun op => op.takes s

/-- The verdict on the bundle (R352, R353): a deferred report, a wait, a precise trap, or its issue. `extra` are waits that are not of a
slot. -/
def State.judge (s : State) (k : Nat) (l : List IssueSlot) (extra : List (Nat × Wait) := []) : Verdict :=
  let ops := (l.filter (·.on)).map (·.op)
  let waits := s.waits k l ++ extra
  match oldestTrap (s.metReports k l waits), firstWait waits with
  | some t, _ => .trap t
  | none, some (n, w) => .hold n w
  | none, none =>
    match ops.findSome? (fun op => op.instead s), l.findSome? (s.slotTrap k l) with
    | some t, _ => .other t
    | none, some t => .trap t
    | none, none => if ops.any (·.stuck s) then .other s else .go

/-! ## Taking a trap (R351, R358) -/

/-- The oldest access that the core still awaits. -/
def State.awaited (s : State) (k : Nat) : Option Access := s.accs.find? fun a => a.core == k && a.owes

/-- The cluster accesses of the core that have a result still to come. -/
def State.awaitedCl (s : State) (k : Nat) : Bool := s.clAccs.any fun a => a.core == k && a.dest.isSome

/-- A report has been delivered: it is not delivered again. The record of an overrun is cleared (R363). -/
def State.spendReport (s : State) (k : Nat) (t : Trap) : State :=
  if !t.defer then s
  else
    s.updCore k fun c =>
      let c := { c with
        reports := c.reports.filter fun r => r.trap != t
        chanErr := c.chanErr.filter fun e => e.trap != t
        regFaults := c.regFaults.filter fun p => p.2.trap != t }
      if t.cause = 0x13 then c.setTile (t.addr.toNat / 4096) { c.tile (t.addr.toNat / 4096) with overrun := false } else c

/-- Every deferred report of the core: those pending, those of failed remote operations and of failed commands. -/
def Core.allReports (c : Core) : List Trap := c.reports.map (·.trap) ++ c.regFaults.map (·.2.trap) ++ c.chanErr.map (·.trap)

/-- The reports that come before a trap at its entry (R351 step 1, R353): every one before a precise trap, those of older bundles before a
deferred report. -/
def Core.reportsBefore (c : Core) (t : Trap) : List Trap :=
  (c.reports.map (·.trap)).filter fun r => !t.defer || decide (r.origin < t.origin)

/-- Entry once nothing older is awaited: results in flight take effect; a fault that an older operation has raised is reported instead. -/
def State.enter (s : State) (k : Nat) (t : Trap) (pc lc : Word) : State :=
  let s := s.commitAll k
  if (s.core k).phase == .stopped then s
  else
    let r := (oldestTrap ((s.core k).reportsBefore t)).getD t
    (s.spendReport k r).deliver k r pc lc

/-- A trap is taken: a machine check at once, a timing trap without awaiting anything, any other once older operations are complete. -/
def State.trap (s : State) (k : Nat) (t : Trap) (pc lc : Word) : State :=
  let s := s.updCore k (·.unhold s.clk)
  if t.cause = 0x50 && !t.defer then s.machineCheck k t
  else
    if t.cause = 0x10 then (s.abandon k).enter k t pc lc
    else if (s.awaited k).isSome || s.awaitedCl k then s.updCore k fun c => { c with entering := some (t, pc, lc), held := some s.clk }
    else s.enter k t pc lc

/-- The timing trap of a wait (R357). -/
def timingTrap (slot : Nat) (w : Wait) : Trap :=
  { cause := 0x10, sub := w.sub, slot := slot, info0 := w.info0, info1 := w.info1, addr := w.addr, opc := 0 }

/-- The clocks of a wait that count (R32): those for which a migration holds the node's tasks do not. -/
def State.counted (s : State) (k t0 : Nat) : Nat :=
  match (if k = cmdKey then none else s.migration.bind fun m => if s.node.any (·.slot == m.slot) then m.heldFrom else none) with
  | some h => min s.clk (max t0 h) - t0
  | none => s.clk - t0

/-- A held bundle: one clock passes, or patience has run out (R32, R353). A wait with sub-cause 0 has no bound (R247). -/
def State.hold (s : State) (k slot : Nat) (w : Wait) : State :=
  let c := s.core k
  if w.sub = 0 then s.elapse 1
  else
    match c.held with
    | none => (s.setCore k { c.stallsFrom s.clk w.sub with held := some s.clk }).elapse 1
    | some t0 =>
      if s.patience k ≤ s.counted k t0 then s.trap k (timingTrap slot w) c.pc c.lc
      else (s.setCore k (c.stallsFrom s.clk w.sub)).elapse 1

/-! ## Issue -/

/-- Pops rows of a queue. -/
def State.popQueue (s : State) (q : QReg) (n : Nat) : State := s.updMe fun c => c.setQueue q ((c.queue q).drop n)

/-- The soft error has been met. -/
def Core.spendLane (c : Core) (n : Nat) (d : W32) : Core := { c with upsets := c.upsets.erase (.vec n d) }

/-- The deferred duplicate-check report of a lane (R366). -/
def laneTrap (slot n : Nat) (d : W32) (pc : Word) (origin : Nat) : Trap :=
  { cause := 0x21, sub := 3, slot := slot, info0 := BitVec.ofNat 64 n, info1 := d.setWidth 64, opc := pc, defer := true, origin := origin }

/-- The results of the V slot that the bundle at issue has just put in flight. -/
def Core.vResults (c : Core) : List Pending := c.pend.filter fun p => p.slot == 2 && p.lc == c.lc.toNat && p.pc == c.pc

/-- A result has a value for a lane: a scalar result counts as that of lane 0. -/
def Commit.hasLane (n : Nat) : Commit → Bool
  | .v _ mask _ | .m _ mask _ | .push _ mask _ _ | .pushOld _ _ mask _ _ => mask.getLsbD n
  | .s _ _ => n == 0
  | _ => false

/-- A result whose lane differs in the shadow datapath does not commit; the report is due at its commit cycle. -/
def Core.failResult (c : Core) (p : Pending) (n : Nat) (d : W32) : Core :=
  let c := match p.what.group with
    | some ((f, _), _) => c.setStream f ((c.streams[f]).map fun (st : Stream) => { st with done := st.done - 1 })
    | none => c
  let r : Report := { due := p.key / 2, trap := laneTrap 2 n d p.pc p.lc }
  { c.spendLane n d with pend := c.pend.erase p, reports := c.reports ++ [r] }

/-- The slots act on a soft error that the shadow datapath of coverage level 2, beside the V slot and the stores of lanes, will find (R366). -/
def State.shadowed (s : State) (k : Nat) (ops : List SlotOp) : State :=
  let s := ops.foldl (fun s op =>
    match (s.core k).laneUpset with
    | some (n, d) =>
      if (op.storesLanes s).contains n then
        (s.defer k (s.core k).lc.toNat (s.core k).lc.toNat (laneTrap 4 n d (s.core k).pc (s.core k).lc.toNat)).updCore k fun c => c.spendLane n d
      else op.act s
    | none => op.act s) s
  match (s.core k).laneUpset with
  | none => s
  | some (n, d) =>
    match (s.core k).vResults.find? (·.what.hasLane n) with
    | some p => s.updCore k fun c => c.failResult p n d
    | none => s

/-- Coverage level 2 compares lanes, and one will differ. -/
def State.laneDiffers (s : State) (k : Nat) : Bool := s.covOf k == 2 && (s.core k).laneUpset.isSome

/-- Every executing slot acts, in ascending order, on the operands of the bundle's cycle. -/
def State.perform (s : State) (k : Nat) (l : List IssueSlot) : State :=
  let ops := (l.filter (·.on)).map (·.op)
  let c := s.core k
  let differs := s.laneDiffers k
  let lats (f : Fin 8) : Nat × Nat :=
    ((ops.find? fun op => (c.streamsOf (op.reads.map (·.1))).any fun p => p.1 == f).map fun op => (op.lat, op.slot)).getD (1, 2)
  let seen := ops.flatMap fun op => op.looks s
  let s := (bundlePops c ops).foldl (fun s f => s.pop k (lats f).1 (lats f).2 f) s
  let s := (ops.foldl (fun s op => op.pre s) s).look k seen
  if differs then s.shadowed k ops else ops.foldl (fun s op => op.act s) s

/-! ## Where execution goes (R25, R111, R136, R140, R141) -/

/-- The half of the loop buffer in which execution is. -/
def Core.half (c : Core) : Option Half := if c.inHalf1 then c.half1 else c.half0

/-- The expanded bundles from the one at a PC on. -/
def itemsFrom (pc : Nat) : List BufItem → List BufItem
  | [] => []
  | i :: r => if i.pc = pc then i :: r else itemsFrom pc r

/-- The bundles of the segment from the bundle at issue on. -/
def Core.here (c : Core) : List BufItem := ((c.half.map (·.items)).map (itemsFrom c.pc.toNat)).getD []

/-- The image base of the image that a core runs (R110). -/
def State.imageBase (s : State) (k : Nat) : Nat := ((s.imageOf k).map (·.base)).getD 0

/-- next_pc of the last bundle of the segment (R136). -/
def State.beyond (s : State) (k : Nat) : Nat :=
  let next := (((s.core k).half.map (·.next)).getD 0)
  if next = 0 then 0 else s.imageBase k + next + 16

/-- next_pc of the n-th bundle from the one at issue on. -/
def State.nextPcAt (s : State) (k n : Nat) : Word :=
  match ((s.core k).here)[n + 1]? with
  | some i => BitVec.ofNat 64 i.pc
  | none => BitVec.ofNat 64 (s.beyond k)

/-- next_pc (R136). -/
def State.nextPc (s : State) (k : Nat) : Word := s.nextPcAt k 0

/-- At the end of a body: back to its first bundle, or the loop ends; a taken branch ends it (R140, R141). Where the body of the enclosing loop ends at the same
bundle, the model looks at that loop in the same issue once the inner one has ended; R140 writes the test for loop_top alone (log entry 100). -/
def loopEnd (pc : Word) (branched : Bool) : List Loop → List Loop × Option Word
  | [] => ([], none)
  | l :: r =>
    if l.last = pc then
      if 1 < l.left && !branched then ({ l with left := l.left - 1 } :: r, some l.first) else loopEnd pc branched r
    else (l :: r, none)

/-- Predicates that the slots write (R38). -/
def predWrites (ops : List SlotOp) : BitVec 16 :=
  ops.foldl (fun m op => op.writes.foldl (fun m r =>
    match r with
    | .p n => m ||| BitVec.ofNat 16 (2 ^ n)
    | _ => m) m) 0

/-- The bundle at the PC has issued or been nullified: the PC, the loops, LC by 1 + STALL (but for ALIGN), and what the issue stage
looks back at; results visible at the new LC take effect. -/
def State.advance (s : State) (k : Nat) (next : Word) (stall clks : Nat) (writes : BitVec 16) : State :=
  let c := (s.core k).unhold s.clk
  let branched := c.jump.isSome && c.branchFrom.isSome
  let (loops, back) := if c.jump.isSome && !branched then (c.loops, none) else
    let r := loopEnd c.pc branched c.loops.reverse
    (r.1.reverse, r.2)
  let lc := if c.phase == .aligning then c.lc else c.lc + BitVec.ofNat 64 (1 + stall)
  let pc := match c.jump, back with
    | some t, _ => t
    | none, some t => t
    | none, none => next
  let c := { c with
    pc := pc, lc := lc, loops := loops, jump := none, first := false, clks := c.clks + clks,
    fellFrom := if c.jump.isSome then c.fellFrom else some c.pc,
    branchFrom := if c.jump.isSome then c.branchFrom else none,
    past := { lc := c.lc.toNat, writes := writes } :: c.past.take 1, lastPc := c.pc, lastLc := c.lc, refetched := none }
  (s.setCore k c).commitDue k

/-- A duplicate-check trap of an address has met its soft error. -/
def State.spendAddr (s : State) (k : Nat) (t : Trap) : State :=
  match (s.core k).addrUpset with
  | some (n, d) => if t.cause = 0x21 && t.sub = 2 then s.updCore k fun c => { c with upsets := c.upsets.erase (.addr n d) } else s
  | none => s

/-- The slots issue as one bundle: they are judged, and when they issue they act, the core advances, and what follows the bundle is
done. -/
def State.issueBundle (s : State) (k : Nat) (l : List IssueSlot) (stall : Nat) (extra : List (Nat × Wait) := []) : State :=
  match s.judge k l extra with
  | .hold n w => s.hold k n w
  | .other t => t
  | .trap t => (s.spendAddr k t).trap k t (s.core k).pc (s.core k).lc
  | .go =>
    let ops := (l.filter (·.on)).map (·.op)
    let t := (s.perform k l).advance k (s.nextPc k) stall (1 + stall) (predWrites (l.map (·.op)))
    ops.foldl (fun t op => op.after (s.core k).pc t) t

/-- The bits of an operation in a slot without a guard. -/
def opWord (i : Instr) : Nat := ((encodeSlot { g := 0, gn := false, op := i }).map (·.2)).getD 0

/-- An operation alone in its bundle, unguarded. -/
def SlotOp.alone (op : SlotOp) (i : Instr) : List IssueSlot := [{ word := opWord i, guard := 0, on := true, op := op }]

/-- The meaning of one operation: on the core that the step concerns, the bundle that holds it alone, with STALL 0 and RESTART 0,
reaches issue with its encoding checked. -/
def SlotOp.run (i : Instr) (op : SlotOp) (s : State) : Host.Outcome State Fault Refusal :=
  .next (s.issueBundle s.cur (op.alone i) 0)

end Sys2Proof.Machine
end

