-- ==== Sys2Proof/Machine/Scalar.lean ====
section
/-! DEFINITION. A slot: scalar integer and floating-point instructions (R166-R174). -/

namespace Sys2Proof.Machine

/-- A read of a scalar, predicate, vector or mask register at issue. -/
def rS (n : SReg) : Reg × Nat := (.s n.val, 0)
def rP (n : PReg) : Reg × Nat := (.p n.val, 0)
def rV (n : VReg) : Reg × Nat := (.v n.val, 0)
def rM (n : MReg) : Reg × Nat := (.m n.val, 0)

/-- An A-slot operation that writes S[D] := f(S[A]) (R166). -/
def alu1 (lat : Nat) (d a : SReg) (f : Word → Word) : SlotOp :=
  { slot := 1, reads := [rS a], writes := [.s d.val], lat := lat, act := fun s => s.putS 1 d (f (s.me.rdS a)) lat }

/-- An A-slot operation that writes S[D] := f(S[A], S[B]) (R166). -/
def alu2 (lat : Nat) (d a b : SReg) (f : Word → Word → Word) : SlotOp :=
  { slot := 1, reads := [rS a, rS b], writes := [.s d.val], lat := lat, act := fun s => s.putS 1 d (f (s.me.rdS a) (s.me.rdS b)) lat }

/-! ## Values -/

/-- MULH: bits [127:64] of the signed product. -/
def mulHigh (a b : Word) : Word := BitVec.ofInt 64 (floorDiv (a.toInt * b.toInt) (2 ^ 64 : Nat))
/-- MULHN: bits [127:64] of the unsigned product. -/
def mulHighN (a b : Word) : Word := BitVec.ofNat 64 (a.toNat * b.toNat / 2 ^ 64)
/-- DIV: all ones for b = 0; the quotient rounds toward zero. -/
def divS (a b : Word) : Word := if b = 0 then BitVec.allOnes 64 else wrap64 (Int.tdiv a.toInt b.toInt)
def divN (a b : Word) : Word := if b = 0 then BitVec.allOnes 64 else BitVec.ofNat 64 (a.toNat / b.toNat)
/-- REM: a for b = 0. -/
def remS (a b : Word) : Word := if b = 0 then a else wrap64 (a.toInt - b.toInt * Int.tdiv a.toInt b.toInt)
def remN (a b : Word) : Word := if b = 0 then a else BitVec.ofNat 64 (a.toNat % b.toNat)
def shlBy (a : Word) (n : Nat) : Word := BitVec.ofNat 64 (a.toNat * 2 ^ n)
def shrBy (a : Word) (n : Nat) : Word := BitVec.ofNat 64 (a.toNat / 2 ^ n)
def shaBy (a : Word) (n : Nat) : Word := wrap64 (floorDiv a.toInt (2 ^ n : Nat))
/-- A field's length: LEN = 0 stands for 64 (R170). -/
def fieldLen (len : Fin 64) : Nat := if len.val = 0 then 64 else len.val
/-- BFX: the field of a, zero-extended. -/
def fieldOf (a : Word) (pos len : Fin 64) : Word := BitVec.ofNat 64 (bits a.toNat pos.val (fieldLen len))
/-- BFI: a with the field replaced by the low bits of b. -/
def fieldInto (a b : Word) (pos len : Fin 64) : Word :=
  let mask := BitVec.ofNat 64 ((2 ^ fieldLen len - 1) * 2 ^ pos.val)
  (a &&& ~~~mask) ||| (shlBy b pos.val &&& mask)
/-- The FP32 value in the low half of a scalar (R68). -/
def fpOf (a : Word) : Val := fp32 (BitVec.ofNat 32 a.toNat)
/-- An FP32 result clears the high half (R68). -/
def ofFp (x : W32) : Word := BitVec.ofNat 64 x.toNat

/-- ADD: S[D] := wrap64(a + b) (R166). -/
def opAdd (d a b : SReg) : SlotOp :=
  alu2 1 d a b (fun a b => a + b)
def execAdd (d a b : SReg) (s : State) : Host.Outcome State Fault Refusal := (opAdd d a b).run (.add d a b) s

/-- SUB: S[D] := wrap64(a - b) (R166). -/
def opSub (d a b : SReg) : SlotOp :=
  alu2 1 d a b (fun a b => a - b)
def execSub (d a b : SReg) (s : State) : Host.Outcome State Fault Refusal := (opSub d a b).run (.sub d a b) s

/-- ADDI: S[D] := wrap64(a + sign_extend(IMM, 36)) (R167). -/
def opAddi (d a : SReg) (imm : BitVec 36) : SlotOp :=
  alu1 1 d a (fun a => a + imm.signExtend 64)
def execAddi (d a : SReg) (imm : BitVec 36) (s : State) : Host.Outcome State Fault Refusal := (opAddi d a imm).run (.addi d a imm) s

/-- MUL: S[D] := wrap64(a × b) (R166). -/
def opMul (d a b : SReg) : SlotOp :=
  alu2 3 d a b (fun a b => a * b)
def execMul (d a b : SReg) (s : State) : Host.Outcome State Fault Refusal := (opMul d a b).run (.mul d a b) s

/-- MULH: S[D] := bits [127:64] of the signed product (R166). -/
def opMulh (d a b : SReg) : SlotOp :=
  alu2 3 d a b (mulHigh)
def execMulh (d a b : SReg) (s : State) : Host.Outcome State Fault Refusal := (opMulh d a b).run (.mulh d a b) s

/-- MULHN: S[D] := bits [127:64] of the unsigned product (R166). -/
def opMulhn (d a b : SReg) : SlotOp :=
  alu2 3 d a b (mulHighN)
def execMulhn (d a b : SReg) (s : State) : Host.Outcome State Fault Refusal := (opMulhn d a b).run (.mulhn d a b) s

/-- DIV: S[D] := the signed quotient (R166). -/
def opDiv (d a b : SReg) : SlotOp :=
  alu2 18 d a b (divS)
def execDiv (d a b : SReg) (s : State) : Host.Outcome State Fault Refusal := (opDiv d a b).run (.div d a b) s

/-- DIVN: S[D] := the unsigned quotient (R166). -/
def opDivn (d a b : SReg) : SlotOp :=
  alu2 18 d a b (divN)
def execDivn (d a b : SReg) (s : State) : Host.Outcome State Fault Refusal := (opDivn d a b).run (.divn d a b) s

/-- REM: S[D] := the signed remainder (R166). -/
def opRem (d a b : SReg) : SlotOp :=
  alu2 18 d a b (remS)
def execRem (d a b : SReg) (s : State) : Host.Outcome State Fault Refusal := (opRem d a b).run (.rem d a b) s

/-- REMN: S[D] := the unsigned remainder (R166). -/
def opRemn (d a b : SReg) : SlotOp :=
  alu2 18 d a b (remN)
def execRemn (d a b : SReg) (s : State) : Host.Outcome State Fault Refusal := (opRemn d a b).run (.remn d a b) s

/-- AND: S[D] := a and b (R166). -/
def opAnd (d a b : SReg) : SlotOp :=
  alu2 1 d a b (fun a b => a &&& b)
def execAnd (d a b : SReg) (s : State) : Host.Outcome State Fault Refusal := (opAnd d a b).run (.and d a b) s

/-- OR: S[D] := a or b (R166). -/
def opOr (d a b : SReg) : SlotOp :=
  alu2 1 d a b (fun a b => a ||| b)
def execOr (d a b : SReg) (s : State) : Host.Outcome State Fault Refusal := (opOr d a b).run (.or d a b) s

/-- XOR: S[D] := a xor b (R166). -/
def opXor (d a b : SReg) : SlotOp :=
  alu2 1 d a b (fun a b => a ^^^ b)
def execXor (d a b : SReg) (s : State) : Host.Outcome State Fault Refusal := (opXor d a b).run (.xor d a b) s

/-- ANDI: S[D] := a and sign_extend(IMM, 36) (R167). -/
def opAndi (d a : SReg) (imm : BitVec 36) : SlotOp :=
  alu1 1 d a (fun a => a &&& imm.signExtend 64)
def execAndi (d a : SReg) (imm : BitVec 36) (s : State) : Host.Outcome State Fault Refusal := (opAndi d a imm).run (.andi d a imm) s

/-- ORI: S[D] := a or sign_extend(IMM, 36) (R167). -/
def opOri (d a : SReg) (imm : BitVec 36) : SlotOp :=
  alu1 1 d a (fun a => a ||| imm.signExtend 64)
def execOri (d a : SReg) (imm : BitVec 36) (s : State) : Host.Outcome State Fault Refusal := (opOri d a imm).run (.ori d a imm) s

/-- XORI: S[D] := a xor sign_extend(IMM, 36) (R167). -/
def opXori (d a : SReg) (imm : BitVec 36) : SlotOp :=
  alu1 1 d a (fun a => a ^^^ imm.signExtend 64)
def execXori (d a : SReg) (imm : BitVec 36) (s : State) : Host.Outcome State Fault Refusal := (opXori d a imm).run (.xori d a imm) s

/-- SHL: S[D] := wrap64(a × 2^n), n := b mod 64 (R166). -/
def opShl (d a b : SReg) : SlotOp :=
  alu2 1 d a b (fun a b => shlBy a (b.toNat % 64))
def execShl (d a b : SReg) (s : State) : Host.Outcome State Fault Refusal := (opShl d a b).run (.shl d a b) s

/-- SHR: S[D] := floor(to_unsigned(a) / 2^n) (R166). -/
def opShr (d a b : SReg) : SlotOp :=
  alu2 1 d a b (fun a b => shrBy a (b.toNat % 64))
def execShr (d a b : SReg) (s : State) : Host.Outcome State Fault Refusal := (opShr d a b).run (.shr d a b) s

/-- SHA: S[D] := wrap64(floor(to_signed(a) / 2^n)) (R166). -/
def opSha (d a b : SReg) : SlotOp :=
  alu2 1 d a b (fun a b => shaBy a (b.toNat % 64))
def execSha (d a b : SReg) (s : State) : Host.Outcome State Fault Refusal := (opSha d a b).run (.sha d a b) s

/-- SHLI: as SHL with n = IMM (R167). -/
def opShli (d a : SReg) (n : Fin 64) : SlotOp :=
  alu1 1 d a (fun a => shlBy a n.val)
def execShli (d a : SReg) (n : Fin 64) (s : State) : Host.Outcome State Fault Refusal := (opShli d a n).run (.shli d a n) s

/-- SHRI: as SHR with n = IMM (R167). -/
def opShri (d a : SReg) (n : Fin 64) : SlotOp :=
  alu1 1 d a (fun a => shrBy a n.val)
def execShri (d a : SReg) (n : Fin 64) (s : State) : Host.Outcome State Fault Refusal := (opShri d a n).run (.shri d a n) s

/-- SHAI: as SHA with n = IMM (R167). -/
def opShai (d a : SReg) (n : Fin 64) : SlotOp :=
  alu1 1 d a (fun a => shaBy a n.val)
def execShai (d a : SReg) (n : Fin 64) (s : State) : Host.Outcome State Fault Refusal := (opShai d a n).run (.shai d a n) s

/-- MIN: S[D] := the lesser of a and b, signed (R166). -/
def opMin (d a b : SReg) : SlotOp :=
  alu2 1 d a b (fun a b => if a.toInt ≤ b.toInt then a else b)
def execMin (d a b : SReg) (s : State) : Host.Outcome State Fault Refusal := (opMin d a b).run (.min d a b) s

/-- MAX: S[D] := the greater of a and b, signed (R166). -/
def opMax (d a b : SReg) : SlotOp :=
  alu2 1 d a b (fun a b => if a.toInt ≤ b.toInt then b else a)
def execMax (d a b : SReg) (s : State) : Host.Outcome State Fault Refusal := (opMax d a b).run (.max d a b) s

/-- MINN: S[D] := the lesser of a and b, unsigned (R166). -/
def opMinn (d a b : SReg) : SlotOp :=
  alu2 1 d a b (fun a b => if a.toNat ≤ b.toNat then a else b)
def execMinn (d a b : SReg) (s : State) : Host.Outcome State Fault Refusal := (opMinn d a b).run (.minn d a b) s

/-- MAXN: S[D] := the greater of a and b, unsigned (R166). -/
def opMaxn (d a b : SReg) : SlotOp :=
  alu2 1 d a b (fun a b => if a.toNat ≤ b.toNat then b else a)
def execMaxn (d a b : SReg) (s : State) : Host.Outcome State Fault Refusal := (opMaxn d a b).run (.maxn d a b) s

/-- LI: S[D] := sign_extend(IMM, 42) (R168). -/
def opLi (d : SReg) (imm : BitVec 42) : SlotOp :=
  { slot := 1, writes := [.s d.val], act := fun s => s.putS 1 d (imm.signExtend 64) 1 }
def execLi (d : SReg) (imm : BitVec 42) (s : State) : Host.Outcome State Fault Refusal := (opLi d imm).run (.li d imm) s

/-- LIH: S[D] := IMM × 2^42 or S[D][41:0] (R168). -/
def opLih (d : SReg) (imm : BitVec 22) : SlotOp :=
  alu1 1 d d (fun a => BitVec.ofNat 64 (imm.toNat * 2 ^ 42 + a.toNat % 2 ^ 42))
def execLih (d : SReg) (imm : BitVec 22) (s : State) : Host.Outcome State Fault Refusal := (opLih d imm).run (.lih d imm) s

/-- CMP: P[PD] := compare(a, b, CC) (R169). -/
def opCmp (pd : PReg) (a b : SReg) (cc : ICC) : SlotOp :=
  { slot := 1, reads := [rS a, rS b], writes := [.p pd.val],
    act := fun s => s.putP 1 pd (compareInt 64 cc (s.me.rdS a).toNat (s.me.rdS b).toNat) 1 }
def execCmp (pd : PReg) (a b : SReg) (cc : ICC) (s : State) : Host.Outcome State Fault Refusal := (opCmp pd a b cc).run (.cmp pd a b cc) s

/-- CMPI: P[PD] := compare(a, sign_extend(IMM, 34), CC) (R169). -/
def opCmpi (pd : PReg) (a : SReg) (cc : ICC) (imm : BitVec 34) : SlotOp :=
  { slot := 1, reads := [rS a], writes := [.p pd.val],
    act := fun s => s.putP 1 pd (compareInt 64 cc (s.me.rdS a).toNat (imm.signExtend 64).toNat) 1 }
def execCmpi (pd : PReg) (a : SReg) (cc : ICC) (imm : BitVec 34) (s : State) : Host.Outcome State Fault Refusal := (opCmpi pd a cc imm).run (.cmpi pd a cc imm) s

/-- SEL: S[D] := a if P[p], else b (R166). -/
def opSel (d a b : SReg) (p : PReg) : SlotOp :=
  { slot := 1, reads := [rS a, rS b, rP p], writes := [.s d.val],
    act := fun s => s.putS 1 d (if s.me.rdP p then s.me.rdS a else s.me.rdS b) 1 }
def execSel (d a b : SReg) (p : PReg) (s : State) : Host.Outcome State Fault Refusal := (opSel d a b p).run (.sel d a b p) s

/-- CLZ: S[D] := the number of leading zero bits of a (R166). -/
def opClz (d a : SReg) : SlotOp :=
  alu1 1 d a (fun a => BitVec.ofNat 64 (leadingZeros 64 a.toNat))
def execClz (d a : SReg) (s : State) : Host.Outcome State Fault Refusal := (opClz d a).run (.clz d a) s

/-- POPC: S[D] := the number of one bits of a (R166). -/
def opPopc (d a : SReg) : SlotOp :=
  alu1 1 d a (fun a => BitVec.ofNat 64 (popCount 64 a.toNat))
def execPopc (d a : SReg) (s : State) : Host.Outcome State Fault Refusal := (opPopc d a).run (.popc d a) s

/-- BFX (R170). -/
def opBfx (d a : SReg) (pos len : Fin 64) : SlotOp :=
  alu1 1 d a (fun a => fieldOf a pos len)
def execBfx (d a : SReg) (pos len : Fin 64) (s : State) : Host.Outcome State Fault Refusal := (opBfx d a pos len).run (.bfx d a pos len) s

/-- BFI (R170). -/
def opBfi (d a b : SReg) (pos len : Fin 64) : SlotOp :=
  alu2 1 d a b (fun a b => fieldInto a b pos len)
def execBfi (d a b : SReg) (pos len : Fin 64) (s : State) : Host.Outcome State Fault Refusal := (opBfi d a b pos len).run (.bfi d a b pos len) s

/-- ADDR: S[D] := wrap64(a + b × 2^X) (R166). -/
def opAddr (d a b : SReg) (x : Fin 64) : SlotOp :=
  alu2 1 d a b (fun a b => a + shlBy b x.val)
def execAddr (d a b : SReg) (x : Fin 64) (s : State) : Host.Outcome State Fault Refusal := (opAddr d a b x).run (.addr d a b x) s

/-- CHKEQ: trap(0x21, 0x01) when a and b differ (R171). -/
def opChkeq (a b : SReg) : SlotOp :=
  { slot := 1, reads := [rS a, rS b], act := id,
    check := fun s =>
      if s.me.rdS a = s.me.rdS b then none
      else some { cause := 0x21, sub := 1, info0 := s.me.rdS a, info1 := s.me.rdS b } }
def execChkeq (a b : SReg) (s : State) : Host.Outcome State Fault Refusal := (opChkeq a b).run (.chkeq a b) s

/-- SFADD (R172). -/
def opSfadd (d a b : SReg) (rm : RM) : SlotOp :=
  alu2 4 d a b (fun a b => ofFp (roundFp32 rm ((fpOf a).add rm (fpOf b))))
def execSfadd (d a b : SReg) (rm : RM) (s : State) : Host.Outcome State Fault Refusal := (opSfadd d a b rm).run (.sfadd d a b rm) s

/-- SFMUL (R172). -/
def opSfmul (d a b : SReg) (rm : RM) : SlotOp :=
  alu2 4 d a b (fun a b => ofFp (roundFp32 rm ((fpOf a).mul (fpOf b))))
def execSfmul (d a b : SReg) (rm : RM) (s : State) : Host.Outcome State Fault Refusal := (opSfmul d a b rm).run (.sfmul d a b rm) s

/-- SFFMA: the product and the sum are exact before the one rounding (R172). -/
def opSffma (d a b c : SReg) (rm : RM) : SlotOp :=
  { slot := 1, reads := [rS a, rS b, rS c], writes := [.s d.val], lat := 4,
    act := fun s =>
      let m := s.me
      s.putS 1 d (ofFp (roundFp32 rm (((fpOf (m.rdS a)).mul (fpOf (m.rdS b))).add rm (fpOf (m.rdS c))))) 4 }
def execSffma (d a b c : SReg) (rm : RM) (s : State) : Host.Outcome State Fault Refusal := (opSffma d a b c rm).run (.sffma d a b c rm) s

/-- SFCMP (R173). -/
def opSfcmp (pd : PReg) (a b : SReg) (cc : FCC) : SlotOp :=
  { slot := 1, reads := [rS a, rS b], writes := [.p pd.val], lat := 4,
    act := fun s => s.putP 1 pd (compareFp cc (fpOf (s.me.rdS a)) (fpOf (s.me.rdS b))) 4 }
def execSfcmp (pd : PReg) (a b : SReg) (cc : FCC) (s : State) : Host.Outcome State Fault Refusal := (opSfcmp pd a b cc).run (.sfcmp pd a b cc) s

/-- The source code of SCVT: the low bits of S[A], as wide as SF (R174). -/
def cvtCode (sf : Fmt) (a : Word) : Nat := a.toNat % 2 ^ Fmt.width sf

/-- y extended to 32 bits: I8 and I16 by sign (R174). -/
def cvtExtend (df : Fmt) (y : Nat) : W32 :=
  match df with
  | .i8 => BitVec.ofInt 32 (toSigned 8 y)
  | .i16 => BitVec.ofInt 32 (toSigned 16 y)
  | _ => BitVec.ofNat 32 y

/-- SCVT (R174, R376): a reserved ternary source sets STICKY.RSVD when the instruction commits (R59). -/
def opScvt (d a : SReg) (sf df : Fmt) (rm : RM) (ov : OV) : SlotOp :=
  { slot := 1, reads := [rS a], writes := [.s d.val], lat := 4,
    check := fun s =>
      match convert sf df (cvtCode sf (s.me.rdS a)) rm ov with
      | .ok _ => none
      | .error sub => some { cause := 0x20, sub := sub, info1 := BitVec.ofNat 64 (cvtCode sf (s.me.rdS a)) }
    act := fun s =>
      let x := cvtCode sf (s.me.rdS a)
      let s2 := s.putS 1 d (ofFp (cvtExtend df (convertD sf df x rm ov))) 4
      if reservedCode sf x then s2.updMe (·.later 4 1 (.sticky stickyRsvd)) else s2 }
def execScvt (d a : SReg) (sf df : Fmt) (rm : RM) (ov : OV) (s : State) : Host.Outcome State Fault Refusal := (opScvt d a sf df rm ov).run (.scvt d a sf df rm ov) s

end Sys2Proof.Machine
end

