-- ==== Sys2Proof/Machine/Memory.lean ====
section
/-! DEFINITION. L slot: scalar and vector loads and stores, windows, tile handoffs, streams, copy commands, atomics and remote operations
(R78-R85, R91-R94, R200-R202, R213-R230, R394-R398). -/

namespace Sys2Proof.Machine

/-! ## Address checks -/

/-- Address bits [63:57] (R394 sub-cause 0x01). -/
def vaFault (a : Nat) : Option Trap :=
  if a < 2 ^ 57 then none else some { cause := 0x30, sub := 1, info1 := BitVec.ofNat 64 a, addr := BitVec.ofNat 64 a }

/-- The task index and the local address that a cluster address names (R78). -/
def clusterPlace (k a : Nat) : Nat × Nat := (clusterOf k * 32 + a / 2 ^ 21, a % 2 ^ 21)

/-- A core that has a task in the running node. -/
def State.hasTask (s : State) (k : Nat) : Bool := ((s.node.map fun n => (n.image.entries.getD k none).isSome)).getD false

/-- The unpopulated-address fault of n bytes in the cluster space (R78, R394). -/
def State.clusterFault (s : State) (k a n : Nat) : Option Trap :=
  if a < 2 ^ 26 && (clusterPlace k a).2 + n ≤ scratchTop && s.hasTask (clusterPlace k a).1 then none
  else some { cause := 0x30, sub := 7, info0 := 1, info1 := BitVec.ofNat 64 a, addr := BitVec.ofNat 64 a }

/-- The core makes no more bundles. -/
def Core.over (c : Core) : Bool := c.phase == .ended || c.phase == .stopped

/-- A cluster scratchpad access issues (R30); `first` is the address of its first element. -/
def State.clusterAccess (s : State) (a first : Nat) (op : ClOp) : State :=
  let c := s.me
  let lc := c.lc.toNat
  let target := (clusterPlace s.cur a).1
  { s with
    clAccs := s.clAccs ++ [{ id := s.nextId, core := s.cur, target := target, addr := a, perform := lc + 7, vis := lc + 14, slotIx := 4, pc := c.pc,
                             op := op, first := first, ended := (s.core target).over }]
    nextId := s.nextId + 1 }

/-- A cluster store at the present bundle comes too late: the target has already read bytes of it at a later place in the order of R80 (R27, R30). Spans
are given by their cluster addresses. -/
def State.tooLate (s : State) (l : List (Nat × Nat)) : Bool :=
  l.any fun x =>
    let p := clusterPlace s.cur x.1
    let c := s.core p.1
    !c.over && c.sawAfter (s.me.lc.toNat + 7) (s.cur + 1) [(p.2, x.2)]

/-- A cluster vector read that pushes a group into a stream holds its place among the groups of its commit cycle (R179): one whose mask has no
active lane pushes zero lanes. -/
def State.clusterVector (s : State) (vd : VReg) (go : State → State) : State :=
  let t := go s
  match t.me.streamOf vd with
  | some _ => t.updMe (·.laterPush 14 4 (Fin.ofNat 8 vd.val) 0 0 ((List.range (t.nextId - s.nextId)).map (s.nextId + ·)))
  | none => t

/-! ## Scalar loads and stores (R213) -/

/-- The effective address of an operand with a 20-bit offset. -/
def lsAddr (s : State) (bs : SReg) (off : BitVec 20) : Nat := effAddr (s.me.rdS bs) 20 off

/-- A device-memory access takes a place in flight (R202). -/
def takesPlace (sp : Space) (_ : State) : Bool := sp == .device

/-- The checks of a scalar access by its space. -/
def lsCheck (s : State) (a n : Nat) (sp : Space) (isRead tc : Bool) (tagx : Fin 16) : Option Trap :=
  alignFault a n <|>
    match sp with
    | .localS =>
      scratchFault a n 0 <|> s.me.tileCheck (tilesTouched a n) isRead tc (BitVec.ofNat 4 tagx.val)
        <|> (if isRead then s.scratchMachineCheck s.cur a n else none)
    | .cluster => s.clusterFault s.cur a n
    | .device => vaFault a

def lsTiles (sp : Space) (a n : Nat) : List Nat := if sp = .localS then tilesTouched a n else []

/-- LD. -/
def opLd (d bs : SReg) (off : BitVec 20) (sz : Size) (sg : Bool) (sp : Space) (tc : Bool) (tagx : Fin 16) (ord : Ord) (sco : Scope) : SlotOp :=
  let n := Size.bytes sz
  { slot := 4, reads := [rS bs], writes := [.s d.val], lat := if sp = .localS then 4 else 14, tiles := fun s => lsTiles sp (lsAddr s bs off) n,
    forms := fun s => [lsAddr s bs off], looks := fun s => if sp = .localS then [(lsAddr s bs off, n)] else [],
    place := takesPlace sp, check := fun s => lsCheck s (lsAddr s bs off) n sp true tc tagx,
    act := fun s =>
      let a := lsAddr s bs off
      match sp with
      | .localS => (s.updMe fun c => c.verifyTiles (tilesTouched a n) tc).putS 4 d (loadExtend sz sg (s.me.readNat a n)) 4
      | .cluster => s.clusterAccess a a (.ld d sz sg)
      | .device => s.access s.cur (.ld d sz sg) (BitVec.ofNat 64 a) [{ va := a, n := n }] true false ord sco }
def execLd (d bs : SReg) (off : BitVec 20) (sz : Size) (sg : Bool) (sp : Space) (tc : Bool) (tagx : Fin 16) (ord : Ord) (sco : Scope) (s : State) : Host.Outcome State Fault Refusal := (opLd d bs off sz sg sp tc tagx ord sco).run (.ld d bs off sz sg sp tc tagx ord sco) s

/-- A store of n bytes to the scratchpad at a place in the order of R80. -/
def Core.storeAt (c : Core) (cycle rank a n v : Nat) : Core := (c.clearBadScratch a n).writeAt cycle rank a (leBytes n v)

/-- An engine's write to a tile that has been handed to it. -/
def Core.storeLent (c : Core) (t a n v : Nat) : Core := c.storeAt (c.tile t).giveLc 0 a n v

/-- The core's own store at its present logical cycle. -/
def Core.store (c : Core) (a n v : Nat) : Core := c.storeAt c.lc.toNat 0 a n v

/-- ST. -/
def opSt (d bs : SReg) (off : BitVec 20) (sz : Size) (sp : Space) (tc : Bool) (tagx : Fin 16) (ord : Ord) (sco : Scope) : SlotOp :=
  let n := Size.bytes sz
  { slot := 4, reads := [rS bs, rS d], tiles := fun s => lsTiles sp (lsAddr s bs off) n, forms := fun s => [lsAddr s bs off],
    place := takesPlace sp, check := fun s => lsCheck s (lsAddr s bs off) n sp false tc tagx,
    stuck := fun s => sp == .cluster && s.tooLate [(lsAddr s bs off, n)],
    act := fun s =>
      let a := lsAddr s bs off
      let v := (s.me.rdS d).toNat % 2 ^ (8 * n)
      match sp with
      | .localS => s.updMe fun c => (c.verifyTiles (tilesTouched a n) tc).store a n v
      | .cluster => s.clusterAccess a a (.st n v)
      | .device => s.access s.cur .st (BitVec.ofNat 64 a) [{ va := a, n := n, data := v }] false true ord sco }
def execSt (d bs : SReg) (off : BitVec 20) (sz : Size) (sp : Space) (tc : Bool) (tagx : Fin 16) (ord : Ord) (sco : Scope) (s : State) : Host.Outcome State Fault Refusal := (opSt d bs off sz sp tc tagx ord sco).run (.st d bs off sz sp tc tagx ord sco) s

/-! ## Vector loads and stores (R214-R216) -/

/-- The alignment faults of the lanes (R397 sub-causes 0x01 and 0x03). -/
def laneFault (f : Fmt) (l : List (Nat × Nat)) (strided : Bool) : Option Trap :=
  if ternary f && strided then
    l.head?.map fun p => { cause := 0x33, sub := 3, info0 := BitVec.ofNat 64 (fmtCode f), info1 := BitVec.ofNat 64 p.1, addr := BitVec.ofNat 64 p.2 }
  else l.findSome? fun p => alignFault p.2 (elemBytes f) p.1

/-- A store of lanes into a ternary format (R214, R376). -/
def ternaryStore (f : Fmt) (l : List (Nat × Nat)) : Option Trap :=
  if ternary f then
    l.head?.map fun p => { cause := 0x20, sub := 3, info0 := BitVec.ofNat 64 p.1, info1 := BitVec.ofNat 64 (fmtCode f), addr := BitVec.ofNat 64 p.2 }
  else none

/-- The checks of a vector access to the local scratchpad. -/
def State.vecLocal (s : State) (f : Fmt) (l : List (Nat × Nat)) (isRead tc : Bool) (tagx : Fin 16) : Option Trap :=
  (l.findSome? fun p => scratchFault p.2 (elemBytes f) 0)
    <|> (if isRead then none else ternaryStore f l)
    <|> s.me.tileCheck (tilesOf f l) isRead tc (BitVec.ofNat 4 tagx.val)
    <|> (if isRead then l.findSome? fun p => s.scratchMachineCheck s.cur p.2 (elemBytes f) else none)

/-- The format and attributes that a device access takes from its first element (R214); RAW32 where translation gives none yet. -/
def State.firstXlat (s : State) (k a : Nat) : Xlat :=
  match s.translate (clusterOf k) (s.slotOfCore k) a 1 with
  | .ok x => x
  | _ => { key := 0 }

/-- A store of lanes into a scaled range (R215, R376): of the first lane that lies in one. -/
def State.scaledStore (s : State) (l : List (Nat × Nat)) : Option Trap :=
  l.findSome? fun p =>
    let x := s.firstXlat s.cur p.2
    if x.blk = 0 then none
    else some { cause := 0x20, sub := 4, info0 := BitVec.ofNat 64 (bits x.word 4 3), info1 := BitVec.ofNat 64 (x.range.getD 0x3FF), addr := BitVec.ofNat 64 p.2 }

/-- The checks of a vector access to device memory. -/
def State.vecDevice (s : State) (f : Fmt) (l : List (Nat × Nat)) (isRead : Bool) : Option Trap :=
  (l.findSome? fun p => vaFault p.2) <|> (if isRead then none else ternaryStore f l <|> s.scaledStore l)

/-- The FMT of the tile that holds an address of the cluster space, at the performing cycle of an access issued now where the target has passed it (R214),
and otherwise as it stands: the checks that R394 and R397 make precise need it before the target has come there (log entry 25). Where no tile holds the
address, RAW32 (log entry 93). -/
def State.clusterFmt (s : State) (a : Nat) : Fmt :=
  let p := clusterPlace s.cur a
  let c := s.core p.1
  let u := s.me.lc.toNat + 7
  if (s.clusterFault s.cur a 1).isSome then .raw32 else (if decide (u < c.lc.toNat) && !c.over then c.asOf u (s.cur + 1) else c).fmtAt p.2

/-- The checks at issue of a vector access to the cluster space. -/
def State.vecCluster (s : State) (f : Fmt) (l : List (Nat × Nat)) (strided isRead : Bool) : Option Trap :=
  laneFault f l strided <|> (l.findSome? fun p => s.clusterFault s.cur p.2 (elemBytes f)) <|> (if isRead then none else ternaryStore f l)

/-- The effective address of a vector operand. -/
def lvAddr (s : State) (bs : SReg) (off : BitVec 18) : Nat := effAddr (s.me.rdS bs) 18 off

/-- The format of a vector access, and its lanes. Where the first element, of an inactive lane, lies at no populated address, no tile gives a format, and
the model takes RAW32 (log entry 93). -/
def lvLanes (s : State) (bs : SReg) (off : BitVec 18) (str : Fin 64) (m : MReg) (sp : Space) : Fmt × List (Nat × Nat) :=
  let a := lvAddr s bs off
  let f := match sp with
    | .localS => s.me.fmtAt a
    | .cluster => s.clusterFmt a
    | .device => fmtOfCode (s.firstXlat s.cur a).fmt
  (f, laneAddrs f a (str.val + 1) (s.me.rdM m))

/-- The checks of VLD and VST. -/
def lvCheck (s : State) (bs : SReg) (off : BitVec 18) (str : Fin 64) (m : MReg) (sp : Space) (isRead tc : Bool) (tagx : Fin 16) : Option Trap :=
  let a := lvAddr s bs off
  let fl := lvLanes s bs off str m sp
  if s.me.rdM m = 0 then none
  else
    match sp with
    | .localS => laneFault fl.1 fl.2 (str.val ≠ 0) <|> s.vecLocal fl.1 fl.2 isRead tc tagx
    | .cluster =>
      (if (s.me.rdM m).getLsbD 0 then s.clusterFault s.cur a 1 else none) <|> s.vecCluster fl.1 fl.2 (str.val ≠ 0) isRead
    | .device => laneFault fl.1 fl.2 (str.val ≠ 0) <|> s.vecDevice fl.1 fl.2 isRead

/-- A local vector read delivers its lanes 4 lc later, and RSVD with them. -/
def State.loadLanes (s : State) (vd : VReg) (mask : BitVec 64) (f : Fmt) (l : List (Nat × Nat)) (tc : Bool) : State :=
  let g := s.me.gather f l
  let s := (s.updMe fun c => c.verifyTiles (tilesOf f l) tc).putV 4 vd mask g.1 4
  if g.2 then s.updMe (·.later 4 4 (.sticky stickyRsvd)) else s

/-- The elements of a device load and of a device store. -/
def loadElems (f : Fmt) (l : List (Nat × Nat)) : List Elem := l.map fun p => { va := p.2, n := elemBytes f, lane := p.1 }
def storeElems (f : Fmt) (l : List (Nat × Nat)) (v : BitVec 2048) : List Elem :=
  l.map fun p => { va := p.2, n := elemBytes f, lane := p.1, data := (storeLane f (lane v p.1)).getD 0 }

/-- A device load into a register bound as an output stream counts as a push from its issue (R179). -/
def Core.announce (c : Core) (vd : VReg) : Core :=
  match c.streamOf vd with
  | some st => c.setStream (Fin.ofNat 8 vd.val) (some { st with done := st.done + 1 })
  | none => c

/-- A vector load from device memory; with no active lane and no stream there is no access. -/
def State.loadDevice (s : State) (vd : VReg) (mask : BitVec 64) (f : Fmt) (a : Nat) (l : List (Nat × Nat)) (span : Bool) : State :=
  if l.isEmpty && (s.me.streamOf vd).isNone then s
  else (s.updMe (·.announce vd)).access s.cur (.vld vd mask f) (BitVec.ofNat 64 a) (loadElems f l) true false .plain .task 0 span

/-- The lanes of a vector access as runs of bytes. -/
def laneSpans (fl : Fmt × List (Nat × Nat)) : List (Nat × Nat) := fl.2.map fun p => (p.2, elemBytes fl.1)

/-- The addresses that a VLD or VST forms: S[BS] + OFF and its lanes' (R366). -/
def lvForms (s : State) (bs : SReg) (off : BitVec 18) (str : Fin 64) (m : MReg) (sp : Space) : List Nat :=
  lvAddr s bs off :: (lvLanes s bs off str m sp).2.map (·.2)

/-- VLD. -/
def opVld (vd : VReg) (bs : SReg) (off : BitVec 18) (str : Fin 64) (m : MReg) (sp : Space) (tc : Bool) (tagx : Fin 16) : SlotOp :=
  { slot := 4, reads := [rS bs, rM m], writes := [.v vd.val], lat := if sp = .localS then 4 else 14,
    tiles := fun s => if sp = .localS then let fl := lvLanes s bs off str m sp; tilesOf fl.1 fl.2 else [],
    place := takesPlace sp, forms := fun s => lvForms s bs off str m sp, check := fun s => lvCheck s bs off str m sp true tc tagx,
    looks := fun s => if sp = .localS then laneSpans (lvLanes s bs off str m sp) else [],
    act := fun s =>
      let a := lvAddr s bs off
      let fl := lvLanes s bs off str m sp
      match sp with
      | .localS => s.loadLanes vd (s.me.rdM m) fl.1 fl.2 tc
      | .cluster => s.clusterVector vd fun s => if s.me.rdM m = 0 then s else s.clusterAccess a a (.vld vd (s.me.rdM m) (str.val + 1))
      | .device => s.loadDevice vd (s.me.rdM m) fl.1 a fl.2 true }
def execVld (vd : VReg) (bs : SReg) (off : BitVec 18) (str : Fin 64) (m : MReg) (sp : Space) (tc : Bool) (tagx : Fin 16) (s : State) : Host.Outcome State Fault Refusal := (opVld vd bs off str m sp tc tagx).run (.vld vd bs off str m sp tc tagx) s

/-- VST. -/
def opVst (vd : VReg) (bs : SReg) (off : BitVec 18) (str : Fin 64) (m : MReg) (sp : Space) (tc : Bool) (tagx : Fin 16) : SlotOp :=
  { slot := 4, reads := [rS bs, rV vd, rM m],
    tiles := fun s => if sp = .localS then let fl := lvLanes s bs off str m sp; tilesOf fl.1 fl.2 else [],
    place := takesPlace sp, forms := fun s => lvForms s bs off str m sp, storesLanes := fun s => activeLanes (s.me.rdM m),
    check := fun s => lvCheck s bs off str m sp false tc tagx, stuck := fun s => sp == .cluster && s.tooLate (laneSpans (lvLanes s bs off str m sp)),
    act := fun s =>
      let a := lvAddr s bs off
      let fl := lvLanes s bs off str m sp
      let v := s.me.rdV vd
      if s.me.rdM m = 0 then s
      else
        match sp with
        | .localS => s.updMe fun c => (c.verifyTiles (tilesOf fl.1 fl.2) tc).scatter fl.1 fl.2 v
        | .cluster => s.clusterAccess a a (.vst (s.me.rdM m) v (str.val + 1))
        | .device => s.access s.cur .st (BitVec.ofNat 64 a) (storeElems fl.1 fl.2 v) false true .plain .task 0 true }
def execVst (vd : VReg) (bs : SReg) (off : BitVec 18) (str : Fin 64) (m : MReg) (sp : Space) (tc : Bool) (tagx : Fin 16) (s : State) : Host.Outcome State Fault Refusal := (opVst vd bs off str m sp tc tagx).run (.vst vd bs off str m sp tc tagx) s

/-- Lane addresses of VLDG and VSTS, as the bundle at issue finds them. -/
def lxAddrs (s : State) (vi : VReg) (bs : SReg) (m : MReg) (sc : Fin 4) : List (Nat × Nat) :=
  indexAddrs (s.me.rdS bs) (s.me.peekV vi) sc (s.me.rdM m)

/-- The same once the bundle has popped the group of a bound index register. -/
def lxPopped (s : State) (vi : VReg) (bs : SReg) (m : MReg) (sc : Fin 4) : List (Nat × Nat) :=
  indexAddrs (s.me.rdS bs) (s.me.rdV vi) sc (s.me.rdM m)

/-- The format of an indexed access: that of its first element, the lowest active lane's (R214). -/
def lxFmt (s : State) (l : List (Nat × Nat)) (sp : Space) : Fmt :=
  match l.head?, sp with
  | some p, .localS => s.me.fmtAt p.2
  | some p, .device => fmtOfCode (s.firstXlat s.cur p.2).fmt
  | some p, .cluster => s.clusterFmt p.2
  | none, _ => .raw32

def lxCheck (s : State) (vi : VReg) (bs : SReg) (m : MReg) (sp : Space) (sc : Fin 4) (isRead : Bool) : Option Trap :=
  let l := lxAddrs s vi bs m sc
  let f := lxFmt s l sp
  match sp with
  | .localS => laneFault f l true <|> s.vecLocal f l isRead false 0
  | .cluster => s.vecCluster f l true isRead
  | .device => laneFault f l true <|> s.vecDevice f l isRead

/-- The cores that the lanes of an indexed cluster access name, ascending. -/
def laneTargets (k : Nat) (l : List (Nat × Nat)) : List Nat := l.foldl (fun acc p => addSorted (clusterPlace k p.2).1 acc) []

/-- An indexed access in the cluster space: one access for each core that its lanes name. -/
def State.clusterLanes (s : State) (l : List (Nat × Nat)) (op : BitVec 64 → List Nat → ClOp) : State :=
  (laneTargets s.cur l).foldl (fun s t =>
    let mine := l.filter fun p => (clusterPlace s.cur p.2).1 == t
    let mask := maskOf (fun i => mine.any fun p => p.1 == i) 64
    s.clusterAccess ((mine.head?.map (·.2)).getD 0) ((l.head?.map (·.2)).getD 0) (op mask (mine.map (·.2)))) s

/-- VLDG. -/
def opVldg (vd vi : VReg) (bs : SReg) (m : MReg) (sp : Space) (sc : Fin 4) : SlotOp :=
  { slot := 4, reads := [rS bs, rV vi, rM m], writes := [.v vd.val], lat := if sp = .localS then 4 else 14,
    tiles := fun s => if sp = .localS then let l := lxAddrs s vi bs m sc; tilesOf (lxFmt s l sp) l else [],
    place := takesPlace sp, forms := fun s => (lxAddrs s vi bs m sc).map (·.2), check := fun s => lxCheck s vi bs m sp sc true,
    looks := fun s => if sp = .localS then let l := lxAddrs s vi bs m sc; laneSpans (lxFmt s l sp, l) else [],
    act := fun s =>
      let l := lxPopped s vi bs m sc
      let f := lxFmt s l sp
      match sp with
      | .localS => s.loadLanes vd (s.me.rdM m) f l false
      | .cluster => s.clusterVector vd fun s => s.clusterLanes l fun mask as => .vldg vd mask as
      | .device => s.loadDevice vd (s.me.rdM m) f ((l.head?.map (·.2)).getD 0) l false }
def execVldg (vd vi : VReg) (bs : SReg) (m : MReg) (sp : Space) (sc : Fin 4) (s : State) : Host.Outcome State Fault Refusal := (opVldg vd vi bs m sp sc).run (.vldg vd vi bs m sp sc) s

/-- VSTS. -/
def opVsts (vd vi : VReg) (bs : SReg) (m : MReg) (sp : Space) (sc : Fin 4) : SlotOp :=
  { slot := 4, reads := [rS bs, rV vi, rV vd, rM m],
    tiles := fun s => if sp = .localS then let l := lxAddrs s vi bs m sc; tilesOf (lxFmt s l sp) l else [],
    place := takesPlace sp, forms := fun s => (lxAddrs s vi bs m sc).map (·.2), storesLanes := fun s => activeLanes (s.me.rdM m),
    check := fun s => lxCheck s vi bs m sp sc false,
    stuck := fun s => sp == .cluster && (let l := lxAddrs s vi bs m sc; s.tooLate (laneSpans (lxFmt s l sp, l))),
    act := fun s =>
      let l := lxPopped s vi bs m sc
      let f := lxFmt s l sp
      let v := s.me.rdV vd
      if l.isEmpty then s
      else
        match sp with
        | .localS => s.updMe fun c => c.scatter f l v
        | .cluster => s.clusterLanes l fun mask as => .vsts mask v as
        | .device => s.access s.cur .st (BitVec.ofNat 64 ((l.head?.map (·.2)).getD 0)) (storeElems f l v) false true }
def execVsts (vd vi : VReg) (bs : SReg) (m : MReg) (sp : Space) (sc : Fin 4) (s : State) : Host.Outcome State Fault Refusal := (opVsts vd vi bs m sp sc).run (.vsts vd vi bs m sp sc) s

/-! ## Parameter windows (R94, R217, R398) -/

/-- The window that the image binds. -/
def State.boundWindow (s : State) (w : WReg) : Option BoundWindow := ((s.imageOf s.cur).bind fun im => im.windows.getD w.val none)

/-- The number of the n bytes at an offset that lie below the window's size. -/
def BoundWindow.below (b : BoundWindow) (off n : Nat) : Nat := min n (b.size - off)

/-- The bytes below the size all lie in the window cache. R94 gives the fixed latency to reads wholly within the 4 KiB; one that crosses the window's size, or
the 4 KiB beyond that size, takes it too in the model, as it makes no device access (R398, log entry 75). -/
def BoundWindow.cached (b : BoundWindow) (off n : Nat) : Bool := b.below off n == 0 || decide (off + b.below off n ≤ 4096)

/-- The bytes of a read that the cache serves, zero beyond the size. -/
def BoundWindow.read (b : BoundWindow) (off n : Nat) : Nat := leNat ((b.cache.drop off).take (b.below off n))

/-- The report of a window read beyond the cached bytes whose handle has been revoked since LAUNCH (R96): the access is not made. The spec names no
cause for it; the model reports that of a stream bound through such a handle (R394 sub-cause 0x0A, log entry 75). -/
def State.windowStale (s : State) (b : BoundWindow) (off : Nat) : Option Trap :=
  let r := s.handleRange (clusterOf s.cur) (s.slotOfCore s.cur) b.handle
  if r.stale b.handle then
    some { cause := 0x30, sub := 0xA, slot := 4, info0 := b.handle.setWidth 64, info1 := BitVec.ofNat 64 r.gen,
           addr := BitVec.ofNat 64 ((r.base + b.off.toNat + off) % 2 ^ 64), opc := s.me.pc }
  else none

/-- The virtual address of a window's byte. -/
def State.windowVa (s : State) (b : BoundWindow) (off : Nat) : Nat :=
  ((s.handleRange (clusterOf s.cur) (s.slotOfCore s.cur) b.handle).base + b.off.toNat + off) % 2 ^ 64

/-- The unbound window (R398). -/
def windowTrap (s : State) (w : WReg) (off : BitVec 32) : Option Trap :=
  match s.boundWindow w with
  | some _ => none
  | none => some { cause := 0x32, sub := 1, info0 := BitVec.ofNat 64 w.val, addr := BitVec.ofNat 64 off.toNat }

/-- The address that a window access forms. -/
def windowForms (s : State) (w : WReg) (off : BitVec 32) : List Nat := (s.boundWindow w).toList.map fun b => s.windowVa b off.toNat

/-- A read that goes to device memory takes a place. -/
def windowPlace (s : State) (w : WReg) (off : BitVec 32) (n : Nat) : Bool :=
  match s.boundWindow w with
  | some b => !b.cached off.toNat n
  | none => false

/-- LDW. -/
def opLdw (d : SReg) (w : WReg) (off : BitVec 32) (sz : Size) (sg : Bool) : SlotOp :=
  let n := Size.bytes sz
  { slot := 4, writes := [.s d.val], lat := 4, place := fun s => windowPlace s w off n, forms := fun s => windowForms s w off,
    check := fun s => alignFault off.toNat n <|> windowTrap s w off,
    act := fun s =>
      match s.boundWindow w with
      | none => s
      | some b =>
        let oob := decide (b.below off.toNat n < n)
        if b.cached off.toNat n then
          let s := s.putS 4 d (loadExtend sz sg (b.read off.toNat n)) 4
          if oob then s.updMe (·.later 4 4 (.sticky stickyWoob)) else s
        else if let some t := s.windowStale b off.toNat then s.defer s.cur s.me.lc.toNat s.me.lc.toNat t
        else
          let a := s.windowVa b off.toNat
          s.access s.cur (.ldw d sz sg oob) (BitVec.ofNat 64 a) [{ va := a, n := b.below off.toNat n }] false false .plain .task 0 true }
def execLdw (d : SReg) (w : WReg) (off : BitVec 32) (sz : Size) (sg : Bool) (s : State) : Host.Outcome State Fault Refusal := (opLdw d w off sz sg).run (.ldw d w off sz sg) s

/-- The word of lane i of a window read from the cache. -/
def BoundWindow.words (b : BoundWindow) (off : Nat) : BitVec 2048 := BitVec.ofNat 2048 (b.read off 256)

/-- VLDW. -/
def opVldw (vd : VReg) (w : WReg) (off : BitVec 32) : SlotOp :=
  { slot := 4, writes := [.v vd.val], lat := 4, place := fun s => windowPlace s w off 256, forms := fun s => windowForms s w off,
    check := fun s => alignFault2 off.toNat 4 <|> windowTrap s w off,
    act := fun s =>
      match s.boundWindow w with
      | none => s
      | some b =>
        let oob := decide (b.below off.toNat 256 < 256)
        if b.cached off.toNat 256 then
          let s := s.putV 4 vd (BitVec.allOnes 64) (b.words off.toNat) 4
          if oob then s.updMe (·.later 4 4 (.sticky stickyWoob)) else s
        else if let some t := s.windowStale b off.toNat then s.defer s.cur s.me.lc.toNat s.me.lc.toNat t
        else
          let a := s.windowVa b off.toNat
          let n := b.below off.toNat 256
          let todo := (List.range (ceilDiv n 4)).map fun i => { va := (a + 4 * i) % 2 ^ 64, n := min 4 (n - 4 * i), lane := i : Elem }
          (s.updMe (·.announce vd)).access s.cur (.vldw vd oob) (BitVec.ofNat 64 a) todo false false .plain .task 0 true }
def execVldw (vd : VReg) (w : WReg) (off : BitVec 32) (s : State) : Host.Outcome State Fault Refusal := (opVldw vd w off).run (.vldw vd w off) s

/-! ## Tile handoffs and tile state (R83, R218, R219) -/

/-- A tile is handed to the engines; `pc` names the handoff for R363. -/
def Core.handOff (c : Core) (t : Nat) (dir : Bool) (count : Nat) (pc : Word) : Core :=
  c.setTile t { c.tile t with engine := true, dir := dir, expect := count, arrived := 0, offered := 0, overrun := false, givePc := pc, giveLc := c.lc.toNat }

/-- GIVE. -/
def opGive (tile : TileIx) (out : Bool) (cnt : Fin 128) : SlotOp :=
  { slot := 4, tiles := fun _ => [tile.val], hands := some (tile.val, 1), looks := fun _ => if out then [(4096 * tile.val, 4096)] else [],
    act := fun s => s.updMe fun c => c.handOff tile.val out cnt.val c.pc }
def execGive (tile : TileIx) (out : Bool) (cnt : Fin 128) (s : State) : Host.Outcome State Fault Refusal := (opGive tile out cnt).run (.give tile out cnt) s

/-- TAGRD. -/
def opTagrd (d : SReg) (tile : TileIx) : SlotOp :=
  { slot := 4, writes := [.s d.val], tiles := fun _ => [tile.val], act := fun s => s.putS 4 d (s.me.tile tile.val).word 1 }
def execTagrd (d : SReg) (tile : TileIx) (s : State) : Host.Outcome State Fault Refusal := (opTagrd d tile).run (.tagrd d tile) s

/-- TFMT. -/
def opTfmt (tile : TileIx) (fmt : Fmt) : SlotOp :=
  { slot := 4, tiles := fun _ => [tile.val],
    act := fun s => s.updMe fun c => c.setTile tile.val { c.tile tile.val with fmt := fmtCode fmt } }
def execTfmt (tile : TileIx) (fmt : Fmt) (s : State) : Host.Outcome State Fault Refusal := (opTfmt tile fmt).run (.tfmt tile fmt) s

/-! ## Streams (R91-R93, R220) -/

/-- The first word of a stream pattern that breaks the layout of R220. -/
def patternBad (w : List Nat) : Option Nat :=
  let g (i : Nat) : Nat := w.getD i 0
  let tgt := bit (g 0) 1
  if bits (g 0) 8 56 ≠ 0 || bit (g 0) 3 || (bit (g 0) 2 && tgt) then some 0
  else if bits (g 1) 32 32 ≠ 0 || (!tgt && g 1 ≠ 0) then some 1
  else if !tgt && scratchTop ≤ g 2 then some 2
  else if bits (g 3) 48 16 ≠ 0 || bits (g 3) 0 16 = 0 || bits (g 3) 16 16 = 0 || bits (g 3) 32 16 = 0 then some 3
  else if g 7 ≠ 0 then some 7
  else none

/-- The eight words of the pattern at a local address. -/
def Core.pattern (c : Core) (a : Nat) : List Nat := unpackNat 64 8 (c.readNat a 64)

/-- The stream that a pattern binds; `base` is the address of byte 0 of a device range. -/
def patternStream (w : List Nat) (base fmt blk : Nat) (pc : Word) : Stream :=
  let g (i : Nat) : Nat := w.getD i 0
  { output := bit (g 0) 0, device := bit (g 0) 1, tc := bit (g 0) 2, tagx := BitVec.ofNat 4 (bits (g 0) 4 4), handle := BitVec.ofNat 32 (g 1),
    start := BitVec.ofNat 64 (base + g 2), counts := [bits (g 3) 0 16, bits (g 3) 16 16, bits (g 3) 32 16],
    strides := [toSigned 64 (g 4), toSigned 64 (g 5), toSigned 64 (g 6)], fmt := fmt, blk := blk, pc := pc }

/-- A pattern is bound: a stale handle is reported and binds nothing (R394 sub-cause 0x0A). The loads of an input stream stand behind those that the core
has issued; that they would stand behind every group still to come of another stream, which a bundle must pop first, is left out, so that two input
streams can be read side by side (log entry 95). -/
def State.bind (s : State) (k : Nat) (f : Fin 8) (w : List Nat) : State :=
  let c := s.core k
  if bit (w.getD 0 0) 1 then
    let h := BitVec.ofNat 32 (w.getD 1 0)
    let r := s.handleRange (clusterOf k) (s.slotOfCore k) h
    if r.stale h then
      s.defer k c.lc.toNat c.lc.toNat
        { cause := 0x30, sub := 0xA, info0 := BitVec.ofNat 64 h.toNat, info1 := BitVec.ofNat 64 r.gen, addr := BitVec.ofNat 64 (r.base + w.getD 2 0), opc := c.pc }
    else
      let st := patternStream w r.base r.fmt (if r.fmt = 0 then 0 else r.blkCode) c.pc
      let st := { st with order := s.nextId, lc := c.lc.toNat, deps := if st.output then s.queueDeps k [] false true else s.queuedLoads k ++ s.openDeps c.ordLoads }
      State.refill k f 2 { s.setCore k (c.setStream f (some st)) with nextId := s.nextId + 1 }
  else s.setCore k (c.setStream f (some (patternStream w 0 0 0 c.pc)))

/-- SBIND. -/
def opSbind (f : Fin 8) (a : SReg) : SlotOp :=
  { slot := 4, reads := [rS a], tiles := fun s => tilesTouched (s.me.rdS a).toNat 64, forms := fun s => [(s.me.rdS a).toNat],
    looks := fun s => [((s.me.rdS a).toNat, 64)],
    check := fun s =>
      let c := s.me
      let x := (c.rdS a).toNat
      (if c.streams[f].isSome then some { cause := 3, sub := 8, info1 := BitVec.ofNat 64 f.val } else none)
        <|> alignFault2 x 64 <|> scratchFault x 64 0 <|> c.tileCheck (tilesTouched x 64) true false 0 <|> s.scratchMachineCheck s.cur x 64
        <|> (patternBad (c.pattern x)).map fun i =>
          { cause := 4, sub := 6, info0 := BitVec.ofNat 64 ((c.pattern x).getD 0 0), info1 := BitVec.ofNat 64 i, addr := c.rdS a }
    act := fun s => s.bind s.cur f (s.me.pattern (s.me.rdS a).toNat) }
def execSbind (f : Fin 8) (a : SReg) (s : State) : Host.Outcome State Fault Refusal := (opSbind f a).run (.sbind f a) s

/-- Pushes still to commit leave the binding: each keeps the stream as it will find it. -/
def releasePushes (f : Fin 8) (st : Stream) (l : List Pending) : List Pending :=
  ((dueOrder l).foldl (fun (acc : List Pending × Nat) p =>
    match p.what with
    | .push g mask v parts =>
      if g = f then (acc.1 ++ [{ p with what := .pushOld f { st with moved := st.moved + acc.2 } mask v parts }], acc.2 + 1) else (acc.1 ++ [p], acc.2)
    | _ => (acc.1 ++ [p], acc.2)) ([], 0)).1

/-- SFREE's effect: the binding ends; the register reads zero until it is written. -/
def State.free_ (s : State) (k : Nat) (f : Fin 8) : State :=
  match (s.core k).streams[f] with
  | none => s
  | some st =>
    let s := { s with accs := s.accs.filter fun a => !(a.core == k && a.op == AccOp.streamIn f) }
    s.updCore k fun c =>
      { c with streams := c.streams.set f none, pend := releasePushes f st c.pend, v := c.v.set (24 + f.val) 0 (by omega) }

/-- SFREE: it waits for a late load into the register. -/
def opSfree (f : Fin 8) : SlotOp :=
  { slot := 4, wait := fun s => if s.me.streams[f].isSome then (s.regWait s.cur 0x0B (.v (24 + f.val))).toList else [], act := fun s => s.free_ s.cur f }
def execSfree (f : Fin 8) (s : State) : Host.Outcome State Fault Refusal := (opSfree f).run (.sfree f) s

/-! ## Engine commands (R221, R240, R262) -/

/-- A command of the core's channel has failed (R406). -/
def State.channelDead (s : State) (k : Nat) (ch : Chan) : Bool := s.cmds.any fun c => c.core == k && c.ch == ch && c.st == .failed

/-- A command enters the machine: it takes a place in flight until its engine accepts it. One behind a failure on its channel is
cancelled (R406). -/
def State.command (s : State) (kind : CmdKind) (ch : Chan) (inc : Nat) : State :=
  let c := s.me
  let deps := s.commandDeps s.cur
  let dead := s.channelDead s.cur ch
  { s with
    cmds := s.cmds ++ [{ id := s.nextId, core := s.cur, cluster := clusterOf s.cur, ch := ch, inc := inc, kind := kind, pc := c.pc, lc := c.lc.toNat, deps := deps, st := if dead then .cancelled else .waiting }]
    accs := if dead then s.accs else s.accs ++ [{ id := s.nextId, core := s.cur, pc := c.pc, lc := c.lc.toNat, op := .place, addr := 0, todo := [], inLoad := false, inStore := false, deps := [] }]
    nextId := s.nextId + 1 }

/-- Fields of a copy template's first word (R222). -/
def tmplFol (t : BitVec 512) : Bool := bit t.toNat 21
def tmplFaw (t : BitVec 512) : Nat := bits t.toNat 27 6
def tmplDinc (t : BitVec 512) : Nat := bits t.toNat 13 8

/-- Template n of the image a core runs; above COUNT it is all zeros (R457). -/
def State.copyTemplate (s : State) (k n : Nat) : BitVec 512 := (((s.imageOf k).map (·.copyT)).getD []).getD n 0

/-- The aperture address of a command of the present core: its offset in the cluster copy engine's aperture, for which the spec gives no base (R221, log
entry 94). -/
def apertureAddr (s : State) (ch : Chan) : Nat := s.cur % 32 * 64 + ch.val * 8

/-- COPYGO: the command of R221; a follow-on into a lent window is covered by the lend (R89). -/
def opCopygo (ch : Chan) (a : SReg) : SlotOp :=
  { slot := 4, reads := [rS a], place := fun _ => true, forms := fun s => [apertureAddr s ch],
    act := fun s =>
      let w := (s.me.rdS a).toNat
      let n := bits w 0 8
      let t := s.copyTemplate s.cur n
      let id := s.nextId
      let s := s.command (.copy n (toSigned 48 (bits w 16 48))) ch (if bits w 8 8 = 0 then tmplDinc t else bits w 8 8)
      if tmplFol t then
        s.updMe fun c => { c with lent := c.lent.map fun l => if l.1 = tmplFaw t then (l.1, l.2 ++ [id]) else l }
      else s }
def execCopygo (ch : Chan) (a : SReg) (s : State) : Host.Outcome State Fault Refusal := (opCopygo ch a).run (.copygo ch a) s

/-! ## Queue stores (R225) -/

/-- The elements of one row in memory. -/
def rowElems (a : Nat) (v : BitVec 2048) : List Elem :=
  (List.range 64).map fun i => { va := (a + 4 * i) % 2 ^ 64, n := 4, lane := i, data := (lane v i).toNat }

/-- QST. -/
def opQst (q : QReg) (bs : SReg) (off : BitVec 20) : SlotOp :=
  { slot := 4, reads := [rS bs], pops := some (q, 1), place := fun _ => true, forms := fun s => [lsAddr s bs off],
    last := fun s => alignFault2 (lsAddr s bs off) 256 <|> vaFault (lsAddr s bs off),
    act := fun s =>
      let a := lsAddr s bs off
      let row := ((s.me.queue q).head?.map (·.words)).getD 0
      (s.popQueue q 1).access s.cur .st (BitVec.ofNat 64 a) (rowElems a row) false true .plain .task 0 true }
def execQst (q : QReg) (bs : SReg) (off : BitVec 20) (s : State) : Host.Outcome State Fault Refusal := (opQst q bs off).run (.qst q bs off) s

/-! ## Atomics (R226-R228) -/

/-- BF16 of rne32 of the sum of two BF16 codes. R226 names RNE and no overflow policy for the BF16 step: the model gives infinity (log entry 96). -/
def addBf (a b : Nat) : Nat := convertD .fp32 .bf16 (roundFp32 .rne ((decodeVal .bf16 a).add .rne (decodeVal .bf16 b))).toNat .rne .inf

/-- The new word of an atomic, on w bits (R226). -/
def atomNew (opk : Opk) (wide : Bool) (old b c : Nat) : Nat :=
  let w := 8 * wideBytes wide
  let le := decide (toSigned w old ≤ toSigned w b)
  match opk with
  | .add => (old + b) % 2 ^ w
  | .min => if le then old else b
  | .max => if le then b else old
  | .minn => Nat.min old b
  | .maxn => Nat.max old b
  | .and => Nat.land old b
  | .or => Nat.lor old b
  | .xor => Nat.xor old b
  | .xchg => b
  | .cas => if old = c then b else old
  | .fadd32 => (roundFp32 .rne ((decodeVal .fp32 old).add .rne (decodeVal .fp32 b))).toNat
  | .faddbf => addBf (bits old 0 16) (bits b 0 16) + addBf (bits old 16 16) (bits b 16 16) * 2 ^ 16

/-- An operand's low bits. -/
def atomArg (wide : Bool) (x : Word) : Word := if wide then x else zeroExtend x.toNat 32

def atomCheck (s : State) (a n : Nat) (sp : Space) : Option Trap := lsCheck s a n sp true false 0

/-- ATOM. -/
def opAtom (d bs b c : SReg) (opk : Opk) (wide : Bool) (sp : Space) (sco : Scope) : SlotOp :=
  let n := wideBytes wide
  { slot := 4, reads := [rS bs, rS b] ++ (if opk = .cas then [rS c] else []), writes := [.s d.val], lat := 4,
    tiles := fun s => lsTiles sp (s.me.rdS bs).toNat n, place := takesPlace sp, forms := fun s => [(s.me.rdS bs).toNat],
    looks := fun s => if sp = .localS then [((s.me.rdS bs).toNat, n)] else [],
    check := fun s => atomCheck s (s.me.rdS bs).toNat n sp, stuck := fun s => sp == .cluster && s.tooLate [((s.me.rdS bs).toNat, n)],
    act := fun s =>
      let a := (s.me.rdS bs).toNat
      let x := atomArg wide (s.me.rdS b)
      let y := atomArg wide (s.me.rdS c)
      match sp with
      | .localS =>
        let old := s.me.readNat a n
        (s.updMe fun k => k.writeNat a n (atomNew opk wide old x.toNat y.toNat)).putS 4 d (BitVec.ofNat 64 old) 4
      | .cluster => s.clusterAccess a a (.atom d opk wide x y)
      | .device => s.access s.cur (.atom d opk wide x y) (BitVec.ofNat 64 a) [{ va := a, n := n }] (d != 0) true .plain sco 0x10 }
def execAtom (d bs b c : SReg) (opk : Opk) (wide : Bool) (sp : Space) (sco : Scope) (s : State) : Host.Outcome State Fault Refusal := (opAtom d bs b c opk wide sp sco).run (.atom d bs b c opk wide sp sco) s

/-- ATOMD. -/
def opAtomd (bs b : SReg) (opk : Opk) (wide : Bool) (sco : Scope) : SlotOp :=
  let n := wideBytes wide
  { slot := 4, reads := [rS bs, rS b], place := takesPlace .device, forms := fun s => [(s.me.rdS bs).toNat],
    check := fun s => atomCheck s (s.me.rdS bs).toNat n .device,
    act := fun s =>
      let a := (s.me.rdS bs).toNat
      s.access s.cur (.atom 0 opk wide (atomArg wide (s.me.rdS b)) 0) (BitVec.ofNat 64 a) [{ va := a, n := n }] false true .plain sco 0x11 }
def execAtomd (bs b : SReg) (opk : Opk) (wide : Bool) (sco : Scope) (s : State) : Host.Outcome State Fault Refusal := (opAtomd bs b opk wide sco).run (.atomd bs b opk wide sco) s

/-- A run of scalar registers. -/
def sRun (a : SReg) (n : Nat) : List SReg := (List.range n).map fun i => Fin.ofNat 64 (a.val + i)

/-- CASW. -/
def opCasw (d bs x y : SReg) (four : Bool) (sco : Scope) : SlotOp :=
  let n := if four then 4 else 2
  { slot := 4, reads := (rS bs :: (sRun x n).map rS) ++ (sRun y n).map rS, writes := (sRun d n).map fun r => .s r.val, place := takesPlace .device,
    forms := fun s => [(s.me.rdS bs).toNat],
    check := fun s => alignFault2 (s.me.rdS bs).toNat (8 * n) <|> vaFault (s.me.rdS bs).toNat,
    act := fun s =>
      let a := (s.me.rdS bs).toNat
      s.access s.cur (.casw d ((sRun x n).map s.me.rdS) ((sRun y n).map s.me.rdS)) (BitVec.ofNat 64 a) [{ va := a, n := 8 * n }] true true .plain sco 0x12 }
def execCasw (d bs x y : SReg) (four : Bool) (sco : Scope) (s : State) : Host.Outcome State Fault Refusal := (opCasw d bs x y four sco).run (.casw d bs x y four sco) s

/-- ENQ. -/
def opEnq (d bs b : SReg) : SlotOp :=
  { slot := 4, reads := [rS bs, rS b], writes := [.s d.val], place := takesPlace .device, forms := fun s => [(s.me.rdS bs).toNat],
    check := fun s => alignFault (s.me.rdS bs).toNat 8 <|> vaFault (s.me.rdS bs).toNat,
    act := fun s =>
      let a := (s.me.rdS bs).toNat
      s.access s.cur (.enq d (s.me.rdS b)) (BitVec.ofNat 64 a) [{ va := a, n := 8 }] true true .plain .task 0x13 }
def execEnq (d bs b : SReg) (s : State) : Host.Outcome State Fault Refusal := (opEnq d bs b).run (.enq d bs b) s

/-- The next hop of a CHASE from a pointer: none once the pointer is 0 or no hop is left. -/
def chaseElems (p : Word) (left : Nat) (off : Int) : List Elem :=
  if p = 0 || left = 0 then [] else [{ va := (wrap64 (p.toNat + off)).toNat, n := 8 }]

/-- CHASE: the access's address is its pointer. -/
def opChase (d bs : SReg) (cnt : Fin 64) (off : BitVec 16) : SlotOp :=
  { slot := 4, reads := [rS bs], writes := [.s d.val], place := takesPlace .device, forms := fun s => [(s.me.rdS bs).toNat],
    act := fun s =>
      let p := s.me.rdS bs
      s.access s.cur (.chase d cnt.val off.toInt) p (chaseElems p cnt.val off.toInt) true false .plain .task 0x14 }
def execChase (d bs : SReg) (cnt : Fin 64) (off : BitVec 16) (s : State) : Host.Outcome State Fault Refusal := (opChase d bs cnt off).run (.chase d bs cnt off) s

/-! ## Remote operations (R229, R230, R264) -/

/-- The device that a register names. -/
def chipOf (x : Word) : BitVec 13 := x.setWidth 13

/-- An aggregated element is issued, and enters a buffer in the same clock (R278). -/
def State.aggregate (s : State) (op : AccOp) (a n : Nat) : State :=
  (s.access s.cur op (BitVec.ofNat 64 a) [{ va := a, n := n }] false false).aggEntry s.nextId

/-- RST. -/
def opRst (bs b chip : SReg) (wide : Bool) : SlotOp :=
  { slot := 4, reads := [rS bs, rS b, rS chip], place := takesPlace .device, forms := fun s => [(s.me.rdS bs).toNat], check := fun s => vaFault (s.me.rdS bs).toNat,
    act := fun s =>
      let a := (s.me.rdS bs).toNat
      s.aggregate (.agg none wide (atomArg wide (s.me.rdS b)) (chipOf (s.me.rdS chip))) a (wideBytes wide) }
def execRst (bs b chip : SReg) (wide : Bool) (s : State) : Host.Outcome State Fault Refusal := (opRst bs b chip wide).run (.rst bs b chip wide) s

/-- A remote operation with a reply takes its task's next SEQ (R273). -/
def State.remoteAccess (s : State) (d : SReg) (opk : Option Opk) (wide : Bool) (b : Word) (chip : BitVec 13) (a : Nat) : State :=
  let seq := s.me.opSeq
  let s := s.updMe fun c => { c with opSeq := c.opSeq + 1 }
  s.access s.cur (.remote d opk wide b chip seq) (BitVec.ofNat 64 a) [{ va := a, n := wideBytes wide }] true opk.isSome

/-- RATOM. -/
def opRatom (d bs b chip : SReg) (opk : Opk) (wide : Bool) : SlotOp :=
  { slot := 4, reads := [rS bs, rS b, rS chip], writes := [.s d.val], place := takesPlace .device,
    forms := fun s => [(s.me.rdS bs).toNat], check := fun s => vaFault (s.me.rdS bs).toNat,
    act := fun s =>
      let a := (s.me.rdS bs).toNat
      let x := atomArg wide (s.me.rdS b)
      let t := chipOf (s.me.rdS chip)
      if d = 0 then s.aggregate (.agg (some opk) wide x t) a (wideBytes wide)
      else s.remoteAccess d (some opk) wide (s.me.rdS b) t a }
def execRatom (d bs b chip : SReg) (opk : Opk) (wide : Bool) (s : State) : Host.Outcome State Fault Refusal := (opRatom d bs b chip opk wide).run (.ratom d bs b chip opk wide) s

/-- RLD. -/
def opRld (d bs chip : SReg) (wide : Bool) : SlotOp :=
  { slot := 4, reads := [rS bs, rS chip], writes := [.s d.val], place := takesPlace .device,
    forms := fun s => [(s.me.rdS bs).toNat], check := fun s => vaFault (s.me.rdS bs).toNat,
    act := fun s => s.remoteAccess d none wide 0 (chipOf (s.me.rdS chip)) (s.me.rdS bs).toNat }
def execRld (d bs chip : SReg) (wide : Bool) (s : State) : Host.Outcome State Fault Refusal := (opRld d bs chip wide).run (.rld d bs chip wide) s

/-- FLUSHA of one destination. -/
def opFlusha (chip : SReg) : SlotOp :=
  { slot := 4, reads := [rS chip], act := fun s => s.bufferLeaves (chipOf (s.me.rdS chip)).toNat }
def execFlusha (chip : SReg) (s : State) : Host.Outcome State Fault Refusal := (opFlusha chip).run (.flusha chip) s

/-- FLUSHA all. -/
def opFlushaAll : SlotOp := { slot := 4, act := fun s => s.flushTask s.cur }
def execFlushaAll (s : State) : Host.Outcome State Fault Refusal := opFlushaAll.run .flushaAll s

end Sys2Proof.Machine
end

