-- ==== Sys2Proof/Machine/Cluster.lean ====
section
/-! DEFINITION. Cluster accesses at their targets: their order, what the target finds wrong, their effect and their results, and those that come
before the target's next bundle (R30, R80, R84, R201, R361). -/

namespace Sys2Proof.Machine

/-- One access comes before another at a target that runs: by performing cycle, then by logical core, then by issue (R80). -/
def ClAcc.before (a b : ClAcc) : Bool :=
  decide (a.perform < b.perform) || (a.perform == b.perform && (decide (a.core < b.core) || (a.core == b.core && decide (a.id < b.id))))

/-- The rank of an access among those of its performing cycle: after the target's own, by logical core; what comes to a target whose task has ended
comes last. -/
def ClAcc.rank (a : ClAcc) : Nat := if a.ended then cmdKey + 1 else a.core + 1

/-- The core as the access finds it (R30, R80): before what it has done at later cycles; once its task has ended, as it stands. -/
def ClAcc.view (a : ClAcc) (c : Core) : Core := if a.ended then c else c.asOf a.perform a.rank

/-- The cycle at which the access writes in the order of R80. -/
def ClAcc.at_ (a : ClAcc) (c : Core) : Nat := if a.ended then max a.perform c.lc.toNat else a.perform

/-- The element format: FMT of the first element's tile at the performing cycle (R214); RAW32 where no tile holds it (log entry 93). -/
def State.clFmt (s : State) (a : ClAcc) : Fmt :=
  let p := clusterPlace a.core a.first
  if (s.clusterFault a.core a.first 1).isSome then .raw32 else (a.view (s.core p.1)).fmtAt p.2

/-- Its lanes with their local addresses, and the element format. -/
def State.clLanes (s : State) (a : ClAcc) : Fmt × List (Nat × Nat) :=
  let f := s.clFmt a
  let la := a.addr % 2 ^ 21
  match a.op with
  | .vld _ mask stride | .vst mask _ stride => (f, laneAddrs f la stride mask)
  | .vldg _ mask addrs | .vsts mask _ addrs => (f, (activeLanes mask).zip (addrs.map (· % 2 ^ 21)))
  | _ => (.raw32, [])

/-- The tiles that it touches at its target. -/
def State.clTiles (s : State) (a : ClAcc) : List Nat :=
  let la := a.addr % 2 ^ 21
  match a.op with
  | .ld _ sz _ => tilesTouched la (Size.bytes sz)
  | .st n _ => tilesTouched la n
  | .atom _ _ wide _ _ => tilesTouched la (wideBytes wide)
  | _ => let fl := s.clLanes a; tilesOf fl.1 fl.2

/-- The bytes that it touches at its target. -/
def State.clSpans (s : State) (a : ClAcc) : List (Nat × Nat) :=
  let la := a.addr % 2 ^ 21
  match a.op with
  | .ld _ sz _ => [(la, Size.bytes sz)]
  | .st n _ => [(la, n)]
  | .atom _ _ wide _ _ => [(la, wideBytes wide)]
  | _ => laneSpans (s.clLanes a)

def ClAcc.isRead (a : ClAcc) : Bool :=
  match a.op with
  | .ld _ _ _ | .vld _ _ _ | .vldg _ _ _ | .atom _ _ _ _ _ => true
  | .st _ _ | .vst _ _ _ | .vsts _ _ _ => false

/-- A group of a local stream that its target was to write before the access still waits for lanes of its own (R179). -/
def State.clBehind (s : State) (a : ClAcc) : Bool :=
  a.isRead && (s.core a.target).comingGroups.any fun g => decide (g.1 ≤ a.perform) && g.2.any fun x => (s.clSpans a).any (spansMeet x)

/-- An engine-owned tile holds the access at its target (R84): one that was lent at its performing cycle and has not come back. -/
def State.clHeld (s : State) (a : ClAcc) : Bool :=
  let c := s.core a.target
  ((s.clTiles a).any fun t => (c.tile t).engine && ((a.view c).tile t).engine) || s.clBehind a

/-- The access is the next that its target performs: the target has passed its performing cycle, and no access that comes before it is left but those
that a tile holds. At a target whose task has ended accesses act as they arrive, in one clock by performing cycle and core (R30). -/
def State.clReady (s : State) (a : ClAcc) : Bool :=
  let c := s.core a.target
  let others := s.clAccs.filter fun b => b.target == a.target && b.id != a.id && !s.clHeld b
  !s.clHeld a &&
    if a.ended then
      (others.all fun b => b.ended && (b.core != a.core || decide (a.id < b.id)))
        && !(c.clSeen.1 == s.clk && (decide (a.perform < c.clSeen.2.1) || (a.perform == c.clSeen.2.1 && decide (a.core < c.clSeen.2.2))))
    else (decide (a.perform < c.lc.toNat) || c.over) && others.all fun b => b.ended || !b.before a

def ClAcc.strided (a : ClAcc) : Bool :=
  match a.op with
  | .vld _ _ n | .vst _ _ n => n != 1
  | _ => true

/-- What the target finds wrong with the access: the tile rules with TC 0, and its lanes' alignment, places and format where the FMT of its tile is no
longer that of its issue. -/
def State.clCheck (s : State) (a : ClAcc) : Option Trap :=
  let base := a.addr / 2 ^ 21 * 2 ^ 21
  let fl := s.clLanes a
  let far := fl.2.map fun p => (p.1, base + p.2)
  laneFault fl.1 far a.strided
    <|> ((fl.2.find? fun p => scratchTop < p.2 + elemBytes fl.1).map fun p =>
      { cause := 0x30, sub := 7, info0 := 1, info1 := BitVec.ofNat 64 (base + p.2), addr := BitVec.ofNat 64 (base + p.2) })
    <|> (if a.isRead then none else ternaryStore fl.1 far)
    <|> (s.clTiles a).findSome? fun t => tileFault ((a.view (s.core a.target)).tile t) t a.isRead false 0

/-- The machine check of a read of bad data at the target (R386). -/
def State.clBad (s : State) (a : ClAcc) : Option Trap :=
  let la := a.addr % 2 ^ 21
  match a.op with
  | .ld _ sz _ => s.scratchMachineCheck a.target la (Size.bytes sz)
  | .atom _ _ wide _ _ => s.scratchMachineCheck a.target la (wideBytes wide)
  | .vld _ _ _ | .vldg _ _ _ =>
    let fl := s.clLanes a
    fl.2.findSome? fun p => s.scratchMachineCheck a.target p.2 (elemBytes fl.1)
  | .st _ _ | .vst _ _ _ | .vsts _ _ _ => none

/-- Another part of the same instruction. -/
def ClAcc.sibling (a b : ClAcc) : Bool := a.core == b.core && a.pc == b.pc && a.vis == b.vis && a.id != b.id

/-- A value arrives at the issuer for its logical cycle t + 14, unless it is abandoned. -/
def State.clDeliver (s : State) (a : ClAcc) (what : Commit) : State :=
  if a.abandoned then s else s.updCore a.core fun c => { c with pend := c.pend ++ [a.result what] }

/-- Lanes fill the group that the access owes to a stream; none was announced when the register was not bound at issue. -/
def Core.clFill (c : Core) (a : ClAcc) (mask : BitVec 64) (v : BitVec 2048) : Core :=
  { c with pend := c.pend.map fun p =>
      match p.what with
      | .push f m w parts => if parts.contains a.id then { p with what := .push f (m ||| mask) (mergeLanes mask w v) [] } else p
      | .pushOld f st m w parts => if parts.contains a.id then { p with what := .pushOld f st (m ||| mask) (mergeLanes mask w v) [] } else p
      | _ => p }

/-- A group of an output stream waits for the access. -/
def Core.clOwed (c : Core) (a : ClAcc) : Bool :=
  c.pend.any fun p =>
    match p.what with
    | .push _ _ _ parts | .pushOld _ _ _ _ parts => parts.contains a.id
    | _ => false

/-- Lanes arrive at the issuer: those of the last part bring the others with them. -/
def State.clVector (s : State) (a : ClAcc) (vd : VReg) (mask : BitVec 64) (r : BitVec 2048 × Bool) : State :=
  let all := mask ||| a.have_.1
  let v := mergeLanes mask a.have_.2.1 r.1
  let rsvd := r.2 || a.have_.2.2
  match s.clAccs.find? a.sibling with
  | some b => { s with clAccs := s.clAccs.map fun x => if x.id == b.id then { x with have_ := (x.have_.1 ||| all, mergeLanes all x.have_.2.1 v, x.have_.2.2 || rsvd) } else x }
  | none =>
    let s := if (s.core a.core).clOwed a then s.updCore a.core (·.clFill a all v) else s.clDeliver a (.v vd (all &&& a.keep) v)
    if rsvd then s.clDeliver a (.sticky stickyRsvd) else s

/-- The access is performed in the target's scratchpad. -/
def State.clEffect (s : State) (a : ClAcc) : State :=
  let c := s.core a.target
  let seen := a.view c
  let la := a.addr % 2 ^ 21
  let fl := s.clLanes a
  let s := if a.isRead then s.updCore a.target fun c => c.lookAt a.perform a.rank (s.clSpans a) else s
  match a.op with
  | .ld d sz sg => if a.keep = 0 then s else s.clDeliver a (.s d (loadExtend sz sg (seen.readNat la (Size.bytes sz))))
  | .st n v => s.updCore a.target (·.storeAt (a.at_ c) a.rank la n v)
  | .vld vd mask _ | .vldg vd mask _ => s.clVector a vd mask (seen.gather fl.1 fl.2)
  | .vst _ v _ | .vsts _ v _ => s.updCore a.target (·.scatterAt (a.at_ c) a.rank fl.1 fl.2 v)
  | .atom d opk wide b x =>
    let n := wideBytes wide
    let old := seen.readNat la n
    let s := s.updCore a.target (·.storeAt (a.at_ c) a.rank la n (atomNew opk wide old b.toNat x.toNat))
    if a.keep = 0 then s else s.clDeliver a (.s d (BitVec.ofNat 64 old))

/-- A result is a group that waits for the access: the stream, and whether its binding has ended. -/
def Pending.owedTo (a : ClAcc) (p : Pending) : Option (Fin 8 × Bool) :=
  match p.what.group with
  | some (f, parts) => if parts.contains a.id then some f else none
  | none => none

/-- The group that waits for the access is not pushed. -/
def Core.clUnpush (c : Core) (a : ClAcc) : Core :=
  let c' := { c with pend := c.pend.filter fun p => (p.owedTo a).isNone }
  match c.pend.findSome? (Pending.owedTo a) with
  | some (f, false) => c'.setStream f ((c.streams[f]).map fun (st : Stream) => { st with done := st.done - 1 })
  | _ => c'

/-- A read that fails delivers nothing: its other parts are dropped, and the group that it owes is not pushed. -/
def State.clDrop (s : State) (a : ClAcc) : State :=
  { s with clAccs := s.clAccs.filter fun b => !a.sibling b }.updCore a.core (·.clUnpush a)

/-- Where the target's accesses of the cycles after the performing one begin in its program order. -/
def State.clPlace (s : State) (a : ClAcc) : Nat :=
  (s.accs.filter fun b => b.core == a.target && decide (a.perform < b.lc)).foldl (fun n b => min n b.order) s.nextId

/-- The access at its performing cycle: its effect, a deferred report to the issuer at t + 14, or a machine check. A read whose result is abandoned
reports nothing. What happens before the access happens before what its target issues at later cycles (R263). -/
def State.clPerform (s : State) (a : ClAcc) : State :=
  let check := s.clCheck a
  let bad := s.clBad a
  let s := { s with clAccs := s.clAccs.filter fun b => b.id != a.id }.updCore a.target fun c => { c with clSeen := (s.clk, a.perform, a.core) }
  let s := s.sees a.target (s.clPlace a) (s.carried a.core 0 a.id)
  match check, bad with
  | some t, _ =>
    let s := s.clDrop a
    if a.abandoned && a.isRead then s else s.defer a.core a.vis (a.vis - 14) { t with slot := 4, opc := a.pc }
  | none, some t => if a.abandoned then s.clDrop a else (s.clDrop a).machineCheck a.core t
  | none, none => (s.clEffect a).commitDue a.core

/-- The next cluster access that comes before the core's next bundle: its performing cycle lies below the core's LC (R30, R80). -/
def State.clNext (s : State) (k : Nat) : Option ClAcc := s.clAccs.find? fun a => a.target == k && !a.ended && s.clReady a

/-- Up to n of them are performed, in their order. -/
def State.clDrain (k : Nat) : Nat → State → State
  | 0, s => s
  | n + 1, s =>
    match s.clNext k with
    | some a => State.clDrain k n (s.clPerform a)
    | none => s

/-- The cluster accesses that have been issued and come before the core's next bundle are performed (R80). -/
def State.clDue (s : State) (k : Nat) : State := State.clDrain k s.clAccs.length s

end Sys2Proof.Machine
end

