-- ==== Sys2Proof/Machine/Fetch.lean ====
section
/-! DEFINITION. Code: segments and their expansion into the loop buffer, and where the bundle at the PC is found (R105-R114, R372, R388, R394). -/

namespace Sys2Proof.Machine

/-! ## Reading code -/

/-- The machine check that a poisoned line gives a core access (R388, R393). -/
def State.lineCheck (s : State) (key va sub : Nat) (cc : Bool := false) : Trap :=
  let w := lineWords key
  { cause := 0x50, sub := sub, addr := BitVec.ofNat 64 w.1,
    info0 := BitVec.ofNat 64 (w.2 + bankOf key cc * 2 ^ 32 + (Config.syndrome s.free).toNat), info1 := BitVec.ofNat 64 va }

/-- n bytes of code at an address, as a core's fetch reads them. A page of host space that is not granted gives nothing. -/
def State.codeAt (s : State) (k va n : Nat) : Except (Option Fetched) Nat :=
  if 2 ^ 57 ≤ va then .error (some (.unreadable 0x30 1 0 va va))
  else
    match s.translate (clusterOf k) (s.slotOfCore k) va n with
    | .fault f => .error (some (.unreadable 0x30 6 f.sub f.info1 va))
    | .miss => .error none
    | .ok x =>
      if x.host then .ok (Config.freeBits s.free va % 2 ^ (8 * n))
      else if (s.poisoned x.key n).isSome then
        let t := s.lineCheck x.key va 5 x.cc
        .error (some (.unreadable 0x50 5 t.info0.toNat va t.addr.toNat))
      else .ok (s.memNat x.key n)

/-! ## Expansion (R105-R109) -/

/-- The literal words of an escape. -/
def State.literalAt (s : State) (k : Nat) : Nat → Nat → Except (Option Fetched) (List Nat)
  | 0, _ => .ok []
  | n + 1, va =>
    match s.codeAt k va 2 with
    | .error e => .error e
    | .ok w =>
      match State.literalAt s k n (va + 2) with
      | .error e => .error e
      | .ok l => .ok (w :: l)

/-- What expansion of the code words from `ix` on gives: the bundles, the index of an escape that runs past COUNT, and whether a page
of host space stopped it. -/
structure Expanded where
  items : List BufItem := []
  overrun : Option Nat := none
  miss : Bool := false

def Expanded.cons (i : BufItem) (e : Expanded) : Expanded := { e with items := i :: e.items }

/-- Code words `ix` to COUNT - 1 of the segment at `head`; `fuel` bounds the number of bundles. -/
def State.expandFrom (s : State) (k head count : Nat) (dict : List (BitVec 384)) : Nat → Nat → Expanded
  | 0, _ => {}
  | fuel + 1, ix =>
    if count ≤ ix then {}
    else
      let pc := head + 16 + 2 * ix
      match s.codeAt k pc 2 with
      | .error none => { miss := true }
      | .error (some f) => { items := [{ pc := pc, len := 2, what := f }] }
      | .ok w =>
        match codeWord w with
        | .dict i =>
          let what := match dict[i]? with
            | some b => Fetched.bundle b
            | none => .bad 2 w dict.length pc
          (s.expandFrom k head count dict fuel (ix + 1)).cons { pc := pc, len := 2, what := what }
        | .unassigned => (s.expandFrom k head count dict fuel (ix + 1)).cons { pc := pc, len := 2, what := .bad 1 w 0 pc }
        | .escape =>
          if count < ix + 25 then { items := [{ pc := pc, len := 50, what := .bad 5 ix count head }], overrun := some ix }
          else
            match s.literalAt k 24 (pc + 2) with
            | .error none => { miss := true }
            | .error (some f) => { items := [{ pc := pc, len := 50, what := f }] }
            | .ok l =>
              (s.expandFrom k head count dict fuel (ix + 25)).cons { pc := pc, len := 50, what := .bundle (BitVec.ofNat 384 (literalBundle l)) }

/-- The expanded segment whose header is at `head`, wherever that is: R108 places headers at multiples of 16, the spec names no check of it, and
the model reads one at any address (log entry 80). Of several checks of R372 that a header fails, the spec names no order: the model reports zero fields (sub-cause 0x03) before COUNT and
the number of bundles (0x04) before an escape that runs past COUNT (0x05). None while a page of host space is awaited. -/
def State.expand (s : State) (k head : Nat) : Option Half :=
  let failed (f : Fetched) : Option Half := some { head := head, next := 0, rep := false, err := some f, items := [] }
  match s.codeAt k head 16 with
  | .error none => none
  | .error (some f) => failed f
  | .ok h =>
    if bits h 81 47 ≠ 0 || bits h 57 7 ≠ 0 then failed (.bad 3 (h % 2 ^ 64) (h / 2 ^ 64) head)
    else
      let count := bits h 64 16
      let e := s.expandFrom k head count (((s.imageOf k).map (·.dict)).getD []) count 0
      if e.miss then none
      else if count = 0 || 6400 < count || 256 < e.items.length then failed (.bad 4 count e.items.length head)
      else
        match e.overrun with
        | some ix => failed (.bad 5 ix count head)
        | none => some { head := head, next := bits h 0 57, rep := bit h 80, items := e.items }

/-! ## Where the bundle at the PC is (R110-R113, R372) -/

/-- What issue finds at the PC. -/
inductive Fetch where
  | trap (t : Trap)
  /-- Its segment is not expanded (R113): the header awaited. -/
  | wait (head : Nat)
  | item (half1 : Bool) (i : BufItem)

/-- The directory's greatest header not above an address (R110). -/
def State.dirHead (s : State) (k va : Nat) : Option Nat :=
  match s.imageOf k with
  | none => none
  | some im => ((im.dir.map (im.base + ·)).filter (· ≤ va)).foldl (fun m e => match m with
      | none => some e
      | some x => some (max x e)) none

/-- A failed check of R372, or a failed fetch, as a trap. -/
def Fetched.trap : Fetched → Option Trap
  | .bundle _ => none
  | .bad sub i0 i1 a => some { cause := 1, sub := sub, info0 := BitVec.ofNat 64 i0, info1 := BitVec.ofNat 64 i1, addr := BitVec.ofNat 64 a }
  | .unreadable cause sub i0 i1 a =>
    some { cause := cause, sub := sub, info0 := BitVec.ofNat 64 i0, info1 := BitVec.ofNat 64 i1, addr := BitVec.ofNat 64 a }

/-- The half that holds the segment at a header. -/
def Core.halfOf (c : Core) (head : Nat) : Option (Bool × Half) :=
  match c.half0, c.half1 with
  | some h, some g => if h.head = head then some (false, h) else if g.head = head then some (true, g) else none
  | some h, none => if h.head = head then some (false, h) else none
  | none, some g => if g.head = head then some (true, g) else none
  | none, none => none

/-- The bundle of a segment at a PC; `none` says that no bundle begins there. Of a branch to no bundle's address in a segment whose header fails its check, or
whose code cannot be read, the spec does not say which comes first: the model reports the header's or the fetch's failure (log entry 99). -/
def Core.inSegment (c : Core) (head pc : Nat) (none_ : Fetch) : Fetch :=
  match c.halfOf head with
  | none => .wait head
  | some (b, h) =>
    match h.err.bind Fetched.trap with
    | some t => .trap t
    | none =>
      match (itemsFrom pc h.items).head? with
      | some i => .item b i
      | none =>
        match h.items.getLast? with
        | some i =>
          match i.what with
          | .unreadable _ _ _ _ _ => if i.pc ≤ pc then .item b i else none_
          | _ => none_
        | none => none_

/-- An illegal branch target (R372 sub-cause 0x07). -/
def targetTrap (pc source : Word) : Trap := { cause := 1, sub := 7, info0 := pc, info1 := source, addr := pc }

/-- The bundle at the PC: a taken branch is judged by the segment directory, a fall-through goes to NEXT. The spec names no check of a NEXT that is
neither zero nor a directory entry: the model follows it (R110, log entry 80). -/
def State.fetch (s : State) (k : Nat) : Fetch :=
  let c := s.core k
  let pc := c.pc.toNat
  let branch (source : Word) : Fetch :=
    if 2 ^ 57 ≤ pc then .trap (targetTrap c.pc source)
    else
      match s.dirHead k pc with
      | none => .trap (targetTrap c.pc source)
      | some h => c.inSegment h pc (.trap (targetTrap c.pc source))
  match c.branchFrom, c.fellFrom with
  | some a, _ => branch a
  | none, some last =>
    match c.here.head? with
    | some i => .item c.inHalf1 i
    | none =>
      if pc = 0 then .trap { cause := 1, sub := 6, info0 := last, addr := last }
      else c.inSegment (pc - 16) pc (.trap (targetTrap c.pc last))
  | none, none => branch 0

/-! ## The prefetch engine (R112) -/

/-- The lines that the fetch of n bytes of code reaches, up to one that it cannot read. -/
def State.codeMeets (k fuel va n : Nat) (s : State) : State :=
  State.vaMeets srcCore (s.clusterPort (clusterOf k)) (clusterOf k) (s.slotOfCore k) fuel va n s

/-- The lines of a segment: its header's, then those of its code words. -/
def State.segmentMeets (s : State) (k head : Nat) : State :=
  let s := State.codeMeets k 3 head 16 s
  match s.codeAt k head 16 with
  | .ok h => State.codeMeets k 256 (head + 16) (2 * min 6400 (bits h 64 16)) s
  | .error _ => s

/-- Expands a segment into one half. -/
def State.expandInto (s : State) (k : Nat) (half1 : Bool) (head : Nat) : State :=
  let s := s.segmentMeets k head
  match s.expand k head with
  | none => s
  | some h => s.updCore k fun c => if half1 then { c with half1 := some h } else { c with half0 := some h }

/-- The header of the segment that the bundle at the PC belongs to. -/
def State.headAt (s : State) (k : Nat) : Option Nat :=
  let c := s.core k
  if c.branchFrom.isSome then s.dirHead k c.pc.toNat
  else if c.here.isEmpty then some (c.pc.toNat - 16)
  else c.half.map (·.head)

/-- The trap of what stands at the PC, if it is one. -/
def Fetch.fails : Fetch → Option Trap
  | .trap t => some t
  | .wait _ => none
  | .item _ i => i.what.trap

/-- The first fetch of the code at the PC was poisoned: it is fetched again once (R388). -/
def State.refetching (s : State) (k : Nat) : Bool :=
  ((s.fetch k).fails.any fun t => t.cause == 0x50) && (s.core k).refetched != some (s.core k).pc.toNat

/-- The segment at the PC is fetched again. -/
def State.refetch (s : State) (k : Nat) : State :=
  let s' := s.updCore k fun c => { c with refetched := some c.pc.toNat }
  match (s.headAt k).bind (s.core k).halfOf with
  | some (half1, h) => s'.expandInto k half1 h.head
  | none => s'

/-- Step 1 of R112 for a bundle whose segment is held in neither half, otherwise step 2: the NEXT of the segment that holds the bundle at the PC is expanded
into the other half where that does not hold it.
Execution that leaves no segment, at a task's start, is taken as being in the first half, so the first segment goes into the second (log entry 80). -/
def State.prefetch (s : State) (k : Nat) : State :=
  let c := s.core k
  if s.refetching k then s.refetch k
  else
    match s.fetch k with
    | .wait head => s.expandInto k (!c.inHalf1) head
    | .trap _ => s
    | .item half1 _ =>
      match (if half1 then c.half1 else c.half0) with
      | none => s
      | some x =>
        let next := s.imageBase k + x.next
        let other := if half1 then c.half0 else c.half1
        if x.rep || x.next = 0 || other.any (fun h => h.head == next) then s else s.expandInto k (!half1) next

end Sys2Proof.Machine
end

