-- ==== Sys2Proof/Machine/Control.lean ====
section
/-! DEFINITION. C slot on a tile core: branches, loops, task boundaries, fences, channel waits, traps and returns, CSRs and predicates
(R136-R160). -/

namespace Sys2Proof.Machine

/-! ## Branches (R137-R141) -/

/-- Whether a target leaves the loops as they stand (R141). -/
def inTopLoop (l : List Loop) (t : Word) : Bool :=
  match l.getLast? with
  | some x => decide (x.first.toNat ≤ t.toNat) && decide (t.toNat ≤ x.last.toNat)
  | none => false

/-- A taken branch; `keep` says that a target inside the innermost body leaves the loops. -/
def Core.branch (c : Core) (t : Word) (keep : Bool) : Core :=
  { c with jump := some t, branchFrom := some c.pc, loops := if keep && inTopLoop c.loops t then c.loops else [] }

/-- A C-slot operation that reads nothing and acts on the core alone. -/
def ctl (f : State → State) : SlotOp := { slot := 0, act := f }

/-- A relative target (R137). -/
def relTarget (pc : Word) (off : BitVec 32) : Word := pc + 2 * off.signExtend 64

/-- NOP: no effect (R160). -/
def opNop : SlotOp := ctl id
def execNop (s : State) : Host.Outcome State Fault Refusal := opNop.run .nop s

/-- BR (R137, R141). -/
def opBr (off : BitVec 32) : SlotOp := ctl fun s => s.updMe fun c => c.branch (relTarget c.pc off) true
def execBr (off : BitVec 32) (s : State) : Host.Outcome State Fault Refusal := (opBr off).run (.br off) s

/-- CALL: S63 := next_pc, visible 1 lc later (R137, R139). -/
def opCall (off : BitVec 32) : SlotOp :=
  { slot := 0, writes := [.s 63],
    act := fun s => (s.putS 0 63 (s.nextPc s.cur) 1).updMe fun c => c.branch (relTarget c.pc off) false }
def execCall (off : BitVec 32) (s : State) : Host.Outcome State Fault Refusal := (opCall off).run (.call off) s

/-- BRI (R137). -/
def opBri (a : SReg) : SlotOp := { slot := 0, reads := [rS a], act := fun s => s.updMe fun c => c.branch (c.rdS a) true }
def execBri (a : SReg) (s : State) : Host.Outcome State Fault Refusal := (opBri a).run (.bri a) s

/-- RET (R137). -/
def opRet : SlotOp := { slot := 0, reads := [rS 63], act := fun s => s.updMe fun c => c.branch (c.rdS 63) false }
def execRet (s : State) : Host.Outcome State Fault Refusal := opRet.run .ret s

/-! ## Loops (R140, R141) -/

/-- Bundles left after the one at issue, in its segment or in the innermost active body. -/
def Core.bundlesLeft (c : Core) : Nat :=
  let n := c.here.length - 1
  match c.loops.getLast? with
  | some l => min n ((c.here.takeWhile fun i => i.pc != l.last.toNat).length)
  | none => n

/-- LOOP's effect: the body is entered or skipped. -/
def State.startLoop (s : State) (k : Nat) (count : Word) (n : Nat) : State :=
  let last := BitVec.ofNat 64 (((s.core k).here[n]?.map (·.pc)).getD 0)
  if count = 0 then
    s.updCore k fun c => { c with jump := some (s.nextPcAt k n), branchFrom := none, fellFrom := some last }
  else s.updCore k fun c => { c with loops := c.loops ++ [{ first := s.nextPc k, last := last, left := count.toNat }] }

/-- LOOP Sa, n. -/
def opLoop (a : SReg) (body : Fin 1024) : SlotOp :=
  { slot := 0, reads := [rS a],
    check := fun s =>
      let c := s.me
      if c.bundlesLeft < body.val || 4 ≤ c.loops.length then
        some { cause := 3, sub := 7, info1 := BitVec.ofNat 64 (c.loops.length * 2 ^ 32 + c.bundlesLeft) }
      else none
    act := fun s => s.startLoop s.cur (s.me.rdS a) body.val }
def execLoop (a : SReg) (body : Fin 1024) (s : State) : Host.Outcome State Fault Refusal := (opLoop a body).run (.loop a body) s

/-! ## Task boundaries (R26, R41, R142-R144) -/

/-- The tasks of a node, ascending. -/
def Node.tasks (n : Node) : List Nat := (List.range 384).filter fun i => (n.image.entries.getD i none).isSome

def State.tasks (s : State) : List Nat := (s.node.map Node.tasks).getD []

/-- The links that the running node aligns (R310). -/
def State.alignLinks (s : State) : List Nat :=
  (List.range 12).filter fun j => s.circuits.any fun c => c.links.getLsbD j

/-- Every task of the node has issued its ALIGN. -/
def State.allAligning (s : State) : Bool := s.tasks.all fun k => (s.core k).phase == .aligning

/-- An align flit leaves on the link that carries a link's traffic, when it is up. -/
def State.alignOn (s : State) (n : Node) (j : Nat) : State :=
  if (s.links[s.carrier j]?).any fun l => l.state == .up then s.wire (s.carrier j) (alignFlit n.image.domtag.toNat n.index.toNat) else s

/-- Once every task has issued its ALIGN, the links that the node aligns send align flits (R310). -/
def State.sendAlign (s : State) : State :=
  match s.node with
  | some n => if s.allAligning then s.alignLinks.foldl (fun s j => s.alignOn n j) s else s
  | none => s

/-- Links that the node awaits, and those that have aligned: a link's last align flit carries the node's own two values. -/
def State.alignMasks (s : State) : Nat × Nat :=
  match s.node with
  | none => (0, 0)
  | some n =>
    let l := s.alignLinks
    let done := l.filter fun j => ((s.links[s.carrier j]?).bind (·.aligned)) == some (n.image.domtag, n.index.setWidth 64)
    (l.foldl (fun m j => m + 2 ^ j) 0, done.foldl (fun m j => m + 2 ^ j) 0)

/-- ALIGN issues (R26, R273). -/
def opAlign : SlotOp := ctl fun s => (s.updMe fun c => { c with phase := .aligning, opSeq := 0 }).sendAlign
def execAlign (s : State) : Host.Outcome State Fault Refusal := opAlign.run .align s

/-- SSTEP issues: the task's buffers leave (R264), and the next bundle is held (R41). -/
def opSstep (exchange : Bool) : SlotOp :=
  ctl fun s =>
    let s := s.flushTask s.cur
    let s := if s.scribe.sst then s.scribe1 0xA exchange.toNat s.cur s.me.lc 0 else s
    s.updMe fun c => { c with phase := .sstep, sstepLc := c.lc.toNat }
def execSstep (exchange : Bool) (s : State) : Host.Outcome State Fault Refusal := (opSstep exchange).run (.sstep exchange) s

/-- ENDT issues: the task is held until its accesses are complete (R143); a deferred report of the task that has not been taken is taken in its
place (R352, R377, R407). -/
def opEndt : SlotOp :=
  { slot := 0, takes := fun s => s.me.allReports,
    act := fun s => (s.flushTask s.cur).updMe fun c => { c with phase := .ending } }
def execEndt (s : State) : Host.Outcome State Fault Refusal := opEndt.run .endt s

/-! ## Fences and channel waits (R145-R147) -/

def opFence (kind : FenceKind) (sco : Scope) : SlotOp := ctl fun s => s.fence s.cur kind sco
def execFence (kind : FenceKind) (sco : Scope) (s : State) : Host.Outcome State Fault Refusal := (opFence kind sco).run (.fence kind sco) s

def opQmark : SlotOp := ctl fun s => s.qmark s.cur
def execQmark (s : State) : Host.Outcome State Fault Refusal := opQmark.run .qmark s

/-- The counter has reached the threshold in modulo-2^48 order (R147). -/
def channelReached (cnt thr : BitVec 48) : Bool := (cnt - thr).toNat < 2 ^ 47

/-- The wait of a WAITC. -/
def waitcWait (c : Core) (ch : Chan) (thr : BitVec 48) : List Wait :=
  if channelReached c.chcnt[ch] thr then []
  else [{ sub := 9, info0 := thr.setWidth 64, info1 := (c.chcnt[ch]).setWidth 64, addr := BitVec.ofNat 64 ch.val }]

def opWaitcImm (ch : Chan) (imm : BitVec 38) : SlotOp := { slot := 0, wait := fun s => waitcWait s.me ch (imm.setWidth 48), act := id }
def execWaitcImm (ch : Chan) (imm : BitVec 38) (s : State) : Host.Outcome State Fault Refusal := (opWaitcImm ch imm).run (.waitcImm ch imm) s

def opWaitcReg (ch : Chan) (a : SReg) : SlotOp :=
  { slot := 0, reads := [rS a], wait := fun s => waitcWait s.me ch (low48 (s.me.rdS a)), act := id }
def execWaitcReg (ch : Chan) (a : SReg) (s : State) : Host.Outcome State Fault Refusal := (opWaitcReg ch a).run (.waitcReg ch a) s

/-! ## Traps and their return (R148-R150) -/

/-- TRAP: taken when the other slots have committed and LC has advanced; next_pc is that of its bundle, at `pc`. -/
def opTrap (code : BitVec 8) : SlotOp :=
  { slot := 0, act := id,
    after := fun pc s =>
      let next := (s.setMe { s.me with pc := pc }).nextPc s.cur
      s.trap s.cur { cause := 0x22, sub := code.toNat } next s.me.lc }
def execTrap (code : BitVec 8) (s : State) : Host.Outcome State Fault Refusal := (opTrap code).run (.trap code) s

/-- RFT: back to TRAPPC (R149). -/
def opRft : SlotOp :=
  { slot := 0, act := fun s => s.updMe fun c => { c.branch c.trap.pc false with inh := false }
    check := fun s => if s.me.inh then none else some { cause := 3, sub := 1 } }
def execRft (s : State) : Host.Outcome State Fault Refusal := opRft.run .rft s

/-- Every register of S and P. -/
def allSP : List Reg := (List.range 64).map Reg.s ++ (List.range 16).map Reg.p

/-- Cluster accesses of a core that are to write S registers deliver nothing any more: a later write of those registers stands. -/
def State.keepNoS (s : State) (k : Nat) : State :=
  { s with clAccs := s.clAccs.map fun a =>
      match a.dest with
      | some (.s _) => if a.core == k then { a with keep := 0 } else a
      | _ => a }

/-- REWIND: S, P, the PC and LC of the last restart point (R150). It writes every S and P, so it waits for late writes to them (R29). Results in
flight take effect before the restoration. The REWIND and the bundle before it are the two bundles before those that follow (R40). -/
def opRewind : SlotOp :=
  { slot := 0, writes := allSP, act := id,
    check := fun s =>
      if s.me.inh && s.me.shadow.pc ≠ 0 then none
      else some { cause := 3, sub := 2, info1 := s.me.shadow.pc }
    after := fun pc s =>
      ((s.commitAll s.cur).keepNoS s.cur).updMe fun c =>
        { c with s := c.shadow.s, p := c.shadow.p, inh := false, pc := c.shadow.pc, lc := c.shadow.lc, loops := [], jump := none,
                 branchFrom := some pc, fellFrom := none, stickyNow := (0, 0),
                 pvis := Vector.replicate 16 0, busyUntil := 0, accAfter := [] } }
def execRewind (s : State) : Host.Outcome State Fault Refusal := opRewind.run .rewind s

/-! ## Control and status registers (R151-R157) -/

/-- csr[n] as the core reads it. -/
def State.csrRead (s : State) (n : Nat) : Word :=
  let c := s.me
  let gn := s.recordPlace s.cur
  let place := s.placeOf s.cur
  if n = 0x000 then BitVec.ofNat 64 s.cur
  else if n = 0x001 then BitVec.ofNat 64 (place.1 * 256 + place.2)
  else if n = 0x002 then s.deviceId.setWidth 64
  else if n = 0x003 then BitVec.ofNat 64 (gn.1 * 2 ^ 32 + gn.2)
  else if n = 0x004 then (s.node.map (·.seed)).getD 0
  else if n = 0x005 then c.lc
  else if n = 0x010 then c.trapvec
  else if n = 0x011 then c.trap.cause
  else if n = 0x012 then c.trap.pc
  else if n = 0x013 then c.trap.lc
  else if n = 0x014 then c.trap.addr
  else if n = 0x015 then c.trap.info0
  else if n = 0x016 then c.trap.info1
  else if n = 0x017 then c.trap.opc
  else if n = 0x020 then c.shadow.pc
  else if n = 0x021 then c.shadow.lc
  else if n = 0x030 then c.corectl s.cov
  else if n = 0x031 then c.sticky.setWidth 64
  else if h : 0x040 ≤ n ∧ n ≤ 0x047 then (c.chcnt[n - 0x40]'(by omega)).setWidth 64
  else if h : 0x080 ≤ n ∧ n ≤ 0x08F then c.tcfg[n - 0x80]'(by omega)
  else 0

/-- The register of the map that a CSR number names, for waits and the scoreboard: TCFG alone. -/
def csrReg (n : Nat) : List Reg := if 0x80 ≤ n && n ≤ 0x8F then [.tcfg (n - 0x80)] else []

/-- CSRR (R151). -/
def opCsrr (d : SReg) (csr : Fin 4096) : SlotOp :=
  { slot := 0, reads := (csrReg csr.val).map fun r => (r, 0), writes := [.s d.val], act := fun s => s.putS 0 d (s.csrRead csr.val) 1 }
def execCsrr (d : SReg) (csr : Fin 4096) (s : State) : Host.Outcome State Fault Refusal := (opCsrr d csr).run (.csrr d csr) s

/-- CSRW: STICKY's clear acts before any set of the same logical cycle (R152); other registers change 1 lc later. -/
def State.csrWrite (s : State) (n : Nat) (v : Word) : State :=
  if n = 0x031 then
    s.updMe fun c =>
      let kept := if c.stickyNow.1 = c.lc.toNat then c.stickyNow.2 else 0
      { c with sticky := (c.sticky &&& ~~~(v.setWidth 2)) ||| (c.sticky &&& kept) }
  else s.updMe (·.later 1 0 (.csr n v))

def opCsrw (csr : Fin 4096) (a : SReg) : SlotOp :=
  { slot := 0, reads := [rS a], writes := csrReg csr.val, act := fun s => s.csrWrite csr.val (s.me.rdS a) }
def execCsrw (csr : Fin 4096) (a : SReg) (s : State) : Host.Outcome State Fault Refusal := (opCsrw csr a).run (.csrw csr a) s

/-- LCRD: S[D] := LC of this bundle (R151). -/
def opLcrd (d : SReg) : SlotOp := { slot := 0, writes := [.s d.val], act := fun s => s.putS 0 d s.me.lc 1 }
def execLcrd (d : SReg) (s : State) : Host.Outcome State Fault Refusal := (opLcrd d).run (.lcrd d) s

/-! ## Predicates (R158, R159) -/

def opPlog (pd pa pb : PReg) (fn : BitVec 4) : SlotOp :=
  { slot := 0, reads := [rP pa, rP pb], writes := [.p pd.val], act := fun s => s.putP 0 pd (logicFn fn (s.me.rdP pa) (s.me.rdP pb)) 1 }
def execPlog (pd pa pb : PReg) (fn : BitVec 4) (s : State) : Host.Outcome State Fault Refusal := (opPlog pd pa pb fn).run (.plog pd pa pb fn) s

/-- The registers of a predicate mask. -/
def maskPregs (mask : BitVec 16) : List PReg := (List.finRange 16).filter fun i => mask.getLsbD i.val

/-- P as a number, P0 reading true. -/
def Core.predBits (c : Core) : BitVec 16 := c.p ||| 1

def opMovps (d : SReg) (mask : BitVec 16) : SlotOp :=
  { slot := 0, reads := (maskPregs mask).map rP, writes := [.s d.val], act := fun s => s.putS 0 d ((s.me.predBits &&& mask).setWidth 64) 1 }
def execMovps (d : SReg) (mask : BitVec 16) (s : State) : Host.Outcome State Fault Refusal := (opMovps d mask).run (.movps d mask) s

/-- MOVSP: each masked predicate above P0. -/
def opMovsp (a : SReg) (mask : BitVec 16) : SlotOp :=
  { slot := 0, reads := [rS a], writes := (maskPregs mask).map fun i => .p i.val,
    act := fun s => (maskPregs mask).foldl (fun t i => t.putP 0 i ((s.me.rdS a).getLsbD i.val) 1) s }
def execMovsp (a : SReg) (mask : BitVec 16) (s : State) : Host.Outcome State Fault Refusal := (opMovsp a mask).run (.movsp a mask) s

end Sys2Proof.Machine
end

