-- ==== Sys2Proof/Machine/Fabric.lean ====
section
/-! DEFINITION. F slot: messages on circuits, tile messages, and the engine commands of the collective engine and the kilns
(R232-R246, R261, R365, R383, R461). -/

namespace Sys2Proof.Machine

/-! ## Circuits -/

def State.circuitOf (s : State) (n : Nat) : Option Circuit := s.circuits.find? fun c => c.id == n

def State.updCircuit (s : State) (n : Nat) (f : Circuit → Circuit) : State :=
  { s with circuits := s.circuits.map fun c => if c.id == n then f c else c }

/-- The role check of R232, by the end on this device. -/
def roleTrap (s : State) (circ : Circ) (send : Bool) : Option Trap :=
  let ok := match s.circuitOf circ.val with
    | some c => if send then c.shere && c.stask == s.cur else c.rhere && c.rtask == s.cur
    | none => false
  if ok then none else some { cause := 3, sub := 3, info1 := BitVec.ofNat 64 circ.val }

/-- Flits queued on a circuit. -/
def State.queued (s : State) (circ : Circ) : Nat := ((s.circuitOf circ.val).map fun c => c.out.length).getD 0

/-- A message enters its circuit's send buffer, behind what the fences before it order (R261, R461). Its number orders the circuits
of a cluster's LOCAL port. -/
def State.post_ (s : State) (m : Message) : State :=
  let deps := s.openDeps s.me.ordMsgs
  let n := s.nextId
  let lc := m.stamp.toNat
  let flits := (messageFlits m).map fun f => ({ f with order := n, arrive := lc + 1 }, deps)
  { s.updCircuit m.circ (fun c =>
      { c with
        out := c.out ++ flits
        sentOrd := c.sentOrd + 1
        carry := if c.rhere && c.shere && m.kind != 2 then c.carry ++ [(s.cur, s.me.fences.1, s.me.fences.2)] else c.carry }) with nextId := n + 1 }

/-- A message of the task that issues the bundle. -/
def State.message (s : State) (circ : Circ) (kind len fmt : Nat) (payload : List (BitVec 512)) : Message :=
  { circ := circ.val, stamp := s.me.lc, kind := kind, len := len, fmt := fmt, sdev := s.deviceId.toNat, stask := s.cur, cstep := 0, payload := payload }

/-! ## Register messages (R237) -/

/-- The payload flits of the first n words of a register. -/
def wordPayload (n : Nat) (v : BitVec 2048) : List (BitVec 512) :=
  payloads (ceilDiv n 16) (leBytes (4 * n) (v.toNat % 2 ^ (32 * n)))

def opSend (v : VReg) (circ : Circ) (ln : Fin 64) : SlotOp :=
  { slot := 5, reads := [rV v],
    wait := fun s =>
      if (roleTrap s circ true).isSome || s.queued circ + (ceilDiv (ln.val + 1) 16 + 2) ≤ 16 then []
      else [{ sub := 8, info0 := BitVec.ofNat 64 circ.val, info1 := BitVec.ofNat 64 (s.queued circ) }]
    check := fun s => roleTrap s circ true,
    act := fun s => s.post_ (s.message circ 0 (ln.val + 1) 0 (wordPayload (ln.val + 1) (s.me.rdV v))) }
def execSend (v : VReg) (circ : Circ) (lanes : Fin 64) (s : State) : Host.Outcome State Fault Refusal := (opSend v circ lanes).run (.send v circ lanes) s

/-- The oldest message of a circuit, once it has checked. -/
def State.arrived (s : State) (circ : Circ) : Option Message :=
  match (s.circuitOf circ.val).bind (·.rx.head?) with
  | some (.ready m) => some m
  | _ => none

def expectStamp (lc : Word) (delta : BitVec 24) : Word := lc - delta.signExtend 64

/-- The wait for a message (R29, R357). -/
def recvWait (s : State) (circ : Circ) (delta : BitVec 24) : List Wait :=
  if (roleTrap s circ false).isSome || (s.arrived circ).isSome then []
  else [{ sub := 2, info0 := expectStamp s.me.lc delta, addr := BitVec.ofNat 64 circ.val }]

/-- check_message (R235, R365). -/
def checkMessage (s : State) (circ : Circ) (delta : BitVec 24) (kind : Nat) (len : Option Nat) : Option Trap :=
  match s.arrived circ with
  | none => none
  | some m =>
    if m.stamp ≠ expectStamp s.me.lc delta then
      some { cause := 0x15, sub := 1, info0 := expectStamp s.me.lc delta, info1 := m.stamp, addr := BitVec.ofNat 64 circ.val }
    else if m.kind ≠ kind || (len.any fun n => n != m.len) then
      some { cause := 0x15, sub := 2, info0 := BitVec.ofNat 64 (len.getD 0), info1 := BitVec.ofNat 64 m.len, addr := BitVec.ofNat 64 circ.val }
    else none

/-- The message is consumed. What the fences before it order happens before what the task issues from here on (R261, R263). -/
def State.consume (s : State) (circ : Circ) : State :=
  let l := match (s.circuitOf circ.val).bind (·.carry.head?) with
    | some x => s.carried x.1 x.2.1 x.2.2
    | none => []
  (s.updCircuit circ.val fun c => { c with rx := c.rx.tail, carry := c.carry.tail }).sees s.cur s.nextId l

/-- The words of a register message as lanes. -/
def messageLanes (m : Message) : BitVec 2048 := BitVec.ofNat 2048 (packNat 512 (m.payload.map (·.toNat)))

def opRecv (v : VReg) (circ : Circ) (delta : BitVec 24) (ln : Fin 64) : SlotOp :=
  { slot := 5, writes := [.v v.val], wait := fun s => recvWait s circ delta, check := fun s => roleTrap s circ false,
    last := fun s => checkMessage s circ delta 0 (some (ln.val + 1)),
    act := fun s =>
      match s.arrived circ with
      | none => s
      | some m => (s.consume circ).putV 5 v (maskOf (fun _ => true) (ln.val + 1)) (messageLanes m) 1 }
def execRecv (v : VReg) (circ : Circ) (delta : BitVec 24) (lanes : Fin 64) (s : State) : Host.Outcome State Fault Refusal := (opRecv v circ delta lanes).run (.recv v circ delta lanes) s

/-! ## Tile messages (R238, R239) -/

/-- One 64-byte unit of a tile. -/
def State.tileUnit (s : State) (k tile i : Nat) : BitVec 512 := BitVec.ofNat 512 ((s.core k).readNat (tile * 4096 + 64 * i) 64)

def opSendt (tile : TileIx) (circ : Circ) : SlotOp :=
  { slot := 5, tiles := fun _ => [tile.val], hands := some (tile.val, 2), check := fun s => roleTrap s circ true,
    looks := fun _ => [(4096 * tile.val, 4096)],
    act := fun s =>
      let data := (List.range 64).map (s.tileUnit s.cur tile.val)
      let fmt := (s.me.tile tile.val).fmt
      let io : TileIo := { core := s.cur, tile := tile.val, out := true, fmt := fmt, unit := 0, data := data, order := s.nextId }
      let s := (s.updMe fun c => c.handOff tile.val true 64 c.pc).post_ (s.message circ 1 64 fmt data)
      { s with tileIo := s.tileIo ++ [io] } }
def execSendt (tile : TileIx) (circ : Circ) (s : State) : Host.Outcome State Fault Refusal := (opSendt tile circ).run (.sendt tile circ) s

def opRecvt (tile : TileIx) (circ : Circ) (delta : BitVec 24) : SlotOp :=
  { slot := 5, tiles := fun _ => [tile.val], hands := some (tile.val, 2), wait := fun s => recvWait s circ delta,
    check := fun s => roleTrap s circ false, last := fun s => checkMessage s circ delta 1 none,
    act := fun s =>
      match s.arrived circ with
      | none => s
      | some m =>
        let io : TileIo := { core := s.cur, tile := tile.val, out := false, fmt := m.fmt, unit := 0, data := m.payload, order := s.nextId }
        let s := (s.consume circ).updMe fun c => c.handOff tile.val false m.len c.pc
        { s with tileIo := s.tileIo ++ [io], nextId := s.nextId + 1 } }
def execRecvt (tile : TileIx) (circ : Circ) (delta : BitVec 24) (s : State) : Host.Outcome State Fault Refusal := (opRecvt tile circ delta).run (.recvt tile circ delta) s

/-- The payload of rows of a queue: 4 units each. -/
def rowsPayload (rows : List QRow) : List (BitVec 512) := rows.flatMap fun r => (unpackNat 512 4 r.words.toNat).map (BitVec.ofNat 512)

def opQsend (q : QReg) (circ : Circ) (nrow : Fin 128) : SlotOp :=
  { slot := 5, pops := some (q, nrow.val + 1), check := fun s => roleTrap s circ true,
    act := fun s =>
      let rows := (s.me.queue q).take (nrow.val + 1)
      (s.popQueue q (nrow.val + 1)).post_ (s.message circ 1 (4 * (nrow.val + 1)) 0 (rowsPayload rows)) }
def execQsend (q : QReg) (circ : Circ) (nrow : Fin 128) (s : State) : Host.Outcome State Fault Refusal := (opQsend q circ nrow).run (.qsend q circ nrow) s

/-! ## Engine commands (R240-R245) -/

/-- Collective template n of the image a core runs; above COUNT it is all zeros (R457). -/
def State.collTemplate (s : State) (k n : Nat) : BitVec 512 := (((s.imageOf k).map (·.collT)).getD []).getD n 0

/-- Fields of a collective template's first word (R314). -/
def collIssuer (t : BitVec 512) : Nat := bits t.toNat 48 9
def collDinc (t : BitVec 512) : Nat := bits t.toNat 16 8

def opColl (tmpl : Fin 256) (a : SReg) (ch : Chan) (inc : Fin 256) : SlotOp :=
  { slot := 5, reads := [rS a], place := fun _ => true,
    check := fun s =>
      if collIssuer (s.collTemplate s.cur tmpl.val) = s.cur then none
      else some { cause := 3, sub := 3, info1 := BitVec.ofNat 64 tmpl.val }
    act := fun s =>
      let t := s.collTemplate s.cur tmpl.val
      s.command (.coll tmpl.val (toSigned 48 (bits (s.me.rdS a).toNat 0 48))) ch (if inc.val = 0 then collDinc t else inc.val) }
def execColl (tmpl : Fin 256) (a : SReg) (ch : Chan) (inc : Fin 256) (s : State) : Host.Outcome State Fault Refusal := (opColl tmpl a ch inc).run (.coll tmpl a ch inc) s

/-- A kiln command (R245). -/
def kilnOp (a : SReg) (ch : Chan) (inc : Fin 256) (kind : Word → CmdKind) : SlotOp :=
  { slot := 5, reads := [rS a], place := fun _ => true, check := fun s => alignFault2 (s.me.rdS a).toNat 64,
    act := fun s => s.command (kind (s.me.rdS a)) ch inc.val }

def opKsrch (a : SReg) (stk : Fin 8) (ch : Chan) (inc : Fin 256) : SlotOp := kilnOp a ch inc fun x => .ksrch x stk.val
def execKsrch (a : SReg) (stk : Fin 8) (ch : Chan) (inc : Fin 256) (s : State) : Host.Outcome State Fault Refusal := (opKsrch a stk ch inc).run (.ksrch a stk ch inc) s
def opKred (a : SReg) (stk : Fin 8) (ch : Chan) (inc : Fin 256) : SlotOp := kilnOp a ch inc fun x => .kred x stk.val
def execKred (a : SReg) (stk : Fin 8) (ch : Chan) (inc : Fin 256) (s : State) : Host.Outcome State Fault Refusal := (opKred a stk ch inc).run (.kred a stk ch inc) s
def opKop (a : SReg) (stk : Fin 8) (ch : Chan) (inc : Fin 256) : SlotOp := kilnOp a ch inc fun x => .kop x stk.val
def execKop (a : SReg) (stk : Fin 8) (ch : Chan) (inc : Fin 256) (s : State) : Host.Outcome State Fault Refusal := (opKop a stk ch inc).run (.kop a stk ch inc) s

end Sys2Proof.Machine
end

