-- ==== Sys2Proof/Machine/Image.lean ====
section
/-! DEFINITION. Images in device memory: their reading and checks (R302, R314, R329, R330, R355, R457, R460), the placement draw
(R20-R24) and the binding of windows (R94). -/

namespace Sys2Proof.Machine

/-! ## Reading through translate -/

/-- Why an image does not load: a refusal (R355) or a page of host space that is awaited. -/
inductive LoadErr where
  | refuse (sub off info0 info1 : Nat)
  | miss (va : Nat)
  deriving DecidableEq, Repr

/-- The pseudo-cluster by whose caches the command core translates. -/
def cmdCluster : Nat := clusterOf cmdKey

/-- n bytes at an address in a slot's context, piece by piece within 64-byte blocks; `base` is the image base from which the offset of
a failure is counted. -/
def State.readVa (s : State) (slot base : Nat) : Nat → Nat → Nat → Except LoadErr (List Byte)
  | 0, _, _ => .ok []
  | fuel + 1, va, n =>
    if n = 0 then .ok []
    else
      let k := min n (64 - va % 64)
      let bad (cause sub : Nat) : Except LoadErr (List Byte) := .error (.refuse 0x17 ((va - base) % 2 ^ 64) (cause * 256 + sub) va)
      if 2 ^ 57 ≤ va then bad 0x30 1
      else
        match s.translate cmdCluster slot va k with
        | .fault f => bad f.cause f.sub
        | .miss => .error (.miss va)
        | .ok x =>
          if !x.host && s.spoilt x.key k then bad 0x50 5
          else
            let here := if x.host then leBytes k (Config.freeBits s.free va) else s.memBytes x.key k
            match State.readVa s slot base fuel (va + k) (n - k) with
            | .ok r => .ok (here ++ r)
            | .error e => .error e

/-- n bytes at an address. -/
def State.readAt (s : State) (slot base va n : Nat) : Except LoadErr (List Byte) := s.readVa slot base (n / 64 + 2) va n

/-- n bytes read as words of 64 bits, whose address is a multiple of 8 (R202, R330). -/
def State.readWords (s : State) (slot base va n : Nat) : Except LoadErr (List Byte) :=
  if va % 8 ≠ 0 then .error (.refuse 0x17 ((va - base) % 2 ^ 64) 0x3301 va) else s.readAt slot base va n

/-! ## Parts of an image -/

/-- n bytes of an image at an offset. -/
def part (img : List Byte) (off n : Nat) : List Byte := (img.drop off).take n
/-- The 64-bit words of a part. -/
def words64 (img : List Byte) (off n : Nat) : List Nat := unpackNat 64 n (leNat (part img off (8 * n)))

/-- One section of the header (R329): OFFSET and COUNT. -/
structure Section where
  off : Nat
  count : Nat
  deriving DecidableEq, Repr

/-- Section i: dictionary, directory, task table, primary and backup tables, copy and collective templates, circuits, windows,
constant block, code. -/
def headerSection (h : List Nat) (i : Nat) : Section := { off := bits (h.getD (4 + i) 0) 32 32, count := bits (h.getD (4 + i) 0) 0 32 }

/-- The bytes of a section's items. -/
def sectionBytes (i count : Nat) : Nat :=
  match i with
  | 0 => 48 * count
  | 1 | 2 | 8 => 8 * count
  | 3 | 4 => if count = 0 then 0 else 32768
  | 5 | 6 => 64 * count
  | 7 => 16 * count
  | _ => count

/-- COUNTs whose range the header checks (R457); those of tables, templates and circuits are checked with their sections. -/
def headerCount (h : List Nat) (i : Nat) : Bool :=
  let c := (headerSection h i).count
  match i with
  | 0 => c == bits (h.getD 1 0) 0 14
  | 1 => decide (1 ≤ c) && decide (c ≤ 4096)
  | 2 => c == 384
  | 8 => c == 8
  | _ => true

def tableCount (h : List Nat) (i : Nat) : Bool :=
  let c := (headerSection h i).count
  match i with
  | 3 | 4 => c == 0 || c == 13
  | 5 | 6 | 7 => decide (c ≤ 256)
  | _ => true

/-- LAUNCH step 1: the header's words, against ISIZE. -/
def headerCheck (h : List Nat) : Option (Nat × Nat) :=
  let w (i : Nat) : Nat := h.getD i 0
  let isize := bits (w 1) 32 32
  if w 0 ≠ 0x594C4731 * 2 ^ 32 + 2 ^ 16 + 256 then some (0x10, 0)
  else if isize % 64 ≠ 0 || isize < 256 || 8192 < bits (w 1) 0 14 || bits (w 1) 14 18 ≠ 0 then some (0x10, 8)
  else if bits (w 2) 48 16 = 0 || bits (w 2) 42 2 = 3 || 2 ≤ bits (w 2) 39 2 || bits (w 2) 0 39 ≠ 0 then some (0x10, 16)
  else
    (((List.range 13).find? fun i => w (15 + i) != 0).map fun i => (0x10, 8 * (15 + i)))
      <|> (((List.range 11).find? fun i => !headerCount h i).map fun i => (0x10, 32 + 8 * i))
      <|> (List.range 11).findSome? fun i =>
        let x := headerSection h i
        if x.off % 64 ≠ 0 || (x.count = 0 && x.off ≠ 0) then some (0x10, 32 + 8 * i)
        else if x.count ≠ 0 && isize < x.off + sectionBytes i x.count then some (0x12, 32 + 8 * i)
        else none

/-- LAUNCH step 2: SIG over the image with words 28-31 as zero. -/
def sigOk (img : List Byte) : Bool := sha256 (part img 0 224 ++ List.replicate 32 0 ++ img.drop 256) == part img 224 32

/-! ## Items -/

/-- A slot-table entry's byte for an output (R302). -/
def outByteOk (ports b : Nat) : Bool :=
  bits b 6 2 != 3 && (if bits b 6 2 = 1 then decide (bits b 0 6 < ports) else bits b 0 6 == 0)

/-- A second input of the backup plane (R302). -/
def minByteOk (b : Nat) : Bool := !bit b 6 && decide (bits b 0 6 < 26)

def clusterEntryOk (e : Nat) : Bool := ((List.range 4).all fun i => outByteOk 4 (bits e (8 * i) 8)) && bits e 32 32 == 0

def hubEntryOk (backup : Bool) (e : Nat) : Bool :=
  ((List.range 26).all fun i => outByteOk 26 (bits e (8 * i) 8))
    && (if backup then (List.range 6).all fun i => minByteOk (bits e (208 + 8 * i) 8) else bits e 208 48 == 0)

/-- The entries of router r in a table section: 256 numbers. -/
def routerTable (img : List Byte) (x : Section) (r : Nat) : List Nat :=
  if x.count = 0 then []
  else if r < 12 then words64 img (x.off + 2048 * r) 256
  else unpackNat 256 256 (leNat (part img (x.off + 24576) 8192))

/-- The offset of the first table entry that breaks R302. -/
def tableBad (img : List Byte) (x : Section) (backup : Bool) : Option Nat :=
  if x.count = 0 then none
  else
    ((List.range 12).findSome? fun r => ((routerTable img x r).findIdx? fun e => !clusterEntryOk e).map fun i => x.off + 2048 * r + 8 * i)
      <|> ((routerTable img x 12).findIdx? fun e => !hubEntryOk backup e).map fun i => x.off + 24576 + 32 * i

/-- A collective template that breaks R314; one whose word 0 is zero is not held. -/
def collBad (t : List Nat) : Bool :=
  let w (i : Nat) : Nat := t.getD i 0
  let w0 := w 0
  let kind := bits w0 0 2
  let fmt := bits w0 12 4
  let skind := bit w0 6
  let dkind := bit w0 7
  w0 != 0 &&
    (bits w0 57 7 != 0 || bits w0 2 4 != 0 || decide (bits w0 24 8 < 2) || bits w0 16 8 == 0 || bits w0 10 2 == 3
      || decide (384 ≤ bits w0 48 9) || (if kind < 2 then fmt != 1 && fmt != 2 else decide (9 < fmt)) || (2 ≤ kind && bits w0 8 2 != 0)
      || (skind && (w 2 % 64 != 0 || bits (w 1) 0 32 != 0)) || (dkind && (w 3 % 64 != 0 || bits (w 1) 32 32 != 0))
      || bits (w 4) 32 32 == 0 || decide (2 ^ 28 < bits (w 4) 32 32) || w 5 % 2 != 0 || bits (w 6) 16 48 != 0 || bits (w 6) 0 16 == 0
      || w 7 != 0)

/-- A circuit record (R460) that follows those below `low`. -/
def circuitBad (low : Nat) (w0 w1 : Nat) : Bool :=
  decide (bits w0 0 8 < low) || w1 != 0 || bits w0 10 8 != 0 || bits w0 36 16 == 0 || (bits w0 8 2 == 0 && bits w0 52 12 == 0)
    || (decide (384 ≤ bits w0 18 9) && bits w0 18 9 != 0x1FF) || (decide (384 ≤ bits w0 27 9) && bits w0 27 9 != 0x1FF)

def circuitOfWord (w : Nat) : Circuit :=
  { id := bits w 0 8, links := BitVec.ofNat 12 (bits w 52 12), lat := bits w 36 16, rtask := bits w 27 9, stask := bits w 18 9,
    rhere := bit w 9, shere := bit w 8 }

/-- The index of the first record that breaks R460, from record `i` on. -/
def circuitsBad (low i : Nat) : List (BitVec 128) → Option Nat
  | [] => none
  | r :: l =>
    let w0 := bits r.toNat 0 64
    if circuitBad low w0 (bits r.toNat 64 64) then some i else circuitsBad (bits w0 0 8 + 1) (i + 1) l


/-- The end of the code words of the segment whose header lies at an offset. -/
def segmentEnd (img : List Byte) (o : Nat) : Nat := o + 16 + 2 * leNat (part img (o + 8) 2)

/-- The first directory word that breaks R110 and R457, or the header's word of a code section that does not run from the lowest segment header to the end
of the last segment's code words: sub-cause and offset. -/
def directoryBad (img : List Byte) (dir : List Nat) (sec code : Section) : Option (Nat × Nat) :=
  let at_ (sub i : Nat) : Nat × Nat := (sub, sec.off + 8 * i)
  ((dir.findIdx? fun o => bits o 57 7 != 0).map (at_ 0x10))
    <|> ((List.range (dir.length - 1)).find? fun i => decide (dir.getD (i + 1) 0 ≤ dir.getD i 0)).map (fun i => at_ 0x10 (i + 1))
    <|> (dir.findIdx? fun o =>
      decide (o < code.off) || decide (code.off + code.count < o + 16) || decide (code.off + code.count < segmentEnd img o)).map (at_ 0x12)
    <|> (if dir.getD 0 0 = code.off && (dir.map (segmentEnd img)).foldl max 0 == code.off + code.count then none else some (0x10, 112))

/-- A copy template whose zero field is not zero: its word 0 [63:60], and the handle of a source or a destination that is local (R222, R460). -/
def copyBad (t : Nat) : Bool := bits t 60 4 != 0 || (bit t 0 && bits t 128 32 != 0) || (bit t 1 && bits t 160 32 != 0)

/-! ## LAUNCH steps 1, 2 and 4 -/

/-- An image as loaded: the tables of the routers are the numbers of R302. -/
structure Loaded where
  image : Image
  circuits : List Circuit
  primary : List (List Nat)
  backup : List (List Nat)
  /-- Offset of the window list, its words, and the constant block. -/
  winOff : Nat
  wins : List Nat
  const : Section

/-- Step 4: the items of a whole image. -/
def loadItems (img : List Byte) (base : Nat) : Except LoadErr Loaded :=
  let h := words64 img 0 32
  let sec := headerSection h
  let bad (sub off : Nat) : Except LoadErr Loaded := .error (.refuse sub off 0 0)
  let dir := words64 img (sec 1).off (sec 1).count
  let tasks := words64 img (sec 2).off 384
  let copy := unpackNat 512 (sec 5).count (leNat (part img (sec 5).off (64 * (sec 5).count)))
  let coll := unpackNat 512 (sec 6).count (leNat (part img (sec 6).off (64 * (sec 6).count)))
  let circ := (unpackNat 128 (sec 7).count (leNat (part img (sec 7).off (16 * (sec 7).count)))).map (BitVec.ofNat 128)
  let wins := words64 img (sec 8).off 8
  match (List.range 11).find? fun i => !tableCount h i with
  | some i => bad 0x13 (32 + 8 * i)
  | none =>
  match directoryBad img dir (sec 1) (sec 10) with
  | some (sub, off) => bad sub off
  | none =>
  match tasks.findIdx? fun w => bits w 57 6 != 0 with
  | some i => bad 0x10 ((sec 2).off + 8 * i)
  | none =>
  match tableBad img (sec 3) false <|> tableBad img (sec 4) true with
  | some off => bad 0x13 off
  | none =>
  match copy.findIdx? copyBad with
  | some i => bad 0x13 ((sec 5).off + 64 * i)
  | none =>
  match coll.findIdx? fun t => collBad (unpackNat 64 8 t) with
  | some i => bad 0x13 ((sec 6).off + 64 * i)
  | none =>
  match circuitsBad 0 0 circ with
  | some i => bad 0x13 ((sec 7).off + 16 * i)
  | none =>
  match wins.findIdx? fun w => bits w 0 2 == 3 || bits w 2 6 != 0 || bits w 11 53 != 0 with
  | some i => bad 0x10 ((sec 8).off + 8 * i)
  | none =>
    let w2 := h.getD 2 0
    .ok
      { image :=
          { base := base, patience := bits w2 48 16, cov := bits w2 42 2, dclass := bit w2 41, summap := bits w2 44 4, pclass := bits w2 39 2,
            domtag := BitVec.ofNat 64 (h.getD 3 0),
            dict := (unpackNat 384 (sec 0).count (leNat (part img (sec 0).off (48 * (sec 0).count)))).map (BitVec.ofNat 384),
            dir := dir, entries := tasks.map fun w => if bit w 63 then some (bits w 0 57) else none,
            copyT := copy.map (BitVec.ofNat 512),
            collT := coll.map (BitVec.ofNat 512), sig := BitVec.ofNat 256 (leNat (part img 224 32)) }
        circuits := circ.map fun r => circuitOfWord (bits r.toNat 0 64)
        primary := (List.range 13).map (routerTable img (sec 3))
        backup := (List.range 13).map (routerTable img (sec 4))
        winOff := (sec 8).off, wins := wins, const := sec 9 }

/-- Steps 1 and 2: the whole image, checked against its header. -/
def State.readImage (s : State) (slot base : Nat) : Except LoadErr (List Byte) :=
  match s.readWords slot base base 256 with
  | .error e => .error e
  | .ok hb =>
    let h := words64 hb 0 32
    match headerCheck h with
    | some (sub, off) => .error (.refuse sub off 0 0)
    | none =>
      match s.readAt slot base base (bits (h.getD 1 0) 32 32) with
      | .error e => .error e
      | .ok img => if sigOk img then .ok img else .error (.refuse 0x11 224 0 0)

/-! ## Windows (R94, R330 step 7) -/

/-- A bind that fails is refused with sub-cause 0x15. -/
def bindErr (off : Nat) : LoadErr → LoadErr
  | .refuse _ _ _ _ => .refuse 0x15 off 0 0
  | e => e

/-- The window with its first 4 KiB as they stand. -/
def State.fillWindow (s : State) (slot : Nat) (handle : BitVec 32) (base off size : Nat) : Except LoadErr (Option BoundWindow) :=
  match s.readAt slot (base + off) ((base + off) % 2 ^ 64) (min size 4096) with
  | .ok l => .ok (some { handle := handle, off := BitVec.ofNat 64 off, size := size, cache := l })
  | .error e => .error e

/-- The range that contains n bytes at an address, through the RSLOT of its page (R98). -/
def State.pageRange (s : State) (slot va n : Nat) : Option Range :=
  match s.leafOf cmdCluster slot va with
  | .error _ => none
  | .ok l =>
    if bit l.pte 63 then
      let r := s.rangeOf cmdCluster slot (bits l.pte 53 10)
      if r.valid && r.holds va && r.holds (va + n - 1) && !r.malformed then some r else none
    else none

/-- One window of the list. -/
def State.bindWindow (s : State) (slot args : Nat) (ld : Loaded) (w : Nat) : Except LoadErr (Option BoundWindow) :=
  if bits w 0 2 = 0 then .ok none
  else if bits w 0 2 = 1 then
    match s.readWords slot args (args + 16 * bits w 8 3) 16 with
    | .error e => .error e
    | .ok l =>
      let x := leNat l
      let h := BitVec.ofNat 32 x
      let r := s.handleRange cmdCluster slot h
      if r.stale h then .error (.refuse 0x15 0 0 0)
      else s.fillWindow slot h r.base (bits x 64 64) (bits x 32 32 + 1)
  else
    let va := ld.image.base + ld.const.off
    match s.pageRange slot va ld.const.count with
    | none => .error (.refuse 0x15 0 0 0)
    | some r =>
      if ld.const.count = 0 then .error (.refuse 0x15 0 0 0)
      else s.fillWindow slot (BitVec.ofNat 32 (r.index + r.gen * 2 ^ 12)) r.base (va - r.base) ld.const.count

/-- The windows of the list from number `i` on. -/
def State.bindWindows (s : State) (slot args : Nat) (ld : Loaded) : Nat → List Nat → Except LoadErr (List (Option BoundWindow))
  | _, [] => .ok []
  | i, w :: r =>
    match s.bindWindow slot args ld w with
    | .error e => .error (bindErr (ld.winOff + 8 * i) e)
    | .ok b =>
      match State.bindWindows s slot args ld (i + 1) r with
      | .error e => .error e
      | .ok l => .ok (b :: l)

/-! ## What the reads of an image meet (R269, R386) -/

/-- The lines of an image: its header, then all of it where the header is good. -/
def State.imageMeets (s : State) (slot base : Nat) : State :=
  let meets (n : Nat) (s : State) : State := State.vaMeets srcCore hostPort cmdCluster slot (n / 64 + 2) base n s
  match s.readWords slot base base 256 with
  | .ok hb =>
    let h := words64 hb 0 32
    if (headerCheck h).isSome then meets 256 s else meets (bits (h.getD 1 0) 32 32) s
  | .error _ => meets 256 s

/-- The lines of what binds one window, and of its first 4 KiB. -/
def State.windowMeets (s : State) (slot : Nat) : Option BoundWindow → State
  | none => s
  | some w =>
    State.vaMeets srcCore hostPort cmdCluster slot 66 (((s.handleRange cmdCluster slot w.handle).base + w.off.toNat) % 2 ^ 64) (min w.size 4096) s

/-- The lines of an image, of its argument block and of the windows it is bound to. -/
def State.launchMeets (s : State) (slot base args : Nat) (windows : List (Option BoundWindow)) : State :=
  let s := s.imageMeets slot base
  let s := if windows.any Option.isSome then State.vaMeets srcCore hostPort cmdCluster slot 4 args 128 s else s
  windows.foldl (fun s w => s.windowMeets slot w) s

/-! ## Placement (R20-R24) -/

/-- The symmetry s; PCLASS 1 fixes it at 0. -/
def symmetry (seed : Word) (node : BitVec 32) (pclass : Nat) : Nat := if pclass = 1 then 0 else drawY0 seed node 384 % 24

def physCluster (sym c : Nat) : Nat := if sym / 12 = 1 then (12 - c + sym % 12) % 12 else (c + sym % 12) % 12

/-- Insertion by draw, then by index. -/
def insertTask (x : Nat × Nat) : List (Nat × Nat) → List (Nat × Nat)
  | [] => [x]
  | y :: r => if x.1 < y.1 || (x.1 = y.1 && x.2 < y.2) then x :: y :: r else y :: insertTask x r

/-- The physical core of each task of one logical cluster. -/
def placeCluster (seed : Word) (node : BitVec 32) (harvested : List (Option Nat)) (sym c : Nat) (tasks : List Nat) : List (Nat × Nat × Nat) :=
  let p := physCluster sym c
  let idle := match harvested.getD p none with
    | some h => h
    | none => drawY0 seed node (385 + p) % 33
  let avail := (List.range 33).filter (· != idle)
  let sorted := ((tasks.filter fun t => clusterOf t == c).map fun t => (drawY0 seed node t, t)).foldl (fun l x => insertTask x l) []
  (sorted.zip avail).map fun x => (x.1.2, p, x.2)

/-- The place of every task index; (255, 255) where there is no task. -/
def placement (seed : Word) (node : BitVec 32) (harvested : List (Option Nat)) (pclass : Nat) (tasks : List Nat) : List (Nat × Nat) :=
  let l := (List.range 12).flatMap fun c => placeCluster seed node harvested (symmetry seed node pclass) c tasks
  (List.range 384).map fun t => ((l.find? fun x => x.1 == t).map (·.2)).getD (255, 255)

/-- The placement digest. -/
def placementDigest (place : List (Nat × Nat)) : BitVec 256 :=
  BitVec.ofNat 256 (leNat (sha256 (place.flatMap fun p => [BitVec.ofNat 8 p.1, BitVec.ofNat 8 p.2])))

end Sys2Proof.Machine
end

