-- ==== Sys2Proof/Machine/Graph.lean ====
section
/-! DEFINITION. The command core: graph slots and their choice, LAUNCH and its refusals, NODEW, SIGH, YIELD, GDONE, saves and restores,
the start of a graph (R48, R161-R165, R247, R248, R324-R331, R355, R457, R458). -/

namespace Sys2Proof.Machine

/-! ## The choice of R48 -/

/-- Slot a goes before slot b. -/
def State.slotBefore (s : State) (a b : Nat) : Bool :=
  let x := s.slot a
  let y := s.slot b
  decide (y.prio < x.prio) || (x.prio == y.prio && (decide (x.lastLaunch < y.lastLaunch) || (x.lastLaunch == y.lastLaunch && decide (a < b))))

def State.slotReady (s : State) (n : Nat) : Bool := (s.slot n).st == .ready || (s.slot n).st == .saved

/-- The slot that the command core takes: among the ready ones and the one it runs. -/
def State.choose (s : State) : Option Nat :=
  ((List.range 64).filter fun n => s.slotReady n || s.graph == some n).foldl (fun b n =>
    match b with
    | none => some n
    | some m => if s.slotBefore n m then some n else some m) none

/-- Another slot wins at a choice point. -/
def State.outvoted (s : State) : Bool := s.choose != s.graph

/-- The running slot is saved at a PC; the save has begun (R327, R328). Fixed-latency results still in flight commit first, so that the saved registers hold
them: the spec does not say (log entry 101). -/
def State.saveSlot (s : State) (pc : Word) : State :=
  match s.graph with
  | none => s
  | some n =>
    let s := s.commitAll cmdKey
    let c := s.core cmdKey
    let regs := (List.range 8).map fun i => (c.s.toList).getD (i + 1) 0
    let s := s.updSlot n fun g => { g with st := .saved, savedPc := pc, savedS := regs, waited := 0 }
    let s := { s with
      savedImages := match s.graphImage with
        | some im => Sparse.insert n im s.savedImages
        | none => s.savedImages }
    let s := s.scribeAt n 8 0 0x1FF 0 pc
    let s := { s with accs := s.accs.map fun (a : Access) => if a.core == cmdKey then { a with abandoned := true } else a }
    { s.setCore cmdKey { Core.idle with lc := c.lc } with graph := none, graphImage := none, cmdBusy := .saving }

/-- A command core that is about to run a graph program, S1 up to S8 given. -/
def cmdCoreAt (lc pc : Word) (regs : List Word) : Core :=
  { Core.idle with phase := .running, lc := lc, pc := pc, s := Vector.ofFn fun i => if 1 ≤ i.val ∧ i.val ≤ 8 then regs.getD (i.val - 1) 0 else 0 }

/-- The record of a launch or a graph start that is refused (R355, R458). -/
def State.refuseRecord (s : State) (slot src : Nat) (base : Word) (node sub off i0 i1 : Nat) : State :=
  let t : Trap := { cause := 4, sub := sub, info0 := BitVec.ofNat 64 i0, info1 := BitVec.ofNat 64 i1, addr := BitVec.ofNat 64 off }
  s.record 0x1FF (s.mkRecord t src 0 true false base 0 0 0 slot node)

/-- A submitted slot is chosen first: its graph program starts (R458). -/
def State.startGraph (s : State) (n : Nat) : State :=
  let g := s.slot n
  let base := g.prog.toNat
  let s1 := s.setSlot n { g with st := .running, launched := 0, recs := [], waited := 0 }
  let s1 := { s1 with graph := some n }
  let ld : Except LoadErr Image := match s.readImage n base with
    | .error e => .error e
    | .ok img =>
      match loadItems img base with
      | .error e => .error e
      | .ok ld =>
        match s.bindWindows n g.args.toNat ld 0 ld.wins with
        | .error e => .error e
        | .ok w => .ok { ld.image with windows := w }
  match ld with
  | .ok im =>
    let s1 := s1.launchMeets n base g.args.toNat im.windows
    let pc := BitVec.ofNat 64 (base + (im.entries.getD 0 none).getD 0)
    { s1.setCore cmdKey (cmdCoreAt (s.core cmdKey).lc pc [g.submitted]) with graphImage := some im }
  | .error (.refuse sub off i0 i1) => ((s1.launchMeets n base g.args.toNat []).refuseRecord n 1 g.prog g.nodeIx.toNat sub off i0 i1).endGraph n 4
  | .error (.miss _) => s

/-- A choice while the command core runs nothing: a submitted slot starts, the restore of a saved one begins once no node runs (R328). -/
def State.choice (s : State) : State :=
  if s.graph.isSome || s.cmdBusy != .free then s
  else
    match s.choose with
    | none => s
    | some n =>
      if (s.slot n).st == .saved then
        if s.node.isSome then s
        else { s.scribeAt n 8 1 0x1FF 0 (s.slot n).savedPc with cmdBusy := .restoring n }
      else s.startGraph n

/-- GRAPH_START (R458). -/
def execGraphStart (s : State) : Host.Outcome State Fault Refusal := .next s.choice

/-- SAVE_COMPLETE: the save ends and the next choice is made (R328). -/
def State.saveComplete (s : State) : State := if s.cmdBusy == .saving then ({ s with cmdBusy := .free }).choice else s
def execSaveComplete (s : State) : Host.Outcome State Fault Refusal := .next s.saveComplete

/-- RESTORE_COMPLETE: the slot's graph program goes on at its saved PC (R165, R328). -/
def State.restoreComplete (s : State) : State :=
  match s.cmdBusy with
  | .restoring n =>
    let g := s.slot n
    let s := s.setSlot n { g with st := .running, waited := 0 }
    { s.setCore cmdKey (cmdCoreAt (s.core cmdKey).lc g.savedPc g.savedS) with
      graph := some n, graphImage := Sparse.find? n s.savedImages, savedImages := Sparse.erase n s.savedImages, cmdBusy := .free }
  | _ => s
def execRestoreComplete (s : State) : Host.Outcome State Fault Refusal := .next s.restoreComplete

/-! ## LAUNCH (R162, R330) -/

/-- Step 3 at service level L1: a valid range of tier 0 (R104). -/
def State.tier0Named (s : State) (slot : Nat) : Bool :=
  (List.range 1024).any fun i => (s.rangeEntry slot i).valid && !(s.rangeEntry slot i).tier

/-- Steps 1-4 and 7: what the launch loads, or why it is refused and whether step 5 has been made. -/
def State.loadNode (s : State) (slot base args : Nat) : Except (LoadErr × Bool) Loaded :=
  match s.readImage slot base with
  | .error e => .error (e, false)
  | .ok img =>
    if s.level = 1 && s.tier0Named slot then .error (.refuse 0x14 0 0 0, false)
    else if 2 ^ 20 ≤ (s.slot slot).recs.length then .error (.refuse 0x16 0 0 0, false)
    else
      match loadItems img base with
      | .error e => .error (e, false)
      | .ok ld =>
        match s.bindWindows slot args ld 0 ld.wins with
        | .error e => .error (e, true)
        | .ok w => .ok { ld with image := { ld.image with windows := w } }

/-- Step 5: scratchpads, accumulator stores and result queues are cleared. -/
def State.clearArrays (s : State) : State :=
  { s with cores := s.cores.map fun p =>
      if p.1 = cmdKey then p
      else (p.1, { p.2 with
        scratch := [], tiles := [], looked := [], acc := [], q := Vector.replicate 4 [], groupPoison := []
        bad := p.2.bad.filter fun b =>
          match b with
          | .scratch _ | .acc _ _ => false
          | _ => true }) }

/-- The run manifest's record of a node (R337). -/
def manifestRec (level : Nat) (im : Image) (index : BitVec 32) (status : Word) (digest : BitVec 256) : ManifestRec :=
  let w0 := index.toNat + im.summap * 2 ^ 32 + im.dclass.toNat * 2 ^ 36 + im.cov * 2 ^ 37 + level * 2 ^ 39
  BitVec.ofNat 768 (w0 + status.toNat * 2 ^ 64 + im.sig.toNat * 2 ^ 128 + digest.toNat * 2 ^ 384)

/-- A task at its start (R19). -/
def startCore (im : Image) (entry : Nat) : Core := { Core.idle with phase := .running, pc := BitVec.ofNat 64 (im.base + entry) }

/-- A link that has been retrained takes its traffic back (R439). -/
def Link.takeBack (l : Link) : Link := { l with parked := false }

/-- With EN = 1, a change of STATE or FAILOVER sends the link's vector (R439). -/
def State.linkVector (s : State) (j : Nat) : State :=
  match s.links[j]? with
  | some l => if l.en then s.post (.msix l.vec.toNat) else s
  | none => s

/-- FAILOVER of a link takes a value; a change sends the link's vector (R439). -/
def State.setFailover (s : State) (j : Nat) (b : Bool) : State :=
  if (s.links[j]?).any (·.failover != b) then { s with links := modifyAt (fun x => { x with failover := b }) j s.links }.linkVector j else s

/-- At a LAUNCH, links retrained since their death end their failover. One whose sibling is dead carries that one's traffic. -/
def State.endFailover (s : State) : State :=
  (List.range 12).foldl (fun s j =>
    match s.links[j]? with
    | some l =>
      if l.parked then
        let s := { s with links := modifyAt Link.takeBack j s.links }
        (s.setFailover (sibling j) false).setFailover j ((s.links[sibling j]?).any (·.state == .dead))
      else s
    | none => s) s

/-- A router for a new node: circuit flits of nodes before are gone, packets stay. -/
def Router.load (r : Router) (primary backup : List Nat) : Router :=
  { r with primary := primary, backup := backup, inq := r.inq.map fun q => q.filter (·.pkt) }

/-- The circuit flits that wait at the hub's input from a link, whose places in the skid buffer they leave free (R309). -/
def State.goneAt (s : State) (j : Nat) : Nat := ((((s.routers[hub]?).map fun r => r.inq.getD (12 + j) []).getD []).filter fun f => !f.pkt).length

def Link.freePlaces (l : Link) (n : Nat) : Link := { l with used := l.used - n, freed := l.freed + BitVec.ofNat 11 n, opened := [] }

/-- Steps 5, 6, 8 and 9, the windows being bound. -/
def State.startNode (s : State) (slot : Nat) (index : BitVec 32) (ld : Loaded) : State :=
  let g := s.slot slot
  let seed := g.launchSeed
  let tasks := (List.range 384).filter fun i => (ld.image.entries.getD i none).isSome
  let place := placement seed index s.nv.harvested ld.image.pclass tasks
  let digest := placementDigest place
  let r := manifestRec s.level ld.image index 0 digest
  let node : Node :=
    { slot := slot, index := index, seed := seed, image := ld.image, place := place, digest := digest, manifestAt := g.recs.length }
  let s := s.setSlot slot
    { g with nodeIx := index, launched := g.launched + 1, status := none, recs := g.recs ++ [r], prio := g.subPrio, waited := 0, lastLaunch := s.launches + 1 }
  let s := s.endFailover
  let s := { s with
    launches := s.launches + 1
    node := some node
    circuits := ld.circuits
    tileIo := []
    store := []
    links := (List.range s.links.length).map fun j => ((s.links[j]?).getD ({} : Link)).freePlaces (s.goneAt j)
    routers := (List.range 13).map fun i =>
      ((s.routers[i]?).getD (Router.empty (if i = 12 then 26 else 4))).load (ld.primary.getD i []) (ld.backup.getD i [])
    coll := {}
    lastImage := some ld.image
    replies := s.replies.filter fun r => r.dev != s.deviceId.toNat
    streams427 := s.streams427.filter fun x => x.agg || x.dev != s.deviceId.toNat
    cores := (tasks.map fun t => (t, startCore ld.image ((ld.image.entries.getD t none).getD 0))) ++ s.cores.filter fun (p : Nat × Core) => decide (cmdKey ≤ p.1) }
  s.scribe1 7 0 0x1FF 0 (index.setWidth 64)

/-- The launch that the bundle at issue asks for. -/
def launchOf (a b : SReg) (s : State) : Except (LoadErr × Bool) Loaded :=
  s.loadNode (s.graph.getD 0) (s.me.rdS a).toNat (s.me.rdS b).toNat

/-- What a save waits for: the end of the node that runs, as no node runs during a save (R47, R328), and the command core's own loads. -/
def saveWait (s : State) : List Wait := if s.outvoted && (s.node.isSome || (s.awaited cmdKey).isSome) then [{ sub := 0 }] else []

def launchWait (a b : SReg) (s : State) : List Wait :=
  if s.node.isSome then [{ sub := 0 }]
  else if s.outvoted then saveWait s
  else
    match launchOf a b s with
    | .error (.miss _, _) => [{ sub := 0 }]
    | _ => []

/-- LAUNCH gives way to another slot, or is refused (R330, R355). -/
def launchInstead (a b : SReg) (node : BitVec 32) (s : State) : Option State :=
  if s.outvoted then some (s.saveSlot s.me.pc)
  else
    match launchOf a b s with
    | .error (.refuse sub off i0 i1, late) =>
      let n := s.graph.getD 0
      let t := s.launchMeets n (s.me.rdS a).toNat (s.me.rdS b).toNat []
      let t := if late then t.clearArrays else t
      some ((t.refuseRecord n 2 (s.me.rdS a) node.toNat sub off i0 i1).endGraph n 4)
    | _ => none

def opLaunch (a b : SReg) (node : BitVec 32) : SlotOp :=
  { slot := 0, reads := [rS a, rS b], wait := launchWait a b, instead := launchInstead a b node,
    act := fun s =>
      match launchOf a b s with
      | .ok ld => (s.launchMeets (s.graph.getD 0) (s.me.rdS a).toNat (s.me.rdS b).toNat ld.image.windows).startNode (s.graph.getD 0) node ld
      | .error _ => s }
def execLaunch (a b : SReg) (node : BitVec 32) (s : State) : Host.Outcome State Fault Refusal := (opLaunch a b node).run (.launch a b node) s

/-! ## The other instructions of the command core -/

/-- NODEW (R163). -/
def opNodew (d : SReg) : SlotOp :=
  { slot := 0, writes := [.s d.val],
    wait := fun s => if (s.slot (s.graph.getD 0)).status.isNone then [{ sub := 0 }] else [],
    act := fun s => s.putS 0 d (((s.slot (s.graph.getD 0)).status).getD 0) 1 }
def execNodew (d : SReg) (s : State) : Host.Outcome State Fault Refusal := (opNodew d).run (.nodew d) s

/-- SIGH (R164). -/
def opSigh (a b : SReg) (vec : BitVec 8) : SlotOp :=
  { slot := 0, reads := [rS a, rS b], check := fun s => if b = 0 then none else alignFault2 (s.me.rdS b).toNat 8,
    act := fun s =>
      let t := if b = 0 then s else s.post (.write (s.me.rdS b).toNat (leBytes 8 (s.me.rdS a).toNat))
      t.post (.msix vec.toNat) }
def execSigh (a b : SReg) (vec : BitVec 8) (s : State) : Host.Outcome State Fault Refusal := (opSigh a b vec).run (.sigh a b vec) s

/-- YIELD: once the bundle has issued, another slot may be chosen (R165). Where another slot wins while a node of this one still runs, the YIELD waits for
the node's end (R47, R328). -/
def opYield : SlotOp :=
  { slot := 0, wait := saveWait, act := id, after := fun _ s => if s.graph.isSome && s.outvoted then s.saveSlot s.me.pc else s }
def execYield (s : State) : Host.Outcome State Fault Refusal := opYield.run .yield s

/-- GDONE (R165, R331). -/
def opGdone : SlotOp :=
  { slot := 0, act := id,
    after := fun _ s =>
      match s.graph with
      | some n => s.endGraph n 0
      | none => s }
def execGdone (s : State) : Host.Outcome State Fault Refusal := opGdone.run .gdone s

/-! ## Submissions (R324, R325) -/

/-- GRAPH_START_STORE: a host store to the graph-start aperture. -/
def State.submit (s : State) (n : Nat) (v : Word) : State :=
  let g := s.slot n
  if g.st == .idle && g.valid && (s.level == 1 || s.level == 2) && bits v.toNat 35 29 == 0 then
    s.setSlot n { g with st := .ready, submitted := v, subPrio := bits v.toNat 0 3, prio := bits v.toNat 0 3, waited := 0, levelAtSubmit := s.level }
  else s.setSlot n { g with discarded := if g.discarded = BitVec.allOnes 32 then g.discarded else g.discarded + 1 }
def execGraphStartStore (slot : Fin 64) (v : Word) (s : State) : Host.Outcome State Fault Refusal := .next (s.submit slot.val v)

/-- GCTL: ignored unless the slot is idle or faulted; it resets the drop count and returns a faulted slot to idle (R324, R331). -/
def State.writeGctl (s : State) (n : Nat) (v : Word) : State :=
  let g := s.slot n
  if g.st == .idle || g.st == .faulted then
    s.setSlot n { g with
      pasid := BitVec.ofNat 20 (bits v.toNat 20 20), valid := v.getLsbD 16, vec := BitVec.ofNat 8 v.toNat, discarded := 0, st := .idle }
  else s
def execGctl (slot : Fin 64) (v : Word) (s : State) : Host.Outcome State Fault Refusal := .next (s.writeGctl slot.val v)

/-! ## The alignment of a node (R26, R28, R310) -/

/-- Every task has issued its ALIGN and every link that the node aligns is aligned. -/
def State.canAlign (s : State) : Bool :=
  match s.node with
  | none => false
  | some n => !n.aligned && s.allAligning && (s.alignMasks).1 == (s.alignMasks).2

/-- ALIGN_COMPLETE: LC := 0 on every core of the node, and on its routers. -/
def State.alignComplete (s : State) : State :=
  if s.canAlign then
    { s with
      cores := s.cores.map fun p => if p.2.phase == .aligning then (p.1, { p.2.unhold s.clk with phase := .running, lc := 0 }) else p
      routers := s.routers.map fun r => { r with lc := 0 }
      node := s.node.map fun n => { n with aligned := true } }
  else s
def execAlignComplete (s : State) : Host.Outcome State Fault Refusal := .next s.alignComplete

end Sys2Proof.Machine
end

