-- ==== Sys2Proof/Machine/Matrix.lean ====
section
/-! DEFINITION. X slot: tile registers, matrix operations, the accumulator store and result queues (R86-R90, R203-R212, R390-R392). -/

namespace Sys2Proof.Machine

/-- A read of a tile register and its shape at issue. -/
def rT (n : TReg) : Reg × Nat := (.t n.val, 0)
def rCfg (n : TReg) : Reg × Nat := (.tcfg n.val, 0)

/-! ## Lent windows (R89) -/

/-- A lend's groups overlap groups g to h. -/
def lendMeets (g h : Nat) (l : Nat × List Nat) : Bool := decide (l.1 ≤ h) && decide (g ≤ l.1 + 7)

/-- The command is still to complete. -/
def State.cmdOpen (s : State) (id : Nat) : Bool :=
  s.cmds.any fun c => c.id == id && !(c.st == .done || c.st == .failed || c.st == .cancelled)

/-- The wait of an access to groups g to h for the follow-on commands of their lend. -/
def State.lendWait (s : State) (g h : Nat) : List Wait :=
  (s.me.lent.filter (lendMeets g h)).filterMap fun l =>
    let n := (l.2.filter s.cmdOpen).length
    if n = 0 then none else some { sub := 6, info0 := BitVec.ofNat 64 l.1, info1 := BitVec.ofNat 64 n }

/-- The groups return to the core. -/
def Core.takeBack (c : Core) (g h : Nat) : Core := { c with lent := c.lent.filter fun l => !lendMeets g h l }

/-- A core-issued access whose last access to groups g to h is at a logical cycle (R212): groups of its window that hold none of its rows are not
accessed. -/
def Core.touchUntil (c : Core) (g h last : Nat) : Core :=
  { c with accAfter := (List.range (h + 1 - g)).foldl (fun m i => Sparse.set 0 m (g + i) (max (last + 1) (Sparse.get 0 m (g + i)))) c.accAfter }

/-- The poisoned-accumulator trap of an access to a window (R391, R392). -/
def Core.poisonTrap (c : Core) (aw : Nat) : Option Trap :=
  let l := c.groupPoison.filter fun g => aw ≤ g.group && g.group ≤ aw + 7
  match (List.range 8).findSome? fun i => l.find? fun g => g.group == aw + i with
  | none => none
  | some g =>
    some { cause := 0x51, sub := g.sub, addr := BitVec.ofNat 64 (8 * aw), info1 := g.pc,
           info0 := BitVec.ofNat 64 (l.foldl (fun m g => m + 2 ^ (g.group - aw)) 0) }

/-! ## Tile registers (R203, R204) -/

/-- MOVTC (R203). -/
def opMovtc (t : TReg) (a : SReg) : SlotOp :=
  { slot := 3, reads := [rS a], writes := [.tcfg t.val],
    check := fun s => if cfgOk (s.me.rdS a) then none else some { cause := 4, sub := 3, info1 := s.me.rdS a }
    act := fun s => s.updMe (·.later 1 3 (.tcfg t (s.me.rdS a))) }
def execMovtc (t : TReg) (a : SReg) (s : State) : Host.Outcome State Fault Refusal := (opMovtc t a).run (.movtc t a) s

/-- MOVFC (R203). -/
def opMovfc (d : SReg) (t : TReg) : SlotOp :=
  { slot := 3, reads := [rCfg t], writes := [.s d.val], act := fun s => s.putS 3 d s.me.tcfg[t] 1 }
def execMovfc (d : SReg) (t : TReg) (s : State) : Host.Outcome State Fault Refusal := (opMovfc d t).run (.movfc d t) s

/-- The bytes that TLD reads. -/
def tldBytes (cfg : Word) : Nat := ceilDiv (cfgBits cfg) 8

/-- The register's bits from the source's: element (i, j) is element j * ROWS + i of a transposed source (R204). -/
def tldBits (cfg : Word) (trans : Bool) (x : Nat) : Nat :=
  if trans then
    packNat (cfgWidth cfg) ((List.range (cfgRows cfg)).flatMap fun i => (List.range (cfgCols cfg)).map fun j =>
      bits x ((j * cfgRows cfg + i) * cfgWidth cfg) (cfgWidth cfg))
  else x % 2 ^ cfgBits cfg

/-- tile_access and the format check of TLD, tile by tile. -/
def Core.tldCheck (c : Core) (ts : List Nat) (cfg : Word) (tc : Bool) (tagx : BitVec 4) : Option Trap :=
  c.overrunTrap ts <|> ts.findSome? fun t =>
    let x := c.tile t
    tileFault x t true tc tagx <|>
      (if x.fmt ≠ 0 && x.fmt ≠ cfgFmt cfg then
        some { cause := 0x11, sub := 3, info0 := BitVec.ofNat 64 (cfgFmt cfg), info1 := BitVec.ofNat 64 x.fmt, addr := BitVec.ofNat 64 (t * 4096) }
      else none)

/-- TLD (R204). -/
def opTld (t : TReg) (bs : SReg) (tr tc : Bool) (tagx : Fin 16) : SlotOp :=
  let tag := BitVec.ofNat 4 tagx.val
  let ts (s : State) : List Nat := tilesTouched (s.me.rdS bs).toNat (tldBytes s.me.tcfg[t])
  { slot := 3, reads := [rS bs, rCfg t], writes := [.t t.val], lat := 16, tiles := ts, looks := fun s => [((s.me.rdS bs).toNat, tldBytes s.me.tcfg[t])],
    check := fun s =>
      let cfg := s.me.tcfg[t]
      let a := (s.me.rdS bs).toNat
      (if cfgOk cfg && !(tr && (cfgWidth cfg == 2 || cfgFmt cfg == 10)) then none else some { cause := 4, sub := 3, info0 := cfg })
        <|> alignFault2 a 64 <|> scratchFault a (tldBytes cfg) 0 <|> s.me.tldCheck (ts s) cfg tc tag
        <|> s.scratchMachineCheck s.cur a (tldBytes cfg)
    act := fun s => s.updMe fun c =>
      let cfg := c.tcfg[t]
      let x := c.readNat (c.rdS bs).toNat (tldBytes cfg)
      (c.verifyTiles (ts s) tc).later 16 3 (.t t (cfgBits cfg) (BitVec.ofNat 65536 (tldBits cfg tr x))) }
def execTld (t : TReg) (bs : SReg) (tr tc : Bool) (tagx : Fin 16) (s : State) : Host.Outcome State Fault Refusal := (opTld t bs tr tc tagx).run (.tld t bs tr tc tagx) s

/-- TZERO (R203). -/
def opTzero (t : TReg) : SlotOp := { slot := 3, writes := [.t t.val], act := fun s => s.updMe (·.later 1 3 (.t t 65536 0)) }
def execTzero (t : TReg) (s : State) : Host.Outcome State Fault Refusal := (opTzero t).run (.tzero t) s

/-! ## Matrix operations (R205-R208) -/

def matFmt (f : Fmt) : Bool :=
  match f with
  | .fp32 | .bf16 | .fp16 | .tap16 | .tap8 => true
  | _ => false

/-- The shapes satisfy R205. -/
def matOk (mmt : Bool) (ca cb : Word) : Bool :=
  let fa := fmtOfCode (cfgFmt ca)
  let fb := fmtOfCode (cfgFmt cb)
  cfgOk ca && cfgOk cb &&
    (if mmt then fa == .i8 && ((fb == .tri2 && cfgCols ca == cfgCols cb) || (fb == .tri5 && cfgCols ca == 5 * cfgCols cb))
     else matFmt fa && fb == fa && cfgCols ca == cfgCols cb)

/-- The fixed latency of a matrix operation (R131, R205). -/
def matLat (mmt : Bool) (f : Fmt) (k : Nat) (sum : Shape) : Nat :=
  if mmt then ceilDiv k 8 + 6
  else if f = .fp32 || sum = .exact then 4 * k + 6
  else if f = .tap8 then ceilDiv k 2 + 6
  else k + 6

/-- The operation as its bundle issues it: operands are taken now. -/
def Core.matOp (c : Core) (mmt : Bool) (aw : Window) (ta tb : TReg) (neg clr : Bool) (sum : Shape) : MatOp :=
  { mmt := mmt, row0 := 8 * aw.val, m := cfgRows c.tcfg[ta], n := cfgRows c.tcfg[tb], k := cfgCols c.tcfg[ta],
    fa := fmtOfCode (cfgFmt c.tcfg[ta]), fb := fmtOfCode (cfgFmt c.tcfg[tb]), a := c.t[ta], b := c.t[tb], neg := neg, clr := clr, sum := sum }

/-- Words of a tile register, within its shape, that hold uncorrectable errors (R390). -/
def Core.badWords (c : Core) (t : TReg) : List Nat :=
  c.bad.filterMap fun b =>
    match b with
    | .tile n w => if n = t.val && 64 * w < cfgBits c.tcfg[t] then some w else none
    | _ => none

/-- MMA and MMT. -/
def matrixOp (mmt : Bool) (aw : Window) (ta tb : TReg) (neg clr : Bool) (sum : Shape) : SlotOp :=
  { slot := 3, reads := [rT ta, rCfg ta, rT tb, rCfg tb], wait := fun s => s.lendWait aw.val (aw.val + 7),
    check := fun s =>
      let c := s.me
      (if matOk mmt c.tcfg[ta] c.tcfg[tb] then none else some { cause := 4, sub := 3, info0 := c.tcfg[ta], info1 := c.tcfg[tb] })
        <|> (if c.lc.toNat < c.busyUntil then
              some { cause := 0x11, sub := 4, info0 := BitVec.ofNat 64 (c.busyUntil - 1), info1 := c.lc }
            else none)
        <|> c.poisonTrap aw.val
    act := fun s => s.updMe fun c =>
      let o := c.matOp mmt aw ta tb neg clr sum
      let lat := matLat mmt o.fa o.k sum
      let c := ((c.takeBack aw.val (aw.val + 7)).touchUntil aw.val (aw.val + (o.m - 1) / 8) (c.lc.toNat + lat)).later lat 3
        (.mat o (c.badWords ta) (c.badWords tb))
      { c with busyUntil := c.lc.toNat + lat - 6 } }

/-- MMA (R205-R208). -/
def opMma (aw : Window) (ta tb : TReg) (neg clr : Bool) (sum : Shape) : SlotOp := matrixOp false aw ta tb neg clr sum
def execMma (aw : Window) (ta tb : TReg) (neg clr : Bool) (sum : Shape) (s : State) : Host.Outcome State Fault Refusal := (opMma aw ta tb neg clr sum).run (.mma aw ta tb neg clr sum) s

/-- MMT (R205-R208). -/
def opMmt (aw : Window) (ta tb : TReg) (neg clr : Bool) (sum : Shape) : SlotOp := matrixOp true aw ta tb neg clr sum
def execMmt (aw : Window) (ta tb : TReg) (neg clr : Bool) (sum : Shape) (s : State) : Host.Outcome State Fault Refusal := (opMmt aw ta tb neg clr sum).run (.mmt aw ta tb neg clr sum) s

/-! ## The accumulator store (R209) -/

/-- ACLR. -/
def opAclr (aw : Window) : SlotOp :=
  { slot := 3, wait := fun s => s.lendWait aw.val (aw.val + 7),
    act := fun s => s.updMe fun c => (c.takeBack aw.val (aw.val + 7)).later 1 3 (.aclr aw.val) }
def execAclr (aw : Window) (s : State) : Host.Outcome State Fault Refusal := (opAclr aw).run (.aclr aw) s

/-- The rows of a rectangle, and its groups. -/
def rectGroups (row : Fin 512) (nrow : Fin 128) : Nat × Nat := (row.val / 8, (row.val + nrow.val) / 8)

/-- The bytes of a rectangle. -/
def rectBytes (ncol : Fin 64) (nrow : Fin 128) : Nat := 4 * (ncol.val + 1) * (nrow.val + 1)

/-- A rectangle's columns as a mask. -/
def rectMask (col ncol : Fin 64) : BitVec 64 := maskOf (fun j => decide (col.val ≤ j) && decide (j ≤ col.val + ncol.val)) 64

/-- The checks on a rectangle's local bytes. -/
def State.rectCheck (s : State) (a n : Nat) (isRead : Bool) : Option Trap :=
  alignFault2 a 4 <|> scratchFault a n 0 <|> s.me.tileCheck (tilesTouched a n) isRead false 0

/-- ALD (R209). -/
def opAld (row : Fin 512) (col ncol : Fin 64) (nrow : Fin 128) (bs : SReg) : SlotOp :=
  let g := rectGroups row nrow
  let n := rectBytes ncol nrow
  { slot := 3, reads := [rS bs], lat := 4, tiles := fun s => tilesTouched (s.me.rdS bs).toNat n, wait := fun s => s.lendWait g.1 g.2,
    looks := fun s => [((s.me.rdS bs).toNat, n)],
    check := fun s => s.rectCheck (s.me.rdS bs).toNat n true <|> s.scratchMachineCheck s.cur (s.me.rdS bs).toNat n,
    act := fun s => s.updMe fun c =>
      let a := (c.rdS bs).toNat
      let w := 4 * (ncol.val + 1)
      (List.range (nrow.val + 1)).foldl (fun c i =>
        c.later 4 3 (.acc (row.val + i) (rectMask col ncol) (BitVec.ofNat 2048 (c.readNat (a + w * i) w * 2 ^ (32 * col.val)))))
        ((c.takeBack g.1 g.2).touchUntil g.1 g.2 (c.lc.toNat + 4)) }
def execAld (row : Fin 512) (col ncol : Fin 64) (nrow : Fin 128) (bs : SReg) (s : State) : Host.Outcome State Fault Refusal := (opAld row col ncol nrow bs).run (.ald row col ncol nrow bs) s

/-- The bad accumulator word of a rectangle (R386). -/
def State.accCheck (s : State) (row nrow col ncol : Nat) : Option Trap :=
  ((List.range (nrow + 1)).find? fun i => (List.range (ncol + 1)).any fun j => s.me.bad.contains (.acc (row + i) (col + j))).map fun i =>
    { cause := 0x50, sub := 3, addr := BitVec.ofNat 64 (row + i), info0 := s.arrayInfo s.cur 2 }

/-- ACPY (R209, R391): local stores at t + 4, one for each row. -/
def opAcpy (row : Fin 512) (col ncol : Fin 64) (nrow : Fin 128) (bs : SReg) : SlotOp :=
  let g := rectGroups row nrow
  let n := rectBytes ncol nrow
  { slot := 3, reads := (rS bs) :: (List.range (nrow.val + 1)).map fun i => (.acc (row.val + i) (rectMask col ncol), 0), lat := 4,
    tiles := fun s => tilesTouched (s.me.rdS bs).toNat n, writesLater := fun s => tilesTouched (s.me.rdS bs).toNat n,
    wait := fun s => s.lendWait g.1 g.2,
    check := fun s => s.rectCheck (s.me.rdS bs).toNat n false <|> s.accCheck row.val nrow.val col.val ncol.val,
    act := fun s => s.updMe fun c =>
      let a := (c.rdS bs).toNat
      let w := 4 * (ncol.val + 1)
      (List.range (nrow.val + 1)).foldl (fun c i =>
        let r := row.val + i
        c.later 4 3 (.store (a + w * i) (leBytes w ((c.accRow r).toNat / 2 ^ (32 * col.val)))
          (!c.inh && c.groupPoison.any fun p => p.group == r / 8))) (c.takeBack g.1 g.2) }
def execAcpy (row : Fin 512) (col ncol : Fin 64) (nrow : Fin 128) (bs : SReg) (s : State) : Host.Outcome State Fault Refusal := (opAcpy row col ncol nrow bs).run (.acpy row col ncol nrow bs) s

/-! ## DRAIN (R210, R211) -/

/-- The local bytes of the scale vectors: address and number. -/
def scaleSpan (scl : BitVec 3) (nrow a : Nat) : Nat × Nat :=
  let lo := if scl.getLsbD 1 then a else a + 256
  let hi := if scl.getLsbD 2 then a + 256 + 4 * (nrow + 1) else a + 256
  (lo, hi - lo)

/-- DRAIN has scale vectors. -/
def scaled (scl : BitVec 3) : Bool := scl.getLsbD 1 || scl.getLsbD 2

def opDrain (aw : Window) (q : QReg) (nrow : Fin 128) (df : Fmt) (rm : RM) (ov : OV) (scl : BitVec 3) (a : SReg) : SlotOp :=
  let sp (s : State) : Nat × Nat := scaleSpan scl nrow.val (s.me.rdS a).toNat
  { slot := 3, reads := (if scaled scl then [rS a] else []) ++ (List.range (nrow.val + 1)).map fun i => (.acc (8 * aw.val + i) (BitVec.allOnes 64), 4 + i),
    scales := fun s => if scaled scl then (List.range ((sp s).2 / 4)).map fun i => .scale ((sp s).1 + 4 * i) else [],
    tiles := fun s => if scaled scl then tilesTouched (sp s).1 (sp s).2 else [], looks := fun s => if scaled scl then [sp s] else [],
    wait := fun s => s.lendWait aw.val (aw.val + 7),
    check := fun s =>
      (if scaled scl then
        alignFault2 (s.me.rdS a).toNat 4 <|> scratchFault (sp s).1 (sp s).2 0 <|> s.me.tileCheck (tilesTouched (sp s).1 (sp s).2) true false 0
          <|> s.scratchMachineCheck s.cur (sp s).1 (sp s).2
      else none) <|> s.me.poisonTrap aw.val
    act := fun s => s.updMe fun c =>
      let base := (c.rdS a).toNat
      let o : DrainOp :=
        { row0 := 8 * aw.val, nrow := nrow.val, q := q, df := df, rm := rm, ov := ov, i32 := scl.getLsbD 0,
          cols := if scl.getLsbD 1 then some (BitVec.ofNat 2048 (c.readNat base 256)) else none
          rows := if scl.getLsbD 2 then some (BitVec.ofNat 2048 (c.readNat (base + 256) (4 * (nrow.val + 1)))) else none }
      (List.range (nrow.val + 1)).foldl (fun c i => (c.later (4 + i) 3 (.drain o i)).atEnd (4 + i) 3 (.room o i))
        ((List.range (nrow.val / 8 + 1)).foldl (fun c g => c.touchUntil (aw.val + g) (aw.val + g) (c.lc.toNat + 4 + min nrow.val (8 * g + 7)))
          (c.takeBack aw.val (aw.val + 7))) }
def execDrain (aw : Window) (q : QReg) (nrow : Fin 128) (df : Fmt) (rm : RM) (ov : OV) (scl : BitVec 3) (a : SReg) (s : State) : Host.Outcome State Fault Refusal := (opDrain aw q nrow df rm ov scl a).run (.drain aw q nrow df rm ov scl a) s

/-! ## Windows and queues (R212) -/

/-- The cycle after the last core-issued access to a window's groups. -/
def Core.windowAfter (c : Core) (aw : Nat) : Nat := (List.range 8).foldl (fun m i => max m (Sparse.get 0 c.accAfter (aw + i))) 0

/-- AGIVE: the lend stands from the next logical cycle (latency 1), so that a COPYGO of a later bundle finds it. -/
def opAgive (aw : Window) : SlotOp :=
  { slot := 3, wait := fun s => if s.me.lc.toNat < s.me.windowAfter aw.val then [] else s.lendWait aw.val (aw.val + 7),
    check := fun s =>
      if s.me.lc.toNat < s.me.windowAfter aw.val then
        some { cause := 0x11, sub := 5, info0 := s.me.lc, info1 := BitVec.ofNat 64 (s.me.windowAfter aw.val - 1) }
      else none
    act := fun s => s.updMe fun c => (c.takeBack aw.val (aw.val + 7)).later 1 3 (.lend aw.val) }
def execAgive (aw : Window) (s : State) : Host.Outcome State Fault Refusal := (opAgive aw).run (.agive aw) s

/-- QCLR: the queue is emptied after every push and pop of the logical cycle. -/
def opQclr (q : QReg) : SlotOp := { slot := 3, act := fun s => s.updMe (·.atEnd 0 3 (.qclr q)) }
def execQclr (q : QReg) (s : State) : Host.Outcome State Fault Refusal := (opQclr q).run (.qclr q) s

/-- QCNT: the rows available at issue, before the bundle's own pops. -/
def opQcnt (d : SReg) (q : QReg) : SlotOp :=
  { slot := 3, writes := [.s d.val], pre := fun s => s.putS 3 d (BitVec.ofNat 64 (s.me.queue q).length) 1, act := id }
def execQcnt (d : SReg) (q : QReg) (s : State) : Host.Outcome State Fault Refusal := (opQcnt d q).run (.qcnt d q) s

end Sys2Proof.Machine
end

