-- ==== Sys2Proof/Machine/Vector.lean ====
section
/-! DEFINITION. V slot (R176-R199). -/

namespace Sys2Proof.Machine

/-! ## Lanes -/

/-- Element width and signedness of an integer type (R176). -/
def ITy.width : ITy → Nat
  | .i32 | .n32 => 32
  | .i16p | .n16p => 16
  | .i8q | .n8q => 8
def ITy.signed : ITy → Bool
  | .i32 | .i16p | .i8q => true
  | .n32 | .n16p | .n8q => false
def STy.width : STy → Nat
  | .i32 | .n32 => 32
  | .i16p => 16
  | .i8q => 8

/-- An element read as its type gives. -/
def readElem (w : Nat) (signed : Bool) (x : Nat) : Int := if signed then toSigned w x else (x % 2 ^ w : Nat)

/-- Two lanes combined element by element. -/
def elemwise (w : Nat) (f : Nat → Nat → Int) (a b : W32) : W32 :=
  BitVec.ofNat 32 (packNat w (List.zipWith (fun x y => wrapN w (f x y)) (unpackNat w (32 / w) a.toNat) (unpackNat w (32 / w) b.toNat)))

/-- A vector whose lanes are computed from two. -/
def mapLanes2 (f : W32 → W32 → W32) (a b : BitVec 2048) : BitVec 2048 := vecOf (List.zipWith f (lanes a) (lanes b))
def mapLanes (f : W32 → W32) (a : BitVec 2048) : BitVec 2048 := vecOf ((lanes a).map f)

/-- The bits of a mask register that are active lanes. -/
def Core.mask (c : Core) (m : MReg) : BitVec 64 := c.rdM m

/-- A masked instruction on two vectors (R177, R178). -/
def vv2 (lat : Nat) (vd va vb : VReg) (m : MReg) (f : W32 → W32 → W32) : SlotOp :=
  { slot := 2, reads := [rV va, rV vb, rM m], writes := [.v vd.val], lat := lat,
    act := fun s => s.putV 2 vd (s.me.mask m) (mapLanes2 f (s.me.rdV va) (s.me.rdV vb)) lat }

/-- A masked instruction on one vector. -/
def vv1 (lat : Nat) (vd va : VReg) (m : MReg) (f : W32 → W32) : SlotOp :=
  { slot := 2, reads := [rV va, rM m], writes := [.v vd.val], lat := lat,
    act := fun s => s.putV 2 vd (s.me.mask m) (mapLanes f (s.me.rdV va)) lat }

/-- A masked instruction on a vector and a scalar (R185). -/
def vs2 (lat : Nat) (vd va : VReg) (sa : SReg) (m : MReg) (f : W32 → W32 → W32) : SlotOp :=
  { slot := 2, reads := [rV va, rS sa, rM m], writes := [.v vd.val], lat := lat,
    act := fun s =>
      let x := (s.me.rdS sa).setWidth 32
      s.putV 2 vd (s.me.mask m) (mapLanes (fun a => f a x) (s.me.rdV va)) lat }

/-- An integer VV operation (R181). -/
def vint (vd va vb : VReg) (m : MReg) (ty : ITy) (f : Nat → Nat → Int) : SlotOp := vv2 1 vd va vb m (elemwise (ITy.width ty) f)

/-- The scalar's low element in every element of a lane. -/
def splat (w : Nat) (x : W32) : W32 := BitVec.ofNat 32 (packNat w (List.replicate (32 / w) x.toNat))

/-! ## FP32 (R182-R185) -/

/-- The source modifiers of R182: absolute value first, then the sign. -/
def modSign (neg abs : Bool) (x : Val) : Val :=
  let x := if abs then x.abs else x
  if neg then x.neg else x

/-- The operands after their modifiers: bits 0 and 1 on the first, 2 on the second, 3 on the third. -/
def modA (sm : Nat) (x : W32) : Val := modSign (bit sm 0) (bit sm 1) (fp32 x)
def modB (sm : Nat) (x : W32) : Val := modSign (bit sm 2) false (fp32 x)
def modC (sm : Nat) (x : W32) : Val := modSign (bit sm 3) false (fp32 x)

/-- A NaN has no code of its own in an FP32 result. -/
def fpCode (v : Val) : W32 := roundFp32 .rne v

/-- The order of VFMIN and VFMAX: −0 lies below +0 (R183). -/
def fpBelow (a b : Val) : Bool :=
  match a.cmp b with
  | some .lt => true
  | some .eq =>
    match a, b with
    | .fin n1 _ _, .fin n2 _ _ => n1 && !n2
    | _, _ => false
  | _ => false

def fpMin (a b : Val) : W32 := if a.isNan || b.isNan then 0x7FC00000 else fpCode (if fpBelow b a then b else a)
def fpMax (a b : Val) : W32 := if a.isNan || b.isNan then 0x7FC00000 else fpCode (if fpBelow a b then b else a)

/-! ## Integer arithmetic (R181) -/

/-- VADD (R181). -/
def opVadd (vd va vb : VReg) (m : MReg) (ty : ITy) : SlotOp :=
  vint vd va vb m ty (fun a b => (a + b : Nat))
def execVadd (vd va vb : VReg) (m : MReg) (ty : ITy) (s : State) : Host.Outcome State Fault Refusal := (opVadd vd va vb m ty).run (.vadd vd va vb m ty) s

/-- VSUB (R181). -/
def opVsub (vd va vb : VReg) (m : MReg) (ty : ITy) : SlotOp :=
  vint vd va vb m ty (fun a b => (a : Int) - b)
def execVsub (vd va vb : VReg) (m : MReg) (ty : ITy) (s : State) : Host.Outcome State Fault Refusal := (opVsub vd va vb m ty).run (.vsub vd va vb m ty) s

/-- VMUL (R181). -/
def opVmul (vd va vb : VReg) (m : MReg) (ty : ITy) : SlotOp :=
  vint vd va vb m ty (fun a b => (a * b : Nat))
def execVmul (vd va vb : VReg) (m : MReg) (ty : ITy) (s : State) : Host.Outcome State Fault Refusal := (opVmul vd va vb m ty).run (.vmul vd va vb m ty) s

/-- VMULH (R181). -/
def opVmulh (vd va vb : VReg) (m : MReg) (ty : ITy) : SlotOp :=
  vint vd va vb m ty (fun a b => floorDiv (readElem (ITy.width ty) (ITy.signed ty) a * readElem (ITy.width ty) (ITy.signed ty) b) (2 ^ ITy.width ty : Nat))
def execVmulh (vd va vb : VReg) (m : MReg) (ty : ITy) (s : State) : Host.Outcome State Fault Refusal := (opVmulh vd va vb m ty).run (.vmulh vd va vb m ty) s

/-- VMIN (R181). -/
def opVmin (vd va vb : VReg) (m : MReg) (ty : ITy) : SlotOp :=
  vint vd va vb m ty (fun a b => min (readElem (ITy.width ty) (ITy.signed ty) a) (readElem (ITy.width ty) (ITy.signed ty) b))
def execVmin (vd va vb : VReg) (m : MReg) (ty : ITy) (s : State) : Host.Outcome State Fault Refusal := (opVmin vd va vb m ty).run (.vmin vd va vb m ty) s

/-- VMAX (R181). -/
def opVmax (vd va vb : VReg) (m : MReg) (ty : ITy) : SlotOp :=
  vint vd va vb m ty (fun a b => max (readElem (ITy.width ty) (ITy.signed ty) a) (readElem (ITy.width ty) (ITy.signed ty) b))
def execVmax (vd va vb : VReg) (m : MReg) (ty : ITy) (s : State) : Host.Outcome State Fault Refusal := (opVmax vd va vb m ty).run (.vmax vd va vb m ty) s

/-- VAND (R181). -/
def opVand (vd va vb : VReg) (m : MReg) (ty : ITy) : SlotOp :=
  vint vd va vb m ty (fun a b => (a &&& b : Nat))
def execVand (vd va vb : VReg) (m : MReg) (ty : ITy) (s : State) : Host.Outcome State Fault Refusal := (opVand vd va vb m ty).run (.vand vd va vb m ty) s

/-- VOR (R181). -/
def opVor (vd va vb : VReg) (m : MReg) (ty : ITy) : SlotOp :=
  vint vd va vb m ty (fun a b => (a ||| b : Nat))
def execVor (vd va vb : VReg) (m : MReg) (ty : ITy) (s : State) : Host.Outcome State Fault Refusal := (opVor vd va vb m ty).run (.vor vd va vb m ty) s

/-- VXOR (R181). -/
def opVxor (vd va vb : VReg) (m : MReg) (ty : ITy) : SlotOp :=
  vint vd va vb m ty (fun a b => (a ^^^ b : Nat))
def execVxor (vd va vb : VReg) (m : MReg) (ty : ITy) (s : State) : Host.Outcome State Fault Refusal := (opVxor vd va vb m ty).run (.vxor vd va vb m ty) s

/-- VSHL (R181). -/
def opVshl (vd va vb : VReg) (m : MReg) (ty : ITy) : SlotOp :=
  vint vd va vb m ty (fun a b => (a * 2 ^ (b % ITy.width ty) : Nat))
def execVshl (vd va vb : VReg) (m : MReg) (ty : ITy) (s : State) : Host.Outcome State Fault Refusal := (opVshl vd va vb m ty).run (.vshl vd va vb m ty) s

/-- VSHR (R181). -/
def opVshr (vd va vb : VReg) (m : MReg) (ty : ITy) : SlotOp :=
  vint vd va vb m ty (fun a b => (a / 2 ^ (b % ITy.width ty) : Nat))
def execVshr (vd va vb : VReg) (m : MReg) (ty : ITy) (s : State) : Host.Outcome State Fault Refusal := (opVshr vd va vb m ty).run (.vshr vd va vb m ty) s

/-- VSHA (R181). -/
def opVsha (vd va vb : VReg) (m : MReg) (ty : ITy) : SlotOp :=
  vint vd va vb m ty (fun a b => floorDiv (toSigned (ITy.width ty) a) (2 ^ (b % ITy.width ty) : Nat))
def execVsha (vd va vb : VReg) (m : MReg) (ty : ITy) (s : State) : Host.Outcome State Fault Refusal := (opVsha vd va vb m ty).run (.vsha vd va vb m ty) s

/-- VABS (R181). -/
def opVabs (vd va : VReg) (m : MReg) (ty : ITy) : SlotOp :=
  vv1 1 vd va m (fun a => elemwise (ITy.width ty) (fun x _ => (((readElem (ITy.width ty) (ITy.signed ty) x).natAbs : Nat) : Int)) a a)
def execVabs (vd va : VReg) (m : MReg) (ty : ITy) (s : State) : Host.Outcome State Fault Refusal := (opVabs vd va m ty).run (.vabs vd va m ty) s

/-! ## FP32 arithmetic (R183, R184) -/

/-- VFADD (R183). -/
def opVfadd (vd va vb : VReg) (m : MReg) (sm : BitVec 3) (rm : RM) : SlotOp :=
  vv2 4 vd va vb m (fun a b => roundFp32 rm ((modA sm.toNat a).add rm (modB sm.toNat b)))
def execVfadd (vd va vb : VReg) (m : MReg) (sm : BitVec 3) (rm : RM) (s : State) : Host.Outcome State Fault Refusal := (opVfadd vd va vb m sm rm).run (.vfadd vd va vb m sm rm) s

/-- VFSUB (R183). -/
def opVfsub (vd va vb : VReg) (m : MReg) (sm : BitVec 3) (rm : RM) : SlotOp :=
  vv2 4 vd va vb m (fun a b => roundFp32 rm ((modA sm.toNat a).add rm (modB sm.toNat b).neg))
def execVfsub (vd va vb : VReg) (m : MReg) (sm : BitVec 3) (rm : RM) (s : State) : Host.Outcome State Fault Refusal := (opVfsub vd va vb m sm rm).run (.vfsub vd va vb m sm rm) s

/-- VFMUL (R183). -/
def opVfmul (vd va vb : VReg) (m : MReg) (sm : BitVec 3) (rm : RM) : SlotOp :=
  vv2 4 vd va vb m (fun a b => roundFp32 rm ((modA sm.toNat a).mul (modB sm.toNat b)))
def execVfmul (vd va vb : VReg) (m : MReg) (sm : BitVec 3) (rm : RM) (s : State) : Host.Outcome State Fault Refusal := (opVfmul vd va vb m sm rm).run (.vfmul vd va vb m sm rm) s

/-- VFMA: the exact sum is rounded once (R183). -/
def opVfma (vd va vb vc : VReg) (m : MReg) (sm : BitVec 4) (rm : RM) : SlotOp :=
  { slot := 2, reads := [rV va, rV vb, rV vc, rM m], writes := [.v vd.val], lat := 4,
    act := fun s =>
      let c := s.me
      let n := sm.toNat
      let p := List.zipWith (fun a b => (modA n a).mul (modB n b)) (lanes (c.rdV va)) (lanes (c.rdV vb))
      s.putV 2 vd (c.mask m) (vecOf (List.zipWith (fun x z => roundFp32 rm (x.add rm (modC n z))) p (lanes (c.rdV vc)))) 4 }
def execVfma (vd va vb vc : VReg) (m : MReg) (sm : BitVec 4) (rm : RM) (s : State) : Host.Outcome State Fault Refusal := (opVfma vd va vb vc m sm rm).run (.vfma vd va vb vc m sm rm) s

/-- VFMIN (R183). -/
def opVfmin (vd va vb : VReg) (m : MReg) (sm : BitVec 3) : SlotOp :=
  vv2 4 vd va vb m (fun a b => fpMin (modA sm.toNat a) (modB sm.toNat b))
def execVfmin (vd va vb : VReg) (m : MReg) (sm : BitVec 3) (s : State) : Host.Outcome State Fault Refusal := (opVfmin vd va vb m sm).run (.vfmin vd va vb m sm) s

/-- VFMAX (R183). -/
def opVfmax (vd va vb : VReg) (m : MReg) (sm : BitVec 3) : SlotOp :=
  vv2 4 vd va vb m (fun a b => fpMax (modA sm.toNat a) (modB sm.toNat b))
def execVfmax (vd va vb : VReg) (m : MReg) (sm : BitVec 3) (s : State) : Host.Outcome State Fault Refusal := (opVfmax vd va vb m sm).run (.vfmax vd va vb m sm) s

/-- VFUN (R70, R184). -/
def opVfun (vd va : VReg) (m : MReg) (fn : FunCode) (sm : BitVec 2) (rm : RM) : SlotOp :=
  vv1 8 vd va m (fun a => vfun fn rm (modA sm.toNat a))
def execVfun (vd va : VReg) (m : MReg) (fn : FunCode) (sm : BitVec 2) (rm : RM) (s : State) : Host.Outcome State Fault Refusal := (opVfun vd va m fn sm rm).run (.vfun vd va m fn sm rm) s

/-! ## Vector-scalar forms (R185) -/

/-- VADDS (R185). -/
def opVadds (vd va : VReg) (sa : SReg) (m : MReg) (ty : STy) : SlotOp :=
  vs2 1 vd va sa m (fun a x => elemwise (STy.width ty) (fun a b => (a + b : Nat)) a (splat (STy.width ty) x))
def execVadds (vd va : VReg) (sa : SReg) (m : MReg) (ty : STy) (s : State) : Host.Outcome State Fault Refusal := (opVadds vd va sa m ty).run (.vadds vd va sa m ty) s

/-- VMULS (R185). -/
def opVmuls (vd va : VReg) (sa : SReg) (m : MReg) (ty : STy) : SlotOp :=
  vs2 1 vd va sa m (fun a x => elemwise (STy.width ty) (fun a b => (a * b : Nat)) a (splat (STy.width ty) x))
def execVmuls (vd va : VReg) (sa : SReg) (m : MReg) (ty : STy) (s : State) : Host.Outcome State Fault Refusal := (opVmuls vd va sa m ty).run (.vmuls vd va sa m ty) s

/-- VFADDS (R185). -/
def opVfadds (vd va : VReg) (sa : SReg) (m : MReg) (sm : BitVec 3) (rm : RM) : SlotOp :=
  vs2 4 vd va sa m (fun a x => roundFp32 rm ((modA sm.toNat a).add rm (modB sm.toNat x)))
def execVfadds (vd va : VReg) (sa : SReg) (m : MReg) (sm : BitVec 3) (rm : RM) (s : State) : Host.Outcome State Fault Refusal := (opVfadds vd va sa m sm rm).run (.vfadds vd va sa m sm rm) s

/-- VFMULS (R185). -/
def opVfmuls (vd va : VReg) (sa : SReg) (m : MReg) (sm : BitVec 3) (rm : RM) : SlotOp :=
  vs2 4 vd va sa m (fun a x => roundFp32 rm ((modA sm.toNat a).mul (modB sm.toNat x)))
def execVfmuls (vd va : VReg) (sa : SReg) (m : MReg) (sm : BitVec 3) (rm : RM) (s : State) : Host.Outcome State Fault Refusal := (opVfmuls vd va sa m sm rm).run (.vfmuls vd va sa m sm rm) s

/-- VFMAS: the addend VD is read at issue (R185). -/
def opVfmas (vd va : VReg) (sa : SReg) (m : MReg) (sm : BitVec 4) (rm : RM) : SlotOp :=
  { slot := 2, reads := [rV va, rS sa, rV vd, rM m], writes := [.v vd.val], lat := 4,
    act := fun s =>
      let c := s.me
      let n := sm.toNat
      let x := modB n ((c.rdS sa).setWidth 32)
      s.putV 2 vd (c.mask m) (mapLanes2 (fun a d => roundFp32 rm (((modA n a).mul x).add rm (modC n d))) (c.rdV va) (c.rdV vd)) 4 }
def execVfmas (vd va : VReg) (sa : SReg) (m : MReg) (sm : BitVec 4) (rm : RM) (s : State) : Host.Outcome State Fault Refusal := (opVfmas vd va sa m sm rm).run (.vfmas vd va sa m sm rm) s

/-! ## Compares and masks (R186, R187) -/

/-- A compare into a mask register: the active lanes of MD are written. -/
def vcompare (lat : Nat) (md : MReg) (va vb : VReg) (m : MReg) (w : MaskOp) (f : W32 → W32 → Bool) : SlotOp :=
  { slot := 2, reads := [rV va, rV vb, rM m] ++ (if w = .set then [] else [rM md]), writes := [.m md.val], lat := lat,
    act := fun s =>
      let c := s.me
      let a := c.rdV va
      let b := c.rdV vb
      let old := c.rdM md
      s.putM 2 md (c.mask m) (maskOf (fun i => maskCombine w (old.getLsbD i) (f (lane a i) (lane b i))) 64) lat }

def TTy.width : TTy → Nat
  | .tap32 => 32
  | .tap16 => 16
  | .tap8 => 8

/-- VCMP (R186). -/
def opVcmp (md : MReg) (va vb : VReg) (m : MReg) (cc : ICC) (w : MaskOp) : SlotOp :=
  vcompare 1 md va vb m w (fun a b => compareInt 32 cc a.toNat b.toNat)
def execVcmp (md : MReg) (va vb : VReg) (m : MReg) (cc : ICC) (w : MaskOp) (s : State) : Host.Outcome State Fault Refusal := (opVcmp md va vb m cc w).run (.vcmp md va vb m cc w) s

/-- VFCMP (R186). -/
def opVfcmp (md : MReg) (va vb : VReg) (m : MReg) (cc : FCC) (w : MaskOp) : SlotOp :=
  vcompare 4 md va vb m w (fun a b => compareFp cc (fp32 a) (fp32 b))
def execVfcmp (md : MReg) (va vb : VReg) (m : MReg) (cc : FCC) (w : MaskOp) (s : State) : Host.Outcome State Fault Refusal := (opVfcmp md va vb m cc w).run (.vfcmp md va vb m cc w) s

/-- VTCMP (R186). -/
def opVtcmp (md : MReg) (va vb : VReg) (m : MReg) (ty : TTy) (cc : TCC) (w : MaskOp) : SlotOp :=
  vcompare 1 md va vb m w (fun a b => compareTap (TTy.width ty) cc a.toNat b.toNat)
def execVtcmp (md : MReg) (va vb : VReg) (m : MReg) (ty : TTy) (cc : TCC) (w : MaskOp) (s : State) : Host.Outcome State Fault Refusal := (opVtcmp md va vb m ty cc w).run (.vtcmp md va vb m ty cc w) s

/-- VSEL: every lane is written (R187). -/
def opVsel (vd va vb : VReg) (m : MReg) : SlotOp :=
  { slot := 2, reads := [rV va, rV vb, rM m], writes := [.v vd.val],
    act := fun s => s.putV 2 vd (BitVec.allOnes 64) (mergeLanes (s.me.mask m) (s.me.rdV vb) (s.me.rdV va)) 1 }
def execVsel (vd va vb : VReg) (m : MReg) (s : State) : Host.Outcome State Fault Refusal := (opVsel vd va vb m).run (.vsel vd va vb m) s

/-- MLOG (R187). -/
def opMlog (md ma mb : MReg) (fn : BitVec 4) : SlotOp :=
  { slot := 2, reads := [rM ma, rM mb], writes := [.m md.val],
    act := fun s =>
      s.putM 2 md (BitVec.allOnes 64) (maskOf (fun i => logicFn fn ((s.me.rdM ma).getLsbD i) ((s.me.rdM mb).getLsbD i)) 64) 1 }
def execMlog (md ma mb : MReg) (fn : BitVec 4) (s : State) : Host.Outcome State Fault Refusal := (opMlog md ma mb fn).run (.mlog md ma mb fn) s

/-- MPOP (R187). -/
def opMpop (d : SReg) (ma : MReg) : SlotOp :=
  { slot := 2, reads := [rM ma], writes := [.s d.val],
    act := fun s => s.putS 2 d (BitVec.ofNat 64 (popCount 64 (s.me.rdM ma).toNat)) 1 }
def execMpop (d : SReg) (ma : MReg) (s : State) : Host.Outcome State Fault Refusal := (opMpop d ma).run (.mpop d ma) s

/-- VIOTA: every lane is written (R187). -/
def opViota (vd : VReg) (m : MReg) : SlotOp :=
  { slot := 2, reads := [rM m], writes := [.v vd.val],
    act := fun s =>
      s.putV 2 vd (BitVec.allOnes 64) (vecOf ((List.range 64).map fun i => BitVec.ofNat 32 (popCount i (s.me.mask m).toNat))) 1 }
def execViota (vd : VReg) (m : MReg) (s : State) : Host.Outcome State Fault Refusal := (opViota vd m).run (.viota vd m) s

/-! ## Conversions (R188-R192) -/

/-- The first failing conversion of a list of (place, code) (R192, R376). -/
def convTrap (sf df : Fmt) (rm : RM) (ov : OV) (l : List (Nat × Nat)) : Option Trap :=
  l.findSome? fun p =>
    match convert sf df p.2 rm ov with
    | .ok _ => none
    | .error sub => some { cause := 0x20, sub := sub, info0 := BitVec.ofNat 64 p.1, info1 := BitVec.ofNat 64 p.2 }

/-- The source codes of the active lanes, as wide as SF. -/
def laneCodes (sf : Fmt) (v : BitVec 2048) (m : BitVec 64) : List (Nat × Nat) :=
  (activeLanes m).map fun i => (i, (lane v i).toNat % 2 ^ Fmt.width sf)

/-- VCVT (R188): a reserved TRI2 code in an active lane sets STICKY.RSVD at t + 3 (R59). -/
def opVcvt (vd va : VReg) (sf df : Fmt) (rm : RM) (ov : OV) (m : MReg) : SlotOp :=
  { slot := 2, reads := [rV va, rM m], writes := [.v vd.val], lat := 3,
    check := fun s => convTrap sf df rm ov (laneCodes sf (s.me.peekV va) (s.me.mask m))
    act := fun s =>
      let c := s.me
      let v := c.rdV va
      let t := s.putV 2 vd (c.mask m)
        (mapLanes (fun x => cvtExtend df (convertD sf df (x.toNat % 2 ^ Fmt.width sf) rm ov)) v) 3
      if (laneCodes sf v (c.mask m)).any fun p => reservedCode sf p.2 then t.updMe (·.later 3 2 (.sticky stickyRsvd)) else t }
def execVcvt (vd va : VReg) (sf df : Fmt) (rm : RM) (ov : OV) (m : MReg) (s : State) : Host.Outcome State Fault Refusal := (opVcvt vd va sf df rm ov m).run (.vcvt vd va sf df rm ov m) s

/-- The 64 narrow elements of part p of a packed vector (R189). -/
def packedPart (w p : Nat) (v : BitVec 2048) : List Nat := unpackNat w 64 (v.toNat / 2 ^ (w * 64 * p))

/-- Lanes that part p of a packed vector covers. -/
def partMask (w p : Nat) : BitVec 64 := maskOf (fun i => decide (2 * w * p ≤ i) && decide (i < 2 * w * (p + 1))) 64

/-- VPACK (R190). -/
def opVpack (vd va : VReg) (sf df : Fmt) (rm : RM) (ov : OV) (part : Fin 4) : SlotOp :=
  { slot := 2, reads := [rV va], writes := [.v vd.val], lat := 3,
    check := fun s => convTrap sf df rm ov (laneCodes sf (s.me.peekV va) (BitVec.allOnes 64))
    act := fun s =>
      let w := Fmt.width df
      let e := (lanes (s.me.rdV va)).map fun x => convertD sf df x.toNat rm ov
      s.putV 2 vd (partMask w part.val) (BitVec.ofNat 2048 (packNat w e * 2 ^ (w * 64 * part.val))) 3 }
def execVpack (vd va : VReg) (sf df : Fmt) (rm : RM) (ov : OV) (part : Fin 4) (s : State) : Host.Outcome State Fault Refusal := (opVpack vd va sf df rm ov part).run (.vpack vd va sf df rm ov part) s

/-- VUNPK (R191). -/
def opVunpk (vd va : VReg) (sf df : Fmt) (rm : RM) (ov : OV) (part : Fin 4) : SlotOp :=
  { slot := 2, reads := [rV va], writes := [.v vd.val], lat := 3,
    check := fun s =>
      convTrap sf df rm ov ((packedPart (Fmt.width sf) part.val (s.me.peekV va)).zipIdx.map fun p => (p.2, p.1))
    act := fun s =>
      let e := (packedPart (Fmt.width sf) part.val (s.me.rdV va)).map fun x => BitVec.ofNat 32 (convertD sf df x rm ov)
      s.putV 2 vd (BitVec.allOnes 64) (vecOf e) 3 }
def execVunpk (vd va : VReg) (sf df : Fmt) (rm : RM) (ov : OV) (part : Fin 4) (s : State) : Host.Outcome State Fault Refusal := (opVunpk vd va sf df rm ov part).run (.vunpk vd va sf df rm ov part) s

/-! ## Permutes, broadcast, insert and extract (R193-R195) -/

/-- VPERM (R193). -/
def opVperm (vd va vb : VReg) (m : MReg) : SlotOp :=
  { slot := 2, reads := [rV va, rV vb, rM m], writes := [.v vd.val], lat := 2,
    act := fun s =>
      let a := s.me.rdV va
      s.putV 2 vd (s.me.mask m) (mapLanes (fun x => if x.getLsbD 6 then 0 else lane a (x.toNat % 64)) (s.me.rdV vb)) 2 }
def execVperm (vd va vb : VReg) (m : MReg) (s : State) : Host.Outcome State Fault Refusal := (opVperm vd va vb m).run (.vperm vd va vb m) s

/-- The lane that a shuffle pattern selects for lane i (R194). -/
def shufLane (fn : ShufFn) (k : Nat) (a b : BitVec 2048) (i : Nat) : W32 :=
  match fn with
  | .rot => lane a ((i + k) % 64)
  | .slidedn => if i + k < 64 then lane a (i + k) else lane b (i + k - 64)
  | .slideup => if k ≤ i then lane a (i - k) else lane b (64 - k + i)
  | .bcastl => lane a k
  | .xorsw => lane a (Nat.xor i k)
  | .ziplo => if i % 2 = 0 then lane a (i / 2) else lane b ((i - 1) / 2)
  | .ziphi => if i % 2 = 0 then lane a (32 + i / 2) else lane b (32 + (i - 1) / 2)
  | .unzipe => if i < 32 then lane a (2 * i) else lane b (2 * (i - 32))
  | .unzipo => if i < 32 then lane a (2 * i + 1) else lane b (2 * (i - 32) + 1)
  | .rev => lane a (63 - i)

/-- The patterns that read VB (R194). -/
def ShufFn.readsB : ShufFn → Bool
  | .slidedn | .slideup | .ziplo | .ziphi | .unzipe | .unzipo => true
  | .rot | .bcastl | .xorsw | .rev => false

/-- VSHUF (R194). -/
def opVshuf (vd va vb : VReg) (fn : ShufFn) (k : Fin 64) (m : MReg) : SlotOp :=
  { slot := 2, reads := [rV va, rM m] ++ (if ShufFn.readsB fn then [rV vb] else []), writes := [.v vd.val], lat := 2,
    act := fun s =>
      s.putV 2 vd (s.me.mask m) (vecOf ((List.range 64).map (shufLane fn k.val (s.me.rdV va) (s.me.rdV vb)))) 2 }
def execVshuf (vd va vb : VReg) (fn : ShufFn) (k : Fin 64) (m : MReg) (s : State) : Host.Outcome State Fault Refusal := (opVshuf vd va vb fn k m).run (.vshuf vd va vb fn k m) s

def BTy.width : BTy → Nat
  | .b32 => 32
  | .b16 => 16
  | .b8 => 8

/-- VBCAST (R195). -/
def opVbcast (vd : VReg) (sa : SReg) (m : MReg) (ty : BTy) : SlotOp :=
  { slot := 2, reads := [rS sa, rM m], writes := [.v vd.val], lat := 2,
    act := fun s =>
      s.putV 2 vd (s.me.mask m) (vecOf (List.replicate 64 (splat (BTy.width ty) ((s.me.rdS sa).setWidth 32)))) 2 }
def execVbcast (vd : VReg) (sa : SReg) (m : MReg) (ty : BTy) (s : State) : Host.Outcome State Fault Refusal := (opVbcast vd sa m ty).run (.vbcast vd sa m ty) s

/-- VEXT (R195). -/
def opVext (d : SReg) (va : VReg) (ln : Fin 64) : SlotOp :=
  { slot := 2, reads := [rV va], writes := [.s d.val], lat := 2,
    act := fun s => s.putS 2 d ((lane (s.me.rdV va) ln.val).setWidth 64) 2 }
def execVext (d : SReg) (va : VReg) (ln : Fin 64) (s : State) : Host.Outcome State Fault Refusal := (opVext d va ln).run (.vext d va ln) s

/-- VINS: one lane is written (R195). -/
def opVins (vd : VReg) (sa : SReg) (ln : Fin 64) : SlotOp :=
  { slot := 2, reads := [rS sa], writes := [.v vd.val], lat := 2,
    act := fun s =>
      s.putV 2 vd (BitVec.ofNat 64 (2 ^ ln.val)) (vecOf (List.replicate 64 ((s.me.rdS sa).setWidth 32))) 2 }
def execVins (vd : VReg) (sa : SReg) (ln : Fin 64) (s : State) : Host.Outcome State Fault Refusal := (opVins vd sa ln).run (.vins vd sa ln) s

/-! ## Lane reductions (R196, R197) -/

/-- A pair of the tree: an absent member lets the other pass. -/
def pairUp {α : Type} (op : α → α → α) : Option α → Option α → Option α
  | some a, some b => some (op a b)
  | some a, none => some a
  | none, b => b

/-- One level of lane_tree. -/
def treeLevel {α : Type} (op : α → α → α) : List (Option α) → List (Option α)
  | a :: b :: r => pairUp op a b :: treeLevel op r
  | l => l

/-- lane_tree over 64 lanes: six levels. -/
def laneTree {α : Type} (op : α → α → α) (l : List (Option α)) : Option α :=
  (treeLevel op (treeLevel op (treeLevel op (treeLevel op (treeLevel op (treeLevel op l)))))).headD none

/-- Lanes with the inactive ones absent. -/
def presentLanes (v : BitVec 2048) (m : BitVec 64) : List (Option W32) :=
  (List.range 64).map fun i => if m.getLsbD i then some (lane v i) else none

/-- VRED's operation and its value when every lane is absent. -/
def redOp (isUnsigned : Bool) (fn : RedFn) (a b : W32) : W32 :=
  let le := if isUnsigned then decide (a.toNat ≤ b.toNat) else decide (a.toInt ≤ b.toInt)
  match fn with
  | .add => a + b
  | .min => if le then a else b
  | .max => if le then b else a
  | .and => a &&& b
  | .or => a ||| b
  | .xor => a ^^^ b

def redNone (isUnsigned : Bool) : RedFn → W32
  | .add | .or | .xor => 0
  | .min => if isUnsigned then 0xFFFFFFFF else 0x7FFFFFFF
  | .max => if isUnsigned then 0 else 0x80000000
  | .and => 0xFFFFFFFF

/-- VFRED's operation and its value when every lane is absent. -/
def fredOp (fn : FRedFn) (rm : RM) (a b : W32) : W32 :=
  match fn with
  | .add => roundFp32 rm ((fp32 a).add rm (fp32 b))
  | .min => fpMin (fp32 a) (fp32 b)
  | .max => fpMax (fp32 a) (fp32 b)

def fredNone : FRedFn → W32
  | .add => 0
  | .min => 0x7F800000
  | .max => 0xFF800000

/-- VRED (R197). -/
def opVred (d : SReg) (va : VReg) (m : MReg) (isUnsigned : Bool) (fn : RedFn) : SlotOp :=
  { slot := 2, reads := [rV va, rM m], writes := [.s d.val], lat := 6,
    act := fun s =>
      let r := (laneTree (redOp isUnsigned fn) (presentLanes (s.me.rdV va) (s.me.mask m))).getD (redNone isUnsigned fn)
      s.putS 2 d (if isUnsigned then r.setWidth 64 else r.signExtend 64) 6 }
def execVred (d : SReg) (va : VReg) (m : MReg) (isUnsigned : Bool) (fn : RedFn) (s : State) : Host.Outcome State Fault Refusal := (opVred d va m isUnsigned fn).run (.vred d va m isUnsigned fn) s

/-- VFRED (R197). -/
def opVfred (d : SReg) (va : VReg) (m : MReg) (fn : FRedFn) (rm : RM) : SlotOp :=
  { slot := 2, reads := [rV va, rM m], writes := [.s d.val], lat := 6,
    act := fun s =>
      s.putS 2 d (((laneTree (fredOp fn rm) (presentLanes (s.me.rdV va) (s.me.mask m))).getD (fredNone fn)).setWidth 64) 6 }
def execVfred (d : SReg) (va : VReg) (m : MReg) (fn : FRedFn) (rm : RM) (s : State) : Host.Outcome State Fault Refusal := (opVfred d va m fn rm).run (.vfred d va m fn rm) s

/-! ## Queue pops and moves (R198) -/

/-- VPOP (R198): the row leaves the queue at issue. -/
def opVpop (vd : VReg) (q : QReg) : SlotOp :=
  { slot := 2, writes := [.v vd.val], pops := some (q, 1),
    act := fun s =>
      let row := (((s.me.queue q).head?).map (·.words)).getD 0
      (s.putV 2 vd (BitVec.allOnes 64) row 1).popQueue q 1 }
def execVpop (vd : VReg) (q : QReg) (s : State) : Host.Outcome State Fault Refusal := (opVpop vd q).run (.vpop vd q) s

/-- VMOV (R198). -/
def opVmov (vd va : VReg) (m : MReg) : SlotOp :=
  vv1 1 vd va m id
def execVmov (vd va : VReg) (m : MReg) (s : State) : Host.Outcome State Fault Refusal := (opVmov vd va m).run (.vmov vd va m) s

end Sys2Proof.Machine
end

