-- ==== Sys2Proof/Machine/SlotTable.lean ====
section
/-! DEFINITION. The slot operation that each instruction of the slot classes stands for; the part's other steps are none. -/

namespace Sys2Proof.Machine

def slotOp (i : Instr) : Option SlotOp :=
  match i with
  | .nop => some (opNop)
  | .br off => some (opBr off)
  | .call off => some (opCall off)
  | .bri a => some (opBri a)
  | .ret => some (opRet)
  | .loop a body => some (opLoop a body)
  | .endt => some (opEndt)
  | .align => some (opAlign)
  | .sstep exchange => some (opSstep exchange)
  | .fence kind sco => some (opFence kind sco)
  | .qmark => some (opQmark)
  | .waitcImm ch imm => some (opWaitcImm ch imm)
  | .waitcReg ch a => some (opWaitcReg ch a)
  | .trap code => some (opTrap code)
  | .rft => some (opRft)
  | .rewind => some (opRewind)
  | .csrr d csr => some (opCsrr d csr)
  | .csrw csr a => some (opCsrw csr a)
  | .lcrd d => some (opLcrd d)
  | .plog pd pa pb fn => some (opPlog pd pa pb fn)
  | .movps d mask => some (opMovps d mask)
  | .movsp a mask => some (opMovsp a mask)
  | .launch a b node => some (opLaunch a b node)
  | .nodew d => some (opNodew d)
  | .sigh a b vec => some (opSigh a b vec)
  | .yield => some (opYield)
  | .gdone => some (opGdone)
  | .add d a b => some (opAdd d a b)
  | .sub d a b => some (opSub d a b)
  | .addi d a imm => some (opAddi d a imm)
  | .mul d a b => some (opMul d a b)
  | .mulh d a b => some (opMulh d a b)
  | .mulhn d a b => some (opMulhn d a b)
  | .div d a b => some (opDiv d a b)
  | .divn d a b => some (opDivn d a b)
  | .rem d a b => some (opRem d a b)
  | .remn d a b => some (opRemn d a b)
  | .and d a b => some (opAnd d a b)
  | .or d a b => some (opOr d a b)
  | .xor d a b => some (opXor d a b)
  | .andi d a imm => some (opAndi d a imm)
  | .ori d a imm => some (opOri d a imm)
  | .xori d a imm => some (opXori d a imm)
  | .shl d a b => some (opShl d a b)
  | .shr d a b => some (opShr d a b)
  | .sha d a b => some (opSha d a b)
  | .shli d a n => some (opShli d a n)
  | .shri d a n => some (opShri d a n)
  | .shai d a n => some (opShai d a n)
  | .min d a b => some (opMin d a b)
  | .max d a b => some (opMax d a b)
  | .minn d a b => some (opMinn d a b)
  | .maxn d a b => some (opMaxn d a b)
  | .li d imm => some (opLi d imm)
  | .lih d imm => some (opLih d imm)
  | .cmp pd a b cc => some (opCmp pd a b cc)
  | .cmpi pd a cc imm => some (opCmpi pd a cc imm)
  | .sel d a b p => some (opSel d a b p)
  | .clz d a => some (opClz d a)
  | .popc d a => some (opPopc d a)
  | .bfx d a pos len => some (opBfx d a pos len)
  | .bfi d a b pos len => some (opBfi d a b pos len)
  | .addr d a b x => some (opAddr d a b x)
  | .chkeq a b => some (opChkeq a b)
  | .sfadd d a b rm => some (opSfadd d a b rm)
  | .sfmul d a b rm => some (opSfmul d a b rm)
  | .sffma d a b c rm => some (opSffma d a b c rm)
  | .sfcmp pd a b cc => some (opSfcmp pd a b cc)
  | .scvt d a sf df rm ov => some (opScvt d a sf df rm ov)
  | .vadd vd va vb m ty => some (opVadd vd va vb m ty)
  | .vsub vd va vb m ty => some (opVsub vd va vb m ty)
  | .vmul vd va vb m ty => some (opVmul vd va vb m ty)
  | .vmulh vd va vb m ty => some (opVmulh vd va vb m ty)
  | .vmin vd va vb m ty => some (opVmin vd va vb m ty)
  | .vmax vd va vb m ty => some (opVmax vd va vb m ty)
  | .vand vd va vb m ty => some (opVand vd va vb m ty)
  | .vor vd va vb m ty => some (opVor vd va vb m ty)
  | .vxor vd va vb m ty => some (opVxor vd va vb m ty)
  | .vshl vd va vb m ty => some (opVshl vd va vb m ty)
  | .vshr vd va vb m ty => some (opVshr vd va vb m ty)
  | .vsha vd va vb m ty => some (opVsha vd va vb m ty)
  | .vabs vd va m ty => some (opVabs vd va m ty)
  | .vfadd vd va vb m sm rm => some (opVfadd vd va vb m sm rm)
  | .vfsub vd va vb m sm rm => some (opVfsub vd va vb m sm rm)
  | .vfmul vd va vb m sm rm => some (opVfmul vd va vb m sm rm)
  | .vfma vd va vb vc m sm rm => some (opVfma vd va vb vc m sm rm)
  | .vfmin vd va vb m sm => some (opVfmin vd va vb m sm)
  | .vfmax vd va vb m sm => some (opVfmax vd va vb m sm)
  | .vfun vd va m fn sm rm => some (opVfun vd va m fn sm rm)
  | .vadds vd va sa m ty => some (opVadds vd va sa m ty)
  | .vmuls vd va sa m ty => some (opVmuls vd va sa m ty)
  | .vfadds vd va sa m sm rm => some (opVfadds vd va sa m sm rm)
  | .vfmuls vd va sa m sm rm => some (opVfmuls vd va sa m sm rm)
  | .vfmas vd va sa m sm rm => some (opVfmas vd va sa m sm rm)
  | .vcmp md va vb m cc w => some (opVcmp md va vb m cc w)
  | .vfcmp md va vb m cc w => some (opVfcmp md va vb m cc w)
  | .vtcmp md va vb m ty cc w => some (opVtcmp md va vb m ty cc w)
  | .vsel vd va vb m => some (opVsel vd va vb m)
  | .mlog md ma mb fn => some (opMlog md ma mb fn)
  | .mpop d ma => some (opMpop d ma)
  | .viota vd m => some (opViota vd m)
  | .vcvt vd va sf df rm ov m => some (opVcvt vd va sf df rm ov m)
  | .vpack vd va sf df rm ov part => some (opVpack vd va sf df rm ov part)
  | .vunpk vd va sf df rm ov part => some (opVunpk vd va sf df rm ov part)
  | .vperm vd va vb m => some (opVperm vd va vb m)
  | .vshuf vd va vb fn k m => some (opVshuf vd va vb fn k m)
  | .vbcast vd sa m ty => some (opVbcast vd sa m ty)
  | .vext d va ln => some (opVext d va ln)
  | .vins vd sa ln => some (opVins vd sa ln)
  | .vred d va m isUnsigned fn => some (opVred d va m isUnsigned fn)
  | .vfred d va m fn rm => some (opVfred d va m fn rm)
  | .vpop vd q => some (opVpop vd q)
  | .vmov vd va m => some (opVmov vd va m)
  | .movtc t a => some (opMovtc t a)
  | .movfc d t => some (opMovfc d t)
  | .tld t bs tr tc tagx => some (opTld t bs tr tc tagx)
  | .tzero t => some (opTzero t)
  | .mma aw ta tb neg clr sum => some (opMma aw ta tb neg clr sum)
  | .mmt aw ta tb neg clr sum => some (opMmt aw ta tb neg clr sum)
  | .aclr aw => some (opAclr aw)
  | .ald row col ncol nrow bs => some (opAld row col ncol nrow bs)
  | .acpy row col ncol nrow bs => some (opAcpy row col ncol nrow bs)
  | .drain aw q nrow df rm ov scl a => some (opDrain aw q nrow df rm ov scl a)
  | .agive aw => some (opAgive aw)
  | .qclr q => some (opQclr q)
  | .qcnt d q => some (opQcnt d q)
  | .ld d bs off sz sg sp tc tagx ord sco => some (opLd d bs off sz sg sp tc tagx ord sco)
  | .st d bs off sz sp tc tagx ord sco => some (opSt d bs off sz sp tc tagx ord sco)
  | .vld vd bs off str m sp tc tagx => some (opVld vd bs off str m sp tc tagx)
  | .vst vd bs off str m sp tc tagx => some (opVst vd bs off str m sp tc tagx)
  | .vldg vd vi bs m sp sc => some (opVldg vd vi bs m sp sc)
  | .vsts vd vi bs m sp sc => some (opVsts vd vi bs m sp sc)
  | .ldw d w off sz sg => some (opLdw d w off sz sg)
  | .vldw vd w off => some (opVldw vd w off)
  | .give tile out cnt => some (opGive tile out cnt)
  | .tagrd d tile => some (opTagrd d tile)
  | .tfmt tile fmt => some (opTfmt tile fmt)
  | .sbind f a => some (opSbind f a)
  | .sfree f => some (opSfree f)
  | .copygo ch a => some (opCopygo ch a)
  | .qst q bs off => some (opQst q bs off)
  | .atom d bs b c opk wide sp sco => some (opAtom d bs b c opk wide sp sco)
  | .atomd bs b opk wide sco => some (opAtomd bs b opk wide sco)
  | .casw d bs x y four sco => some (opCasw d bs x y four sco)
  | .enq d bs b => some (opEnq d bs b)
  | .chase d bs cnt off => some (opChase d bs cnt off)
  | .rst bs b chip wide => some (opRst bs b chip wide)
  | .ratom d bs b chip opk wide => some (opRatom d bs b chip opk wide)
  | .rld d bs chip wide => some (opRld d bs chip wide)
  | .flusha chip => some (opFlusha chip)
  | .flushaAll => some (opFlushaAll)
  | .send v circ lanes => some (opSend v circ lanes)
  | .recv v circ delta lanes => some (opRecv v circ delta lanes)
  | .sendt tile circ => some (opSendt tile circ)
  | .recvt tile circ delta => some (opRecvt tile circ delta)
  | .qsend q circ nrow => some (opQsend q circ nrow)
  | .coll tmpl a ch inc => some (opColl tmpl a ch inc)
  | .ksrch a stk ch inc => some (opKsrch a stk ch inc)
  | .kred a stk ch inc => some (opKred a stk ch inc)
  | .kop a stk ch inc => some (opKop a stk ch inc)
  | .bundleNullified _ => none
  | .fixedLatencyResult _ => none
  | .heldBundleIssue _ => none
  | .variableLatencyReply _ => none
  | .timingTrap _ => none
  | .segmentExpansion _ => none
  | .alignComplete => none
  | .clusterAccessPerformed _ => none
  | .tileUnitArrival _ _ => none
  | .deferredReport _ => none
  | .nodeEnd => none
  | .storeEntersPort _ => none
  | .storePerformed _ => none
  | .wqAtomicPerformed _ => none
  | .mergeEntryClose _ => none
  | .chaseHopForward _ => none
  | .accessCountWindow => none
  | .aggElementEntry _ => none
  | .aggBufferAgeTimeout _ => none
  | .aggPacketApply _ => none
  | .aggAckReceived _ => none
  | .operationPacketReceived _ _ => none
  | .opPacketResendTimeout _ => none
  | .aggPacketResendTimeout _ => none
  | .missingSeqHoldTimeout _ _ _ => none
  | .migreq _ => none
  | .migrationHold => none
  | .migrationComplete => none
  | .routerSlot _ _ => none
  | .wireFlitReceived _ _ _ => none
  | .nakReceived _ => none
  | .ackReceived _ => none
  | .ackTimer _ => none
  | .replayTimer _ => none
  | .linkTrainingComplete _ => none
  | .retrainTimeout _ => none
  | .deadNotifyTimer _ => none
  | .alignFlitReceived _ => none
  | .messageTagCheck _ => none
  | .reRequestTimer _ => none
  | .reRequestReceived _ _ => none
  | .repairCopyReceived _ => none
  | .deliveryConfirmationReceived _ => none
  | .abortFlitReceived => none
  | .collAccept _ => none
  | .collMessageReceived => none
  | .collPatienceExpiry => none
  | .copyCommandAccept _ => none
  | .copyChunk _ => none
  | .followOn _ => none
  | .kredAccept _ => none
  | .kredChunk _ => none
  | .kopAccept _ => none
  | .kopBankRun _ => none
  | .ksrchAccept _ => none
  | .distanceRequest _ _ => none
  | .distanceReply _ _ => none
  | .rvk _ => none
  | .xlinv _ => none
  | .graphStartStore _ _ => none
  | .gctl _ _ => none
  | .hostAtomicop _ _ _ _ => none
  | .hostBar2Read _ _ => none
  | .hostBar2Write _ _ => none
  | .prgResponse _ _ => none
  | .atsInvalidation _ _ => none
  | .negotiateAlgorithms _ => none
  | .getCertificate _ _ _ => none
  | .challenge _ _ => none
  | .getMeasurements _ _ _ => none
  | .bootFirmwareVerify _ _ => none
  | .serviceLevelChange _ => none
  | .clockChange _ _ => none
  | .patrolScrub _ _ _ => none
  | .ceWindow _ => none
  | .bpladd _ => none
  | .lnkctlRetrain _ => none
  | .lnkctlDown _ => none
  | .registerWrite _ _ => none
  | .pageWalkComplete _ _ _ _ => none
  | .graphStart => none
  | .saveComplete => none
  | .restoreComplete => none
  | .getVersion => none
  | .getCapabilities => none
  | .getDigests => none
  | .coldReset => none
  | .warmReset => none
  | .bplCommit => none
  | .scrctlFreeze => none
  | .scrctlFrozen => none

end Sys2Proof.Machine
end

