-- ==== Sys2Proof/Machine/Bundle.lean ====
section
/-! DEFINITION. A core's next bundle reaches issue: what holds a task, deferred reports, fetch, encoding checks, the look-ahead nullifier,
restart points, and the issue itself (R25-R46, R113, R129, R130, R143, R350-R358, R367). -/

namespace Sys2Proof.Machine

/-! ## Decoding the bundle at the PC -/

/-- The collective templates that the image holds (R457). -/
def Image.collHeld (im : Image) : List Nat := (List.range im.collT.length).filter fun n => word512 (im.collT.getD n 0) 0 != 0

/-- What the encoding checks depend on beside the bits (R130). -/
def State.encCtx (s : State) (k : Nat) : EncCtx :=
  { cmd := k == cmdKey, collHeld := ((s.imageOf k).map Image.collHeld).getD [] }

/-- An encoding check as a trap (R372-R375). -/
def encTrap (e : EncErr) : Trap :=
  { cause := e.cause, sub := e.sub, slot := e.slot, info0 := BitVec.ofNat 64 e.info0, info1 := BitVec.ofNat 64 e.info1 }

/-- One valid slot as issue takes it. -/
def issueSlot (c : Core) (w : Nat) (x : Slot) : Option IssueSlot :=
  (slotOp x.op).map fun op => { word := w, guard := x.g, on := c.rdP x.g != x.gn, op := op }

/-- The slots of a bundle, ascending, with their guards as the core reads them. -/
def issueSlots (c : Core) (w : Nat) (b : Bundle) : List IssueSlot :=
  [(SlotClass.c, b.c), (.a, b.a), (.v, b.v), (.x, b.x), (.l, b.l), (.f, b.f)].filterMap fun p =>
    p.2.bind (issueSlot c (slotBits w p.1))

/-- What stands at the PC, judged on its bits (R129, R130). -/
inductive Head where
  | wait (head : Nat)
  /-- No bundle, or one that fails an encoding check: then its bits. -/
  | trap (t : Trap) (w : Option Nat)
  /-- A bundle: the half of the loop buffer that holds it, and its bits. -/
  | bundle (half1 : Bool) (w : Nat) (b : Bundle)

def State.head (s : State) (k : Nat) : Head :=
  if s.refetching k then .wait (s.core k).pc.toNat
  else
    match s.fetch k with
    | .wait h => .wait h
    | .trap t => .trap t none
    | .item half1 i =>
      match i.what with
      | .bundle w =>
        match decodeBundle (s.encCtx k) (s.core k).first w.toNat with
        | .ok b => .bundle half1 w.toNat b
        | .error e => .trap (encTrap e) (some w.toNat)
      | f =>
        match f.trap with
        | some t => .trap t none
        | none => .wait 0

/-- The valid slots of a bundle that decode for themselves, where the bundle as a whole fails an encoding check. -/
def soundSlots (ctx : EncCtx) (c : Core) (w : Nat) : List IssueSlot :=
  (allClasses.filter (slotValid w ·)).filterMap fun x =>
    match decodeSlot ctx x (slotBits w x) with
    | .ok y => issueSlot c (slotBits w x) y
    | .error _ => none

/-- The slots of what stands at the PC. -/
def State.headSlots (s : State) (k : Nat) : Head → List IssueSlot
  | .bundle _ w b => issueSlots (s.core k) w b
  | .trap _ (some w) => soundSlots (s.encCtx k) (s.core k) w
  | _ => []

/-! ## The look-ahead nullifier (R38-R40) -/

/-- Conditions 3 and 4 of R38 for one guard. -/
def Core.guardSettled (c : Core) (g : PReg) : Bool :=
  (g = 0 || !(c.past.any fun p => p.writes.getLsbD g.val)) &&
    match c.past[1]? with
    | none => true
    | some two =>
      decide (c.pvis[g] ≤ two.lc) && !(c.pend.any fun p => p.what.regs.contains (.p g.val) && decide (two.lc < p.key / 2))

/-- The bundle is nullified (R38). -/
def Core.nullifies (c : Core) (b : Bundle) : Bool :=
  !b.restart && b.slots.all fun x => c.rdP x.g == x.gn && (x.op != .align) && (x.g = 0 || c.guardSettled x.g)

/-- A nullified bundle passes: LC advances, and every eighth of a run takes one clk (R39). -/
def State.nullify (s : State) (k : Nat) (half1 : Bool) (w : Nat) (b : Bundle) : State :=
  let s := s.updCore k fun c => { c with inHalf1 := half1 }
  let c := s.core k
  let writes := predWrites ((issueSlots c w b).map (·.op))
  let n := c.nullRun + 1
  let s := s.advance k (s.nextPc k) b.stall.val (if n % 8 = 0 then 1 else 0) writes
  s.updCore k fun c => { c with nullRun := n }

/-! ## Restart points (R44, R45) -/

/-- The wait of a restart point for late writes to S and P (R45); its snapshot reads every one, and so waits for lagging targets too (R29). -/
def State.restartWait (s : State) (k : Nat) : List (Nat × Wait) :=
  (allSP.flatMap fun r => (s.regWait k 0x0B r).toList ++ (s.lateWait k r).toList).map fun w => (0, w)

/-- The snapshot of the state visible at the bundle's logical cycle. -/
def Core.snapshot (c : Core) : Core := { c with shadow := { s := c.s, p := c.p, pc := c.pc, lc := c.lc } }

/-! ## Supersteps and the end of a task (R41, R143) -/

/-- A cluster access that a boundary waits for: at SSTEP the stores and the atomics, which R41 names; at ENDT every one, as a load that fails is still to be
reported (R352). -/
def ClAcc.bounds (a : ClAcc) (ending : Bool) : Bool :=
  match a.op with
  | .ld _ _ _ | .vld _ _ _ | .vldg _ _ _ => ending && !a.abandoned
  | .st _ _ | .vst _ _ _ | .vsts _ _ _ | .atom _ _ _ _ _ => true

/-- Accesses of the core that SSTEP and ENDT wait for. -/
def State.outstanding (s : State) (k : Nat) : Nat :=
  (s.accs.filter fun a => a.core == k && !a.isPlace && !a.isAgg && !(a.isStream && a.inLoad) && (a.place != .performed || a.owes)).length
    + (s.clAccs.filter fun a => a.core == k && a.bounds ((s.core k).phase == .ending)).length

/-- Aggregation packets with elements of the task that are not acknowledged. -/
def State.unackedPackets (s : State) (k : Nat) : Nat :=
  (s.aggSent.filter fun p => p.elems.any fun e => e.task == k).length + (s.aggBufs.filter fun b => b.elems.any fun e => e.task == k).length

/-- The conditions of R41 hold. -/
def State.settled (s : State) (k : Nat) : Bool :=
  s.outstanding k == 0 && s.unackedPackets k == 0 && s.accs.all fun a => a.core != k || !a.isAgg

/-- The wait of SSTEP and ENDT, as R357 reports it. -/
def State.boundaryWait (s : State) (k : Nat) : Wait :=
  { sub := 0x0A, info0 := BitVec.ofNat 64 (s.outstanding k), info1 := BitVec.ofNat 64 (s.unackedPackets k) }

/-- The task ends: results in flight take effect; what they report comes first; input streams ask for nothing more (R143). -/
def State.endTask (s : State) (k : Nat) : State :=
  let s := s.commitAll k
  if (s.core k).phase != .ending || !(s.core k).reports.isEmpty then s
  else
    let s := { s with accs := s.accs.filter fun a => !(a.core == k && a.op.dest.isNone && !a.inStore && a.isStream) }
    s.updCore k fun c => { c.unhold s.clk with phase := .ended }

/-- Deferred reports that the next bundle takes before anything else: those that are due; at SSTEP those of failed remote operations as well (R417);
at ENDT every one (R352, R377, R407). -/
def Core.dueTraps (c : Core) : List Trap :=
  if c.phase == .ending then c.allReports
  else (c.reports.filter fun r => decide (r.due ≤ c.lc.toNat)).map (·.trap) ++ if c.phase == .sstep then c.regFaults.map (·.2.trap) else []

/-- The task's SSTEP is the boundary of a migration and has met the conditions of R41: the task is held (R277). -/
def State.migrationHolds (s : State) (k : Nat) : Bool :=
  match s.migration, s.node with
  | some m, some n =>
    m.slot == n.slot && k != cmdKey && (s.core k).phase == .sstep && decide (m.after ≤ (s.core k).sstepLc) && s.settled k
      && (s.core k).dueTraps.isEmpty
  | _, _ => false

/-- The hold of a migration begins with the first task that is held (R454, R459). -/
def State.beginHold (s : State) : State :=
  match s.migration with
  | some m => if m.heldFrom.isSome then s else { s.scribeAt m.slot 9 0 0x1FF 0 (BitVec.ofNat 64 m.index) with migration := some { m with heldFrom := some s.clk } }
  | none => s

/-- One more clock of a wait that patience bounds (R32): the trap, or the clock. -/
def State.countClock (s : State) (k : Nat) (out : State → State) : State :=
  match (s.core k).held with
  | none => (s.updCore k fun c => { c with held := some s.clk }).elapse 1
  | some t0 => if s.patience k ≤ s.counted k t0 then out s else s.elapse 1

/-- ENDT holds the task (R143). -/
def State.ending (s : State) (k : Nat) : State :=
  let c := s.core k
  match oldestTrap c.dueTraps with
  | some t => (s.updCore k fun c => { c with phase := .running }).trap k t c.lastPc c.lastLc
  | none =>
    if s.settled k then s.endTask k
    else (s.updCore k (·.stallsFrom s.clk 0x0A)).countClock k fun s => s.trap k (timingTrap 0 (s.boundaryWait k)) c.lastPc c.lastLc

/-! ## A trap whose entry waits (R351 step 1) -/

/-- The report of a wait that reaches the bound: it names the oldest bundle still outstanding. -/
def State.entryTimeout (s : State) (k : Nat) : Trap :=
  let out (r : Option Reg) (pc addr : Word) (lc : Nat) : Trap :=
    { cause := 0x10, sub := 1, slot := 4, info0 := (r.map Reg.word).getD 0, info1 := pc, addr := addr, opc := pc, defer := true, origin := lc }
  match s.awaited k, s.clAccs.find? (fun a => a.core == k && a.dest.isSome) with
  | some a, some b => if a.id < b.id then out a.op.dest a.pc a.addr a.lc else out b.dest b.pc (BitVec.ofNat 64 b.addr) (b.vis - 14)
  | some a, none => out a.op.dest a.pc a.addr a.lc
  | none, some b => out b.dest b.pc (BitVec.ofNat 64 b.addr) (b.vis - 14)
  | none, none => { cause := 0x10, sub := 1, defer := true }

/-- The core waits for its older operations, then enters the trap. A deferred report that is dropped stays to be taken again. At the bound the wait's own
report comes in its place, or that of an older operation that has failed (R351, R353). -/
def State.waitEntry (s : State) (k : Nat) (t : Trap) (pc lc : Word) : State :=
  if (s.awaited k).isSome || s.awaitedCl k then
    s.countClock k fun s => (s.abandon k).enter k (s.entryTimeout k) pc lc
  else s.enter k t pc lc

/-- A task of a node that has stopped halts before its next bundle (R367): a stall of its bundle ends, and it completes its older operations. -/
def State.halt (s : State) (k : Nat) : State :=
  let s := if (s.core k).stallFrom.isSome then s.updCore k (·.unhold s.clk) else s
  if (s.awaited k).isSome || s.awaitedCl k then
    s.countClock k fun s => ((s.abandon k).commitAll k).updCore k fun c => { c with phase := .stopped }
  else (s.commitAll k).updCore k fun c => { c with phase := .stopped }

/-! ## ALIGN (R26, R310, R357) -/

/-- The wait of an ALIGN: that of a node whose links align is bounded by patience, until every core has reached it and every link is aligned (R310);
that of another node is not. -/
def State.alignWait (s : State) : Wait :=
  let m := s.alignMasks
  { sub := if m.1 = 0 then 0 else 0x0E, info0 := BitVec.ofNat 64 m.1, info1 := BitVec.ofNat 64 m.2 }

/-- While a link has not aligned, the node's links go on sending align flits: one round with each clock that its first task is held. -/
def State.realign (s : State) (k : Nat) : State := if s.tasks.head? == some k && s.alignMasks.1 != s.alignMasks.2 then s.sendAlign else s

/-! ## The bundle at issue -/

/-- Results of DRAIN rows that the bundle's own cycle pushed are judged with the bundle's pops (R211). -/
def State.judgeRooms (s : State) (k : Nat) (l : List IssueSlot) : State :=
  let key := 2 * (s.core k).lc.toNat + 1
  let now := (s.core k).pend.filter fun p => p.key == key &&
    match p.what with
    | .room _ _ => true
    | _ => false
  now.foldl (fun s p =>
    match p.what with
    | .room o i =>
      if (s.core k).pend.contains p then
        (s.updCore k fun c => { c with pend := c.pend.erase p }).judgeRoom k p o i (popsBelow l o.q 6)
      else s
    | _ => s) s

/-- The bundle is decoded and not nullified: it waits, traps or issues. `extra` is the wait of an SSTEP before it. -/
def State.issueAt (s : State) (k : Nat) (half1 : Bool) (w : Nat) (b : Bundle) (extra : List (Nat × Wait)) : State :=
  let s := s.updCore k fun c => { c with inHalf1 := half1 }
  let l := issueSlots (s.core k) w b
  let extra := extra ++ if b.restart then s.restartWait k else []
  match s.judge k l extra with
  | .go =>
    let double := s.covOf k = 2 && l.any fun x => x.on && x.op.slot == 2
    (s.updCore k fun c =>
      { (if b.restart then c.snapshot else c) with nullRun := 0, clks := if double then c.clks + 1 else c.clks }).issueBundle k l b.stall.val extra
  | _ => s.issueBundle k l b.stall.val extra

/-- The deferred reports that what stands at the PC takes in its place (R352, R353): those due, and those that its slots meet. -/
def State.reportsNow (s : State) (k : Nat) (l : List IssueSlot) : List Trap := (s.core k).dueTraps ++ s.metReports k l (s.waits k l)

/-- The wait of an SSTEP whose conditions do not hold yet (R41). -/
def State.sstepWait (s : State) (k : Nat) : List (Nat × Wait) :=
  if (s.core k).phase == .sstep && !s.settled k then [(0, s.boundaryWait k)] else []

/-- The bundle at the PC is nullified. -/
def State.passes (s : State) (k : Nat) : Head → Bool
  | .bundle _ _ b => (s.core k).nullifies b
  | _ => false

/-- What stands at the PC of a task is taken (R353): a deferred report, an encoding check, or the bundle's waits, traps and issue. -/
def State.takeHead (s : State) (k : Nat) (h : Head) : State :=
  let s := s.judgeRooms k (s.headSlots k h)
  let c := s.core k
  match oldestTrap (s.reportsNow k (s.headSlots k h)), h with
  | some t, _ => s.trap k t c.pc c.lc
  | none, .bundle half1 w b => s.issueAt k half1 w b (s.sstepWait k)
  | none, .trap t _ => s.trap k t c.pc c.lc
  | none, .wait _ =>
    match firstWait ((0, { sub := 0x0D, info0 := c.pc }) :: s.sstepWait k) with
    | some (n, w) => s.hold k n w
    | none => s

/-- A running task's next bundle: it passes nullified, or is taken. -/
def State.runHead (s : State) (k : Nat) : State :=
  match s.head k with
  | .bundle half1 w b => if (s.core k).nullifies b then s.nullify k half1 w b else s.takeHead k (.bundle half1 w b)
  | h => s.takeHead k h

/-- A task's next bundle sees every result visible at its cycle. -/
def State.runBundle (s : State) (k : Nat) : State := (s.commitDue k).runHead k

/-- The bundle at the PC is one that is nullified. -/
def State.passesNow (s : State) (k : Nat) : Bool := s.passes k (s.head k)

/-- A record has stopped the task's node. -/
def State.stops (s : State) (k : Nat) : Bool := k != cmdKey && s.node.any (·.stopping)

/-- A record has stopped the task's node: it issues no bundle after those of the record's own clock (R367, R370). -/
def State.halting (s : State) (k : Nat) : Bool := s.stops k && !s.node.any fun n => s.clk == n.stopAt.1 && decide (n.stopAt.2 < k)

/-- In the clock of the node's first record the tasks issue in ascending order, one bundle each (R367). -/
def State.sameClock (s : State) (k : Nat) : State :=
  match s.node with
  | some n => if n.stopping && k != cmdKey then { s with node := some { n with stopAt := (n.stopAt.1, k) } } else s
  | none => s

/-- The bundle after an SSTEP: a nullified one passes, a migration may hold the task; once the conditions of R41 hold the task runs on. -/
def State.afterSstep (s : State) (k : Nat) : State :=
  if s.passesNow k then s.runBundle k
  else if s.migrationHolds k then s.beginHold
  else if s.settled k && (s.core k).dueTraps.isEmpty then (s.updCore k fun c => { c with phase := .running }).runBundle k
  else s.runBundle k

/-- What a task does with its present phase: it waits for the others, for its own accesses, or runs on. -/
def State.goOn (s : State) (k : Nat) : Phase → State
  | .absent | .ended | .stopped => s
  | .aligning => (s.realign k).hold k 0 s.alignWait
  | .ending => s.ending k
  | .sstep => s.afterSstep k
  | .running => s.runBundle k

/-- In the clock of the node's first record a task with a higher index still has its turn: its bundle issues, its wait ends, or its trap is taken; what is
held after all is halted (R367, R370). -/
def State.lastTurn (s : State) (k : Nat) (phase : Phase) : State :=
  let s := s.sameClock k
  let t := s.goOn k phase
  if s.stops k && t.clk != s.clk then s.halt k else t

/-- The core goes on: its next bundle, or what holds it. The cluster accesses of earlier cycles come before it. -/
def State.bundleStep (s : State) (k : Nat) : State :=
  let s := s.clDue k
  let c := s.core k
  match c.phase with
  | .absent | .ended | .stopped => s
  | phase =>
    match c.entering with
    | some (t, pc, lc) => s.waitEntry k t pc lc
    | none => if s.halting k then s.halt k else s.lastTurn k phase

end Sys2Proof.Machine
end

