-- ==== Sys2Proof/Machine/CoreSteps.lean ====
section
/-! DEFINITION. Steps of the cores: held and nullified bundles, results, timing traps, segment expansion, deferred reports, cluster
accesses, and the units of tile messages (R29-R41, R83-R85, R112, R352, R357, R363). -/

namespace Sys2Proof.Machine

/-! ## The next bundle of a core -/

/-- HELD_BUNDLE_ISSUE: the core goes on. -/
def execHeldBundleIssue (core : Nat) (s : State) : Host.Outcome State Fault Refusal := .next ({ s with cur := core }.bundleStep core)

/-- The bundle at the PC is nullified and nothing comes before it. -/
def State.canNullify (s : State) (k : Nat) : Bool :=
  let c := s.core k
  (c.phase == .running || c.phase == .sstep) && c.entering.isNone && !s.halting k && (s.commitDue k).passesNow k

/-- BUNDLE_NULLIFIED (R38, R39). -/
def execBundleNullified (core : Nat) (s : State) : Host.Outcome State Fault Refusal :=
  .next (let u := s.clDue core; if u.canNullify core then (u.sameClock core).runBundle core else s)

/-- FIXED_LATENCY_RESULT: results visible at the core's logical cycle (R34). -/
def execFixedLatencyResult (core : Nat) (s : State) : Host.Outcome State Fault Refusal := .next (s.commitDue core)

/-- TIMING_TRAP: the clocks of patience pass and the held bundle traps (R32, R357). -/
def State.outwait (s : State) (k : Nat) : State :=
  match (s.core k).held with
  | none => s
  | some t0 => ({ s with cur := k }.elapse (t0 + s.patience k - s.clk)).bundleStep k
def execTimingTrap (core : Nat) (s : State) : Host.Outcome State Fault Refusal := .next (s.outwait core)

/-- SEGMENT_EXPANSION (R112). -/
def execSegmentExpansion (core : Nat) (s : State) : Host.Outcome State Fault Refusal := .next (s.prefetch core)

/-- DEFERRED_REPORT: the next bundle of the core takes a report that is due (R352). -/
def State.reportStep (s : State) (k : Nat) : State :=
  if !(s.core k).dueTraps.isEmpty then { s with cur := k }.bundleStep k else s
def execDeferredReport (core : Nat) (s : State) : Host.Outcome State Fault Refusal := .next (s.reportStep core)

/-! ## Cluster accesses at their targets (R30) -/

/-- CLUSTER_ACCESS_PERFORMED. -/
def State.clStep (s : State) (id : Nat) : State :=
  match s.clAccs.find? (fun a => a.id == id) with
  | some a => if s.clReady a then s.clPerform a else s
  | none => s
def execClusterAccessPerformed (id : Nat) (s : State) : Host.Outcome State Fault Refusal := .next (s.clStep id)

/-! ## Units of a handoff (R83, R363, R412) -/

/-- An engine offers one unit to a tile, and whether the tile takes it. At the last unit ownership returns. -/
def Tile.offer (x : Tile) (inbound : Bool) (fmt : Nat) : Tile × Bool :=
  if x.engine && x.dir != inbound && x.arrived < x.expect then
    let y := { x with arrived := x.arrived + 1, offered := x.offered + 1 }
    if x.arrived + 1 = x.expect then
      ({ y with engine := false, tag := x.tag + 1, verified := false, fmt := if inbound then fmt else x.fmt }, true)
    else (y, true)
  else ({ x with offered := x.offered + 1, overrun := true }, false)

/-- The fabric interface moves its next unit of the tile: a SENDT's is read, a RECVT's is written. -/
def State.tileUnitStep (s : State) (k tile : Nat) (io : TileIo) : State :=
  let r := ((s.core k).tile tile).offer (!io.out) io.fmt
  let s := s.updCore k fun c =>
    let c := c.setLent tile r.1
    if r.2 && !io.out then c.storeLent tile (tile * 4096 + 64 * io.unit) 64 ((io.data.getD io.unit 0).toNat) else c
  let io' := { io with unit := io.unit + 1 }
  { s with tileIo :=
      if io.unit + 1 < io.data.length then s.tileIo.map fun x => if x == io then io' else x
      else s.tileIo.filter fun x => x != io }

/-- The fabric interface reads a word of the tile that cannot be corrected. No command of an engine stands behind a SENDT, and the model takes it for a
read of the core (R386): a machine check, and the message stays where it is. -/
def State.tileUnitBad (s : State) (k tile : Nat) (io : TileIo) : Option Trap :=
  if io.out then s.scratchMachineCheck k (tile * 4096 + 64 * io.unit) 64 else none

/-- TILE_UNIT_ARRIVAL. -/
def State.tileUnitArrival (s : State) (k tile : Nat) : State :=
  match s.tileIo.find? (fun x => x.core == k && x.tile == tile) with
  | some io =>
    match s.tileUnitBad k tile io with
    | some t => if (s.core k).over then s else s.machineCheck k t
    | none => s.tileUnitStep k tile io
  | none => s
def execTileUnitArrival (core tile : Nat) (s : State) : Host.Outcome State Fault Refusal := .next (s.tileUnitArrival core tile)

end Sys2Proof.Machine
end

