-- ==== Sys2Proof/Machine/MemSteps.lean ====
section
/-! DEFINITION. Steps of the memory side: loads bind their values, stores enter the port and reach the coherence point, the write-queue
atomic units, access counters and the migration hint queue, page walks (R98-R100, R250-R254, R265-R276, R334, R369, R388, R394-R397). -/

namespace Sys2Proof.Machine

/-! ## Merge entries (R269) -/

/-- The oldest last access of a controller's entries. -/
def oldestMerge (ctl : Nat) (l : List Merge) : Option Merge :=
  (l.filter (·.ctl == ctl)).foldl (fun b m =>
    match b with
    | none => some m
    | some x => if m.last < x.last then some m else some x) none

/-- The entry of a line is open after an atomic has reached it; with 128 in use the oldest is closed. -/
def State.openMerge (s : State) (key : Nat) : State :=
  let line := key / 64
  let ctl := controllerOf key
  if s.merges.any fun m => m.line == line then s.touch key 1
  else
    let full := 128 ≤ (s.merges.filter (·.ctl == ctl)).length
    let kept := match (if full then oldestMerge ctl s.merges else none) with
      | some m => s.merges.erase m
      | none => s.merges
    { s with merges := kept ++ [{ line := line, ctl := ctl, last := s.clk }] }

/-- MERGE_ENTRY_CLOSE: 256 clk have passed without an access. -/
def State.closeMerge (s : State) (line : Nat) : State :=
  { s with merges := s.merges.filter fun m => !(m.line == line && decide (m.last + 256 ≤ s.clk)) }
def execMergeEntryClose (line : Nat) (s : State) : Host.Outcome State Fault Refusal := .next (s.closeMerge line)

/-! ## Access counters (R275, R276) -/

/-- Where an atomic comes from. -/
inductive Origin where
  | here | host | dev (n : Nat)
  deriving DecidableEq, Repr

/-- A remote device's count, the first four that are seen each with its own. -/
def bumpRem (n : Nat) : List (Nat × Nat) → Option (List (Nat × Nat))
  | [] => none
  | (d, c) :: r => if d = n then some ((d, c + 1) :: r) else (bumpRem n r).map ((d, c) :: ·)

def CountRow.count (r : CountRow) : Origin → CountRow
  | .here => { r with loc := r.loc + 1 }
  | .host => { r with host := r.host + 1 }
  | .dev n =>
    match bumpRem n r.rems with
    | some l => { r with rems := l }
    | none => if r.rems.length < 4 then { r with rems := r.rems ++ [(n, 1)] } else { r with rother := r.rother + 1 }

/-- The largest REM counter and its device. -/
def CountRow.top (r : CountRow) : Nat × Nat := r.rems.foldl (fun b x => if b.2 < x.2 then x else b) (0, 0)

/-- The record of the migration hint queue. -/
def CountRow.record (r : CountRow) (window : Nat) : Nat :=
  let tier := if 2 ^ 36 ≤ r.region then 1 else 0
  let w0 := window % 4096 + tier * 2 ^ 12 + bits r.region 0 36 * 2 ^ 16
  packNat 64 [w0, r.loc % 2 ^ 32 + r.host * 2 ^ 32, r.rother % 2 ^ 32 + r.top.2 * 2 ^ 32, r.top.1]

/-- A row goes to the ring, or is dropped when the ring is full: in the model when one more record would make MHQHEAD equal MHQTAIL, as an empty ring has them
(R276 does not say, log entry 102). -/
def State.postHint (s : State) (r : CountRow) : State :=
  let g := s.regs
  if g.mhqhead + 1 = g.mhqtail then { s with regs := { g with mhqlost := g.mhqlost + 1 } }
  else
    let a := bits g.mhqbase.toNat 5 47 * 32 + 32 * g.mhqhead.toNat
    { s.post (.write a (leBytes 32 (r.record s.window))) with regs := { g with mhqhead := g.mhqhead + 1 } }

/-- One atomic reaches the unit of a byte. -/
def State.countAtomic (s : State) (key : Nat) (o : Origin) : State :=
  let ctl := controllerOf key
  let region := key / 65536
  let mine (r : CountRow) : Bool := r.ctl == ctl && r.region == region
  let s := if s.counts.any mine || 512 ≤ (s.counts.filter (·.ctl == ctl)).length then s
    else { s with counts := s.counts ++ [{ ctl := ctl, region := region }] }
  match s.counts.find? mine with
  | none => s
  | some r =>
    let r := r.count o
    let due := !r.posted && s.regs.migthr != 0 && decide (r.loc + s.regs.migthr.toNat ≤ r.top.2)
    let s := if due then s.postHint r else s
    { s with counts := s.counts.map fun x => if mine x then { r with posted := r.posted || due } else x }

/-- ACCESS_COUNT_WINDOW: 2^20 clk have passed and the tables are cleared. -/
def State.nextWindow (s : State) : State :=
  if (s.window + 1) * 2 ^ 20 ≤ s.clk then { s with counts := [], window := s.window + 1 } else s
def execAccessCountWindow (s : State) : Host.Outcome State Fault Refusal := .next s.nextWindow

/-! ## What translation gives for an access (R394-R396) -/

/-- The caches of a controller's unit (R272). -/
def unitOf (ctl : Nat) : Nat := 1000 + ctl

/-- Caches that hold nothing: what is translated by them is found in the tables. -/
def noCache : Nat := 999

/-- The unit that translates an address that another device has sent: that of the controller which the tables give for it, from whose cache the translation
then comes (R272, log entry 34). -/
def State.unitFor (s : State) (slot va n : Nat) : Nat :=
  match s.translate noCache slot va n with
  | .ok x => if x.host then noCache else unitOf (controllerOf x.key)
  | _ => noCache

inductive Reach where
  | ok (x : Xlat)
  | fault (f : XFault)
  /-- A page of host space is awaited (R369). -/
  | wait
  deriving DecidableEq, Repr

/-- The caches by which the next element of an access is translated: its cluster's, or those of the unit that has formed the address of a CHASE's hop. -/
def Access.caches (a : Access) : Nat :=
  match a.op, a.got with
  | .chase _ _ _, p :: _ => unitOf p.1
  | _, _ => clusterOf a.core

/-- One element, translated by the caches of a cluster or a unit, with the limit of the range that holds the access's first byte: an element beyond it
fails before its own page is walked. -/
def State.reachBy (s : State) (cl : Nat) (a : Access) (write : Bool) (limit : Option Nat) (e : Elem) : Reach :=
  if 2 ^ 57 ≤ e.va then .fault { cause := 0x30, sub := 1, info1 := e.va }
  else if limit.any (fun l => decide (l < e.va + e.n - 1)) then
    .fault { cause := 0x30, sub := 5, info0 := limit.getD 0, info1 := e.va + e.n - 1 }
  else
    match s.translateFor cl a.slot e.va e.n write with
    | .fault f => .fault f
    | .miss => .wait
    | .ok x => .ok x

def State.reachElem (s : State) (a : Access) (write : Bool) (limit : Option Nat) (e : Elem) : Reach := s.reachBy (clusterOf a.core) a write limit e

/-- The LIMIT that bounds the whole access. -/
def State.spanLimit (s : State) (a : Access) (va : Nat) : Option Nat :=
  if !a.span then none
  else
    match s.translate (clusterOf a.core) a.slot va 1 with
    | .ok x => x.range.map fun i => (s.rangeOf (clusterOf a.core) a.slot i).limit
    | _ => none

/-- The access as a whole: the first element that fails, and otherwise what the first one gives. -/
def State.reach (s : State) (a : Access) (write : Bool) : Reach :=
  match a.todo with
  | [] => .wait
  | e :: r =>
    let lim := s.spanLimit a e.va
    match (e :: r).findSome? (fun x =>
      match s.reachElem a write lim x with
      | .ok _ => none
      | y => some y) with
    | some y => y
    | none => s.reachElem a write lim e

/-! ## The end of an access -/

/-- The deferred report of an access (R395). -/
def State.accessReport (s : State) (a : Access) (t : Trap) : State :=
  let t := { t with slot := 4, opc := a.pc, defer := true }
  if a.core = cmdKey && s.graph != some a.slot then
    s.record 0x1FF (s.mkRecord t 1 0 true false (s.core cmdKey).pc (s.core cmdKey).lc 0 0 a.slot (s.slot a.slot).nodeIx.toNat)
  else s.defer a.core (s.core a.core).lc.toNat a.lc t

/-- A report that comes when its task may have ended: a record with SRC 3, PC and LC zero, then stops the node (R407, R419). -/
def State.lateReport (s : State) (k origin : Nat) (t : Trap) : State :=
  let t := { t with defer := true }
  if (s.core k).over then
    let p := s.recordPlace k
    (s.record k (s.mkRecord t 3 k true false 0 0 0 0 p.1 p.2)).stopNode k t.cause
  else s.defer k (s.core k).lc.toNat origin t

/-- The access fails: nothing of it is written, its place is freed. -/
def State.accessFails (s : State) (a : Access) (f : XFault) (addr : Nat) : State :=
  let s := s.dropAccess a.id
  if a.abandoned && !a.inStore then s
  else
    s.accessReport a { cause := f.cause, sub := f.sub, info0 := BitVec.ofNat 64 f.info0, info1 := BitVec.ofNat 64 f.info1, addr := BitVec.ofNat 64 addr }

/-- An access meets poisoned data (R388): a machine check of its core. -/
def State.accessPoison (s : State) (a : Access) (key va sub : Nat) (cc : Bool) : State :=
  let t := s.lineCheck key va sub cc
  let s := s.dropAccess a.id
  if a.abandoned && !a.inStore then s else s.machineCheck a.core t

/-- What is left of an older fixed-latency result once a later value has been written over it. -/
def Commit.under (w top : Commit) : Option Commit :=
  match w, top with
  | .s n _, .s r _ => if n = r then none else some w
  | .v n mask val, .v r upper _ => if n = r then (if mask &&& ~~~upper = 0 then none else some (.v n (mask &&& ~~~upper) val)) else some w
  | _, _ => some w

/-- Results in flight of the L slot's predecessors at a logical cycle give way to a value that is written over their register. -/
def Core.yieldTo (c : Core) (lc : Nat) (top : Commit) : Core :=
  { c with pend := c.pend.filterMap fun p => if p.lc < lc || (p.lc == lc && decide (p.slot < 4)) then (p.what.under top).map fun w => { p with what := w } else some p }

/-- The results of cluster accesses that were issued before a logical cycle and are still to arrive give way to it too. -/
def State.yieldCl (s : State) (k lc : Nat) (top : Commit) : State :=
  { s with clAccs := s.clAccs.map fun a =>
      match a.dest with
      | some r => if a.core == k && decide (a.vis < lc + 14) then { a with keep := a.keep &&& ~~~(top.over r) } else a
      | none => a }

/-- A variable-latency value takes effect on the core in the clock in which it arrives. A fixed-latency result of an older bundle to the same register that
is still in flight does not overwrite it: the younger instruction's value stands whatever the timing (R35, R267). -/
def State.land (s : State) (a : Access) (what : Commit) : State :=
  ((s.updCore a.core (·.yieldTo a.lc what)).yieldCl a.core a.lc what).commit a.core
    { key := 2 * (s.core a.core).lc.toNat, slot := 4, lc := a.lc, pc := a.pc, what := what }

/-- A late load's group for an output stream commits in the present cycle: it takes its place behind groups of earlier cycles that still wait for lanes of a
cluster access (R179). -/
def State.landGroupOut (s : State) (a : Access) (f : Fin 8) (mask : BitVec 64) (v : BitVec 2048) : State :=
  (s.updCore a.core fun c =>
    { c with pend := c.pend ++ [{ key := 2 * c.lc.toNat, slot := 4, lc := a.lc, pc := a.pc, what := .push f mask v [] }] }).commitDue a.core

/-- A vector value arrives in its register, or as a group of an output stream. The binding is the one that stands when the value arrives: the spec does
not say what a load into V24 + F that is pending at SBIND does, and the model makes it a push of the new binding, for which SBIND does not wait (log entry 83). -/
def State.landV (s : State) (a : Access) (vd : VReg) (mask : BitVec 64) (v : BitVec 2048) : State :=
  match (s.core a.core).streamOf vd with
  | some _ => s.landGroupOut a (Fin.ofNat 8 vd.val) mask v
  | none => s.land a (.v vd mask v)

/-! ## Loads (R251, R252, R61) -/

/-- An older atomic of the task on the same bytes is still to be performed. -/
def State.behindAtomic (s : State) (a : Access) (e : Elem) : Bool :=
  s.accs.any fun b => b.core == a.core && b.olderThan a && b.isAtomic && b.place != .performed && s.overlaps b a.core a.slot [e]

/-- The elements of a device stream's groups that have still to enter the queues. -/
def Stream.comingElems (st : Stream) : List Elem :=
  (List.range (st.total - st.moved)).flatMap fun i => readElems (fmtOfCode st.fmt) (st.groupAddr (st.moved + i))

/-- A stream that was bound before the access has still to read, or to write, bytes that the access would change, or see (R93, R252). -/
def State.streamBehind (s : State) (a : Access) (l : List Elem) : Bool :=
  ((s.core a.core).streams.toList.any fun o =>
    match o with
    | none => false
    | some st => st.device && decide (st.order < a.order) && (st.output || a.inStore) &&
        st.comingElems.any fun y => l.any fun x => spansMeet (s.spanOf a.core a.slot x) (s.spanOf a.core a.slot y))
    || ((s.core a.core).pend.any fun p =>
      match p.what with
      | .pushOld _ st _ _ _ => st.device && decide (st.order < a.order) && decide (st.moved < st.total) &&
          (readElems (fmtOfCode st.fmt) (st.groupAddr st.moved)).any fun y => l.any fun x => spansMeet (s.spanOf a.core a.slot x) (s.spanOf a.core a.slot y)
      | _ => false)
    || (a.inStore && s.accs.any fun b => b.core == a.core && b.isStream && b.inLoad && b.olderThan a && b.place != .performed && s.overlaps b a.core a.slot l)

/-- A cluster scratchpad access of the task that stands before a queued access has not been performed (R254). -/
def State.behindCluster (s : State) (a : Access) : Bool :=
  (a.inLoad || a.inStore) && s.clAccs.any fun c => c.core == a.core && decide (c.id < a.order)

def AccOp.isChase : AccOp → Bool
  | .chase _ _ _ => true
  | _ => false

/-- An older CHASE of the task has still to make hops: which bytes they name cannot be told before, so every younger store waits (R252, log entry 35). -/
def State.behindChase (s : State) (a : Access) : Bool :=
  a.inStore && s.accs.any fun b => b.core == a.core && b.olderThan a && b.place != .performed && b.op.isChase

/-- Every byte of an element stands in the task's own store queue, from which a younger load is served at once (R251, R258). -/
def State.servedByOwn (s : State) (a : Access) (e : Elem) : Bool :=
  (List.range e.n).all fun i => (s.byteKey a.core a.slot (e.va + i)).any fun k => (s.ownByte a k).isSome

/-- The dependence is on stores. -/
def Level.ofStores : Level → Bool
  | .performed => false
  | .entered | .port | .ctl | .observed _ _ => true
  | .groups _ _ lv => lv.ofStores

/-- The next element of a load may be performed: what is ordered before it is complete; stores need not be where its own queue serves it. -/
def State.loadReady (s : State) (a : Access) (e : Elem) : Bool :=
  !s.behindCluster a && !s.behindAtomic a e && !s.streamBehind a [e]
    && (s.openDeps a.deps).all fun d => d.level.ofStores && s.servedByOwn a e

/-- The first poisoned byte that the load takes from its controller. -/
def State.loadPoison (s : State) (a : Access) (key n : Nat) : Option Nat :=
  ((List.range n).map (key + ·)).find? fun k => (s.heldByte a k).isNone && (s.poisoned k 1).isSome

/-- The value of n bytes. -/
def State.loadValue (s : State) (a : Access) (key n : Nat) : Nat :=
  leNat ((List.range n).map fun i => (s.heldByte a (key + i)).getD (s.memByte (key + i)))

/-- What an element gives: its value, or a poisoned byte's key and address. -/
inductive Bound where
  | val (v : Nat)
  | poison (key va : Nat)
  | fault (f : XFault)
  | wait

/-- One byte that is read apart from its element: translated for itself, from the queues or, where `held` is not asked for, at the coherence point. -/
def State.oneByte (s : State) (a : Access) (held : Bool) (va : Nat) : Bound :=
  if 2 ^ 57 ≤ va then .fault { cause := 0x30, sub := 1, info1 := va }
  else
    match s.translate (clusterOf a.core) a.slot va 1 with
    | .fault f => .fault f
    | .miss => .wait
    | .ok x =>
      let own := if held then s.heldByte a x.key else none
      if x.host then .val (Config.freeBits s.free va % 256)
      else if own.isNone && (s.poisoned x.key 1).isSome then .poison x.key va
      else .val (own.getD (s.memByte x.key)).toNat

/-- Bytes read one by one: the first that gives no value decides. -/
def State.someBytes (s : State) (a : Access) (held : Bool) (va n : Nat) : Bound :=
  (List.range n).foldr (fun i acc =>
    match s.oneByte a held ((va + i) % 2 ^ 64), acc with
    | .val b, .val v => .val (b + 256 * v)
    | .val _, x => x
    | x, _ => x) (.val 0)

/-- The bytes of a window read, which need not be aligned; its lanes fail as those of any load (R394, R398). -/
def State.windowElem (s : State) (a : Access) (e : Elem) : Bound := s.someBytes a true e.va e.n

/-- The lane of an element in a scaled range, its scale read at the coherence point (R61). -/
def State.scaledElem (s : State) (a : Access) (f : Fmt) (x : Xlat) (e : Elem) (raw : Nat) : Bound :=
  match x.scaleAt (x.elemIndex e.va + e.lane % perByte f) with
  | none => .val (loadLane f raw e.lane).toNat
  | some (va, n) =>
    match s.someBytes a false va n with
    | .val z => .val (loadScaled f raw e.lane x.sfp32 z).toNat
    | b => b

/-- The value of one element at the place that translation gives; bit 32 of a lane says that a reserved code was decoded. -/
def State.bindElem (s : State) (a : Access) (x : Xlat) (e : Elem) : Bound :=
  let lanesOf_ (f : Fmt) : Bound :=
    if x.host then .val (Config.freeBits s.free e.va % 2 ^ 32)
    else if (s.loadPoison a x.key e.n).isSome then .poison x.key e.va
    else
      let raw := s.loadValue a x.key e.n
      match s.scaledElem a f x e raw with
      | .val v => .val (v + (if elemReserved f raw e.lane then 2 ^ 32 else 0))
      | b => b
  match a.op with
  | .vld _ _ f => lanesOf_ f
  | .streamIn g => lanesOf_ (fmtOfCode (((s.core a.core).streams[g]).map (·.fmt) |>.getD 0))
  | .ldw _ _ _ _ | .vldw _ _ => s.windowElem a e
  | _ =>
    if x.host then .val (Config.freeBits s.free e.va % 2 ^ (8 * e.n))
    else if (s.loadPoison a x.key e.n).isSome then .poison x.key e.va
    else .val (s.loadValue a x.key e.n)

/-- The lanes that have been bound. -/
def gotLanes (l : List (Nat × Nat)) : BitVec 2048 × Bool :=
  (lanesOf (l.map fun p => (p.1, BitVec.ofNat 32 p.2)), l.any fun p => bit p.2 32)

/-- A group of a device input stream is buffered. -/
def State.landGroup (s : State) (k : Nat) (f : Fin 8) (g : BitVec 2048 × Bool) : State :=
  s.updCore k fun c =>
    match c.streams[f] with
    | some st => c.setStream f (some { st with buf := st.buf ++ [g] })
    | none => c

/-- Every element of the access is bound: its value arrives. -/
def State.arrive (s : State) (a : Access) : State :=
  let s := s.dropAccess a.id
  let v := (a.got.map (·.2)).headD 0
  let g := gotLanes a.got
  let rsvd (s : State) : State := if g.2 then s.land a (.sticky stickyRsvd) else s
  let woob (s : State) (oob : Bool) : State := if oob then s.land a (.sticky stickyWoob) else s
  match a.op with
  | .ld d sz sg => s.land a (.s d (loadExtend sz sg v))
  | .ldw d sz sg oob => woob (s.land a (.s d (loadExtend sz sg v))) oob
  | .vld vd mask _ => rsvd (s.landV a vd mask g.1)
  | .vldw vd oob => woob (s.landV a vd (BitVec.allOnes 64) g.1) oob
  | .streamIn f => s.landGroup a.core f g
  | .atom d _ _ _ _ => s.land a (.s d (BitVec.ofNat 64 v))
  | .casw d _ _ => a.got.foldl (fun s p => s.land a (.s (Fin.ofNat 64 (d.val + p.1)) (BitVec.ofNat 64 p.2))) s
  | .enq d _ => s.land a (.s d (BitVec.ofNat 64 v))
  | .enqLink d old _ _ => s.land a (.s d old)
  | .chase d _ _ => s.land a (.s d a.addr)
  | .remote d _ _ _ _ _ => s.land a (.s d (BitVec.ofNat 64 v))
  | .st | .agg _ _ _ _ | .streamOut _ | .place => s

/-- The access binds its values one by one as a load; the others arrive once they are performed. -/
def AccOp.binds : AccOp → Bool
  | .ld _ _ _ | .ldw _ _ _ _ | .vld _ _ _ | .vldw _ _ | .streamIn _ => true
  | _ => false

/-! ### What a load's reading does (R259, R263, R269, R270, R386) -/

/-- The newest store of a list that holds a byte. -/
def State.storeOf (s : State) (stores : List Access) (key : Nat) : Option Access :=
  (stores.filter fun b => b.todo.any fun e => (s.byteKey b.core b.slot e.va).any fun k => decide (k ≤ key) && decide (key < k + e.n)).getLast?

/-- What the byte of an acquire load brings: the release store whose value it returns and what happens before that (R259). -/
def State.syncByte (s : State) (a : Access) (key : Nat) : List Nat :=
  if (s.ownByte a key).isSome then []
  else
    match s.storeOf (s.portOf (clusterOf a.core)) key with
    | some w =>
      if w.releases && inScope w.core w.sco a.core && inScope a.core a.sco w.core then w.id :: s.carried w.core w.order w.order else []
    | none =>
      match (s.released.filter fun r => decide (r.key ≤ key) && decide (key < r.key + r.n)).getLast? with
      | some r => if inScope r.core .cl a.core && inScope a.core a.sco r.core then s.carried r.core r.order r.order else []
      | none => []

/-- An acquire load synchronizes with the releases whose values it returns. -/
def State.observe (s : State) (a : Access) (key n : Nat) : State :=
  if a.acquires then s.sees a.core a.order ((List.range n).flatMap fun i => s.syncByte a (key + i)) else s

/-- Some byte of an element is read at the controller. -/
def State.fromController (s : State) (a : Access) (key n : Nat) : Bool := (List.range n).any fun i => (s.heldByte a (key + i)).isNone

/-- The port by which the accesses of a core arrive. -/
def State.corePort (s : State) (k : Nat) : Nat := s.clusterPort (clusterOf k)

/-- A byte that is read apart from its element reaches its line. -/
def State.byteReads (s : State) (a : Access) (va n : Nat) : State :=
  (List.range n).foldl (fun s i =>
    match s.byteKey a.core a.slot ((va + i) % 2 ^ 64) with
    | some k => s.readsLine srcCore (s.corePort a.core) k 1
    | none => s) s

/-- The lines that the reading of an element reaches: its own, and those of its scale entry. -/
def State.elemReads (s : State) (a : Access) (x : Xlat) (e : Elem) : State :=
  let own (s : State) : State := if !x.host && s.fromController a x.key e.n then s.readsLine srcCore (s.corePort a.core) x.key e.n else s
  match a.op with
  | .ldw _ _ _ _ | .vldw _ _ => s.byteReads a e.va e.n
  | .vld _ _ _ | .streamIn _ =>
    match x.scaleAt (x.elemIndex e.va + e.lane % perByte (fmtOfCode x.fmt)) with
    | some (va, n) => (own s).byteReads a va n
    | none => own s
  | _ => own s

/-- What the translation of an access's elements reads in memory, by the caches that translate them. -/
def State.tablesMet (s : State) (src : Nat) (a : Access) : State :=
  if s.errs.isEmpty && s.merges.isEmpty then s else a.todo.foldl (fun s e => s.walkMeets src a.caches a.slot e.va) s

/-- The next element of a load is performed. -/
def State.loadElem (s : State) (a : Access) : State :=
  match a.todo with
  | [] => if s.depsMet a.deps && !s.behindCluster a then s.arrive a else s
  | e :: r =>
    if !s.loadReady a e then s
    else
      let s := s.tablesMet srcCore a
      match s.reach a false with
      | .wait => s
      | .fault f => s.accessFails a f a.addr.toNat
      | .ok x =>
        if !x.host && s.fromController a x.key e.n && !s.portTurn (s.corePort a.core) x.key e.n then s
        else
          let s := s.elemReads a x e
          match s.bindElem a x e with
          | .poison key va => s.accessPoison a key va 5 x.cc
          | .fault f => s.accessFails a f a.addr.toNat
          | .wait => s
          | .val v =>
            let s := if x.host then { s with free := s.free + 1 } else s.observe a x.key e.n
            let b := { a with todo := r, got := a.got ++ [(e.lane, v)] }
            if r.isEmpty then s.arrive b else s.updAccess a.id fun _ => b

/-- The data of a load that has been abandoned arrives: it is discarded, but for the errors found in its lines (R358, R405). -/
def State.discard (s : State) (a : Access) : State :=
  (a.todo.foldl (fun s e =>
    match s.reachElem a false none e with
    | .ok x => if x.host then s else s.readsLine srcCore (s.corePort a.core) x.key e.n
    | _ => s) s).dropAccess a.id

/-- The value of an access on this device's own memory returns. -/
def State.reply (s : State) (id : Nat) : State :=
  match s.accs.find? (fun a => a.id == id) with
  | none => s
  | some a =>
    if a.op.binds then (if a.abandoned then s.discard a else s.loadElem a)
    else if a.place == .performed then (if a.abandoned then s.dropAccess id else s.arrive a)
    else s

/-! ## Into the memory port (R250, R254) and onto the fabric (R273) -/

/-- The operation packet of a remote operation (R273). -/
def opPacket (dev task gslot : Nat) (retx : Bool) (opk : Option Opk) (wide : Bool) (b : Word) (chip : Nat) (seq : BitVec 16) (addr : Word) : BitVec 512 :=
  let w0 := opk.isSome.toNat + wide.toNat * 2 + ((opk.map Opk.code).getD 0) * 4 + retx.toNat * 64 + gslot * 2 ^ 7 + dev * 2 ^ 13 + chip * 2 ^ 26 + task * 2 ^ 39 + seq.toNat * 2 ^ 48
  payloadOf [w0, bits addr.toNat 0 57, b.toNat]

/-- An access leaves its queue: a store for its cluster's port, a remote operation for its destination. -/
def State.leaveQueue (s : State) (a : Access) : State :=
  if a.place != .queue || !s.depsMet a.deps || s.behindCluster a || s.streamBehind a a.todo || s.behindChase a then s
  else
    match a.op with
    | .remote _ opk wide b chip seq =>
      let p := opPacket s.deviceId.toNat a.core a.slot false opk wide b chip.toNat seq a.addr
      let s := (s.updAccess a.id fun a => { a with place := .sent }).sendPacket (clusterOf a.core) 0 0 chip.toNat [p]
      { s with opsSent := s.opsSent ++ [{ id := a.id, task := a.core, chip := chip.toNat, seq := seq, at_ := s.clk }] }
    | .agg _ _ _ _ | .place => s
    | _ =>
      if a.inStore then { s.updAccess a.id (fun a => { a with place := .port, portSeq := s.nextId }) with nextId := s.nextId + 1 } else s

/-- STORE_ENTERS_PORT. -/
def State.storeEnters (s : State) (id : Nat) : State :=
  match s.accs.find? (fun a => a.id == id) with
  | some a => s.leaveQueue a
  | none => s
def execStoreEntersPort (id : Nat) (s : State) : Host.Outcome State Fault Refusal := .next (s.storeEnters id)

/-! ## At the coherence point -/

/-- An ENQ before its tail swap. -/
def AccOp.isEnq : AccOp → Bool
  | .enq _ _ => true
  | _ => false

/-- Nothing of the task older in the same controller is pending, nor an ENQ whose link word is not known yet (R252); and nothing of the cluster that entered
the port earlier overlaps. -/
def State.inTurn (s : State) (a : Access) (key : Nat) (e : Elem) : Bool :=
  s.accs.all fun b =>
    b.id == a.id || !b.inStore || b.place == .performed ||
      (!(b.core == a.core && b.olderThan a && (b.op.isEnq || s.inController b (controllerOf key)))
        && !(clusterOf b.core == clusterOf a.core && b.place == .port && decide (b.portSeq < a.portSeq) && s.overlaps b a.core a.slot [e]))

/-- Every one of n bytes at a key lies in some of the spans. -/
def spansCover (l : List (Nat × Nat)) (key n : Nat) : Bool :=
  (List.range n).all fun i => l.any fun p => decide (p.1 ≤ key + i) && decide (key + i < p.1 + p.2)

/-- A store has written n bytes at a key: with those that it has written before, it may have written all 64 bytes of a line, whose poison and errors that
clears (R388). -/
def State.storeWrote (s : State) (a : Access) (key n : Nat) : State :=
  let got := (key, n) :: a.got
  let lines := (linesTouched key n).filter fun l => s.spoilt (64 * l) 64 || s.errs.any (·.1 == l)
  (s.cleanLines (lines.filter fun l => spansCover got (64 * l) 64)).updAccess a.id fun b => { b with got := got }

/-- An element has been performed; with the last one the access ends or its value can return. -/
def State.elemDone (s : State) (a : Access) : State :=
  match a.todo with
  | _ :: y :: r => s.updAccess a.id fun b => { b with todo := y :: r }
  | _ => if a.owes then s.updAccess a.id fun b => { b with todo := [], place := .performed } else s.dropAccess a.id

/-- Bytes are written at the coherence point, or go to the host. -/
def State.putBytes (s : State) (slot : Nat) (x : Xlat) (va : Nat) (l : List Byte) : State :=
  if x.host then s.post (.hostStore (s.slot slot).pasid.toNat va l) else (s.memWrite x.key l).touch x.key l.length

/-- A release store at CLUSTER scope has reached the coherence point: what happens before it is remembered while its value stands (R257, R259). -/
def State.keepRelease (s : State) (a : Access) (x : Xlat) (n : Nat) : State :=
  if a.releases && a.sco == .cl && !x.host then
    { s with released := (s.released.filter fun r => !(s.carried r.core r.order r.order).isEmpty) ++ [{ key := x.key, n := n, core := a.core, order := a.order }] }
  else s

/-- A plain store, or the link store of an ENQ. -/
def AccOp.isStore : AccOp → Bool
  | .st | .streamOut _ | .enqLink _ _ _ _ => true
  | _ => false

/-- What the translation of a store's next element gives; the link word of an ENQ has been translated by the unit (R271, R272). -/
def State.storeReach (s : State) (a : Access) : Reach :=
  match a.op with
  | .enqLink _ _ _ key => .ok { key := key }
  | _ => s.reach a true

/-- The next element of a store reaches the coherence point. -/
def State.storeElem (s : State) (a : Access) : State :=
  match a.todo with
  | [] => s
  | e :: _ =>
    let s := s.tablesMet srcCore a
    match s.storeReach a with
    | .wait => s
    | .fault f => s.accessFails a f a.addr.toNat
    | .ok x =>
      if x.host then (s.putBytes a.slot x e.va (leBytes e.n e.data)).elemDone a
      else if s.inTurn a x.key e && s.portTurn (s.corePort a.core) x.key e.n then
        ((((s.arriveAt (s.corePort a.core) x.key e.n).putBytes a.slot x e.va (leBytes e.n e.data)).keepRelease a x e.n).storeWrote a x.key e.n).elemDone a
      else s

/-- STORE_PERFORMED. -/
def State.storePerformed (s : State) (id : Nat) : State :=
  match s.accs.find? (fun a => a.id == id) with
  | some a => if a.op.isStore && a.place == .port then s.storeElem a else s
  | none => s
def execStorePerformed (id : Nat) (s : State) : Host.Outcome State Fault Refusal := .next (s.storePerformed id)

/-! ## The write-queue atomic unit (R226, R228, R265, R271, R272) -/

/-- What an atomic writes: it follows what stood there in coherence order, so that a load of its value still synchronizes with a release before it (R259). -/
def State.unitWrite (s : State) (key : Nat) (l : List Byte) : State := { s.memWrite key l with released := s.released }

/-- An atomic has reached the unit: its line's entry is open and it counts, whether it is performed or not (R269, R275). -/
def State.unitReached (s : State) (key : Nat) (o : Origin) : State := (s.openMerge key).countAtomic key o

/-- An atomic of R226 on the word at a key: the old word and the state after it. -/
def State.unitAtomic (s : State) (key : Nat) (opk : Opk) (wide : Bool) (b c : Nat) (o : Origin) : Nat × State :=
  let old := s.memNat key (wideBytes wide)
  (old, (s.unitReached key o).unitWrite key (leBytes (wideBytes wide) (atomNew opk wide old b c)))

/-- An address that a unit forms (R272), translated by its caches: its alignment, its bits [63:57], its translation. -/
def State.unitReach (s : State) (cl : Nat) (a : Access) (va : Nat) (write : Bool) : Reach :=
  if va % 8 != 0 then .fault { cause := 0x33, sub := 4, info0 := 8, info1 := va }
  else
    match s.reachBy cl a write none { va := va, n := 8 } with
    | .ok x => if x.host then .fault { cause := 0x31, sub := 2, info0 := a.opcode } else .ok x
    | r => r

/-- Words of a CASW: all equal what is expected. -/
def caswNew (old expect new : List Nat) : List Nat := if old == expect then new else old

/-- ENQ's swap: the link address is judged first; then the tail is swapped and the link store is made. -/
def State.enqSwap (s : State) (a : Access) (d : SReg) (new : Word) (key : Nat) : State :=
  let old := s.memNat key 8
  let swap (s : State) : State := (s.unitReached key .here).unitWrite key (leBytes 8 new.toNat)
  let unit := unitOf (controllerOf key)
  if old = 0 then (swap s).updAccess a.id fun b => { b with todo := [], place := .performed, got := [(0, 0)] }
  else
    let s := s.walkMeets srcUnit unit a.slot old
    match s.unitReach unit a old true with
    | .wait => s
    | .fault f => (s.unitReached key .here).accessFails a f old
    | .ok x =>
      (swap s).updAccess a.id fun b =>
        { b with op := .enqLink d (BitVec.ofNat 64 old) new x.key, todo := [{ va := old, n := 8, data := new.toNat }], got := [] }

/-- The operation is performed at the unit. -/
def State.atomicAt (s : State) (a : Access) (key : Nat) : State :=
  match a.op with
  | .atom _ opk wide b c =>
    let r := s.unitAtomic key opk wide b.toNat c.toNat .here
    (r.2.updAccess a.id fun x => { x with got := [(0, r.1)] }).elemDone a
  | .casw _ expect new =>
    let n := expect.length
    let old := unpackNat 64 n (s.memNat key (8 * n))
    let now := caswNew old (expect.map (·.toNat)) (new.map (·.toNat))
    let s := (s.unitReached key .here).unitWrite key (leBytes (8 * n) (packNat 64 now))
    (s.updAccess a.id fun x => { x with got := (List.range n).zip old }).elemDone a
  | .enq d new => s.enqSwap a d new key
  | _ => s

/-- An atomic in the port reaches its unit. -/
def State.atomicElem (s : State) (a : Access) : State :=
  match a.todo with
  | [] => s
  | e :: _ =>
    let s := s.tablesMet srcCore a
    match s.reach a true with
    | .wait => s
    | .fault f => s.accessFails a f a.addr.toNat
    | .ok x =>
      if x.host then s.accessFails a { cause := 0x31, sub := 2, info0 := a.opcode } a.addr.toNat
      else if !s.inTurn a x.key e || !s.portTurn (s.corePort a.core) x.key e.n then s
      else
        let s := s.readsLine srcUnit (s.corePort a.core) x.key e.n
        if (s.poisoned x.key e.n).isSome then (s.unitReached x.key .here).accessPoison a x.key e.va 6 x.cc else s.atomicAt a x.key

/-- An older store or atomic of the task on the bytes of a hop is still to be performed, or an older stream is still to write them. -/
def State.behindStore (s : State) (a : Access) (e : Elem) : Bool :=
  s.streamBehind a [e]
    || s.accs.any fun b => b.core == a.core && b.olderThan a && b.inStore && b.place != .performed && s.overlaps b a.core a.slot [e]

/-- One hop of a CHASE; `forward` says that it lies at another controller than the hop before it. -/
def State.chaseHop (s : State) (a : Access) (d : SReg) (left : Nat) (off : Int) (forward : Bool) : State :=
  match a.todo with
  | [] => if forward || !s.depsMet a.deps || s.behindCluster a then s else s.updAccess a.id fun b => { b with place := .performed }
  | e :: _ =>
    if !s.depsMet a.deps || s.behindCluster a || s.behindStore a e then s
    else
      let s := s.tablesMet (if a.got.isEmpty then srcCore else srcUnit) a
      match s.unitReach a.caches a e.va false with
      | .wait => s
      | .fault f => s.accessFails a f e.va
      | .ok x =>
        let ctl := controllerOf x.key
        let moves := match a.got with
          | p :: _ => p.1 != ctl
          | [] => false
        if moves != forward || !s.portTurn (s.corePort a.core) x.key 8 then s
        else
          let s := s.readsLine srcUnit (s.corePort a.core) x.key 8
          if (s.poisoned x.key 8).isSome then s.accessPoison a x.key e.va 6 x.cc
          else
            let p := BitVec.ofNat 64 (s.memNat x.key 8)
            s.updAccess a.id fun b =>
              let todo := chaseElems p (left - 1) off
              { b with op := .chase d (left - 1) off, addr := p, todo := todo, got := [(ctl, 0)],
                       place := if todo.isEmpty then .performed else b.place }

/-- WQ_ATOMIC_PERFORMED. -/
def State.wqAtomic (s : State) (id : Nat) : State :=
  match s.accs.find? (fun a => a.id == id) with
  | none => s
  | some a =>
    match a.op with
    | .atom _ _ _ _ _ | .casw _ _ _ | .enq _ _ => if a.place == .port then s.atomicElem a else s
    | .chase d left off => if a.place == .performed then s else s.chaseHop a d left off false
    | _ => s
def execWqAtomicPerformed (id : Nat) (s : State) : Host.Outcome State Fault Refusal := .next (s.wqAtomic id)

/-- CHASE_HOP_FORWARD. -/
def State.chaseForward (s : State) (id : Nat) : State :=
  match s.accs.find? (fun a => a.id == id) with
  | none => s
  | some a =>
    match a.op with
    | .chase d left off => if a.place == .performed then s else s.chaseHop a d left off true
    | _ => s
def execChaseHopForward (id : Nat) (s : State) : Host.Outcome State Fault Refusal := .next (s.chaseForward id)

/-! ## Page walks (R98-R100, R334, R369) -/

/-- The newest n entries. -/
def newest {α : Type} (n : Nat) (l : List α) : List α := l.drop (l.length - n)

/-- Pages and range entries that caches hold: a cluster's (R100), and those of an atomic unit, of 32 entries (R272). -/
def cacheSize (cl : Nat) : Nat × Nat := if cl = noCache then (0, 0) else if 1000 ≤ cl then (32, 32) else (2048, 64)

/-- What a walk brings into caches of a size. -/
def Cluster.fill (c : Cluster) (size : Nat × Nat) (slot : Nat) (l : Leaf) (r : Option Range) (words : Nat) : Cluster :=
  let c := { c with pages := newest size.1 (c.pages.filter (fun p => !(p.slot == slot && p.base == l.base)) ++ [{ slot := slot, base := l.base, size := l.size, pte := BitVec.ofNat 64 l.pte }]) }
  match r with
  | none => c
  | some r =>
    { c with ranges := newest size.2 (c.ranges.filter (fun x => !(x.slot == slot && x.index == r.index)) ++ [{ slot := slot, index := r.index, words := BitVec.ofNat 512 words }]) }

/-- Accesses of a cluster whose next element lies at an address of a page. -/
def State.waitingAt (s : State) (cl slot va : Nat) : List Access :=
  s.accs.filter fun a =>
    a.caches == cl && a.slot == slot && a.place != .performed && s.depsMet a.deps &&
      match a.todo with
      | e :: _ => e.va / 4096 == va / 4096
      | [] => false

/-- The walk of an address of device memory ends: it fills the caches, or the accesses that wait for it fail. -/
def State.walkDevice (s : State) (cl slot va : Nat) : State :=
  let s := s.walkMeets srcCore cl slot va
  match s.walk va 5 (tableKey (s.slot slot).root.toNat 12) with
  | .error f =>
    (s.waitingAt cl slot va).foldl (fun s a => if (s.rangeMatch cl slot va).isSome then s else s.accessFails a f a.addr.toNat) s
  | .ok l =>
    let i := bits l.pte 53 10
    s.setCluster cl ((s.cluster cl).fill (cacheSize cl) slot l (if bit l.pte 63 then some (s.rangeEntry slot i) else none) (s.memNat (s.rangeKey slot i) 64))

end Sys2Proof.Machine
end

