-- ==== Sys2Proof/Machine/Engine.lean ====
section
/-! DEFINITION. What the engines share: the order of acceptance, channels and their retirement, failed commands, accesses by handle and
address, and the units of handoffs (R83, R96, R240-R242, R251, R262, R406-R412). -/

namespace Sys2Proof.Machine

/-! ## Commands -/

def State.cmdOf (s : State) (id : Nat) : Option Cmd := s.cmds.find? fun c => c.id == id
def State.updCmd (s : State) (id : Nat) (f : Cmd → Cmd) : State := { s with cmds := s.cmds.map fun c => if c.id == id then f c else c }

/-- The engine that runs a command: a copy engine, the collective engine, or the kiln of a stack. -/
def CmdKind.engine : CmdKind → Nat
  | .copy _ _ => 0
  | .coll _ _ => 1
  | .ksrch _ stk | .kred _ stk | .kop _ stk => 2 + stk

/-- The oldest command of a list by issue order. -/
def oldestCmd (l : List Cmd) : Option Cmd :=
  l.foldl (fun b c =>
    match b with
    | none => some c
    | some x => if c.id < x.id then some c else some x) none

/-- The command of a core that an engine accepts next: in issue order, once what happens before it is complete (R240, R262). -/
def State.nextCmd (s : State) (k : Nat) (engines : Cmd → Bool) : Option Cmd :=
  match oldestCmd (s.cmds.filter fun c => c.core == k && c.st == .waiting && engines c) with
  | some c => if s.depsMet c.deps && !s.clAccs.any (fun a => a.core == k && decide (a.id < c.id)) then some c else none
  | none => none

/-- The place that a command takes until its engine accepts it. -/
def State.freePlace (s : State) (id : Nat) : State := s.dropAccess id

/-- An accepted command; the list keeps the order of acceptance. -/
def State.acceptCmd (s : State) (c : Cmd) (p : Progress) : State :=
  let s := s.freePlace c.id
  { s with cmds := (s.cmds.filter fun x => x.id != c.id) ++ [{ c with st := .running p, awaits := none }] }

/-! ## Retirement (R241) -/

/-- The oldest command of a channel retires when it is complete, then the next. A channel with a failed command retires nothing more: what still runs
there completes without being counted (R406). -/
def State.retire (k : Nat) (ch : Chan) : Nat → State → State
  | 0, s => s
  | n + 1, s =>
    if s.channelDead k ch then s
    else
    match oldestCmd (s.cmds.filter fun c => c.core == k && c.ch == ch) with
    | none => s
    | some c =>
      if c.st == .done then
        let s := { s with cmds := s.cmds.filter fun x => x.id != c.id }
        State.retire k ch n (s.updCore k fun x => { x with chcnt := x.chcnt.set ch (x.chcnt[ch] + BitVec.ofNat 48 c.inc) })
      else s

/-- A command completes. -/
def State.completeCmd (s : State) (c : Cmd) : State :=
  let s := s.updCmd c.id fun x => { x with st := .done }
  State.retire c.core c.ch s.cmds.length s

/-! ## Failure (R406-R408) -/

/-- The command has not started, so that a failure before it on its channel cancels it. -/
def State.unstarted (s : State) (c : Cmd) : Bool :=
  match c.st with
  | .waiting => true
  | .running (.copy j) => !j.started
  | .running .coll => (s.coll.run.map (·.cmd)) != some c.id
  | _ => false

/-- The tiles of a list that the engines own. -/
def State.heldTiles (s : State) (k : Nat) (l : List (Nat × Bool)) : List Nat :=
  (l.filter fun p => ((s.core k).tile p.1).engine && ((s.core k).tile p.1).dir == p.2).map (·.1)

/-- A command fails: later ones of its channel that have not started are cancelled, and the report is recorded. -/
def State.failFirst (s : State) (c : Cmd) (t : Trap) (tiles : List (Nat × Bool)) : State :=
  let slot := match c.kind with
    | .copy _ _ => 4
    | _ => 5
  let word := BitVec.ofNat 64 (c.ch.val * 2 ^ 61 + ((s.core c.core).chcnt[c.ch]).toNat)
  let t := { t with slot := slot, defer := true, opc := c.pc, origin := c.lc, info0 := if t.cause = 0x34 then t.info0 else word }
  let gone := (s.cmds.filter fun x => x.core == c.core && x.ch == c.ch && decide (c.id < x.id) && s.unstarted x).map (·.id)
  let held := s.heldTiles c.core tiles
  let s : State := { s with
    cmds := s.cmds.map fun x => if x.id == c.id then { x with st := .failed } else if gone.contains x.id then { x with st := .cancelled } else x
    accs := s.accs.filter fun a => !(a.isPlace && (a.id == c.id || gone.contains a.id))
    coll := { s.coll with queue := s.coll.queue.filter fun r => !gone.contains r.cmd } }
  if (s.core c.core).over then s.lateReport c.core c.lc t
  else s.updCore c.core fun x => { x with chanErr := x.chanErr ++ [{ ch := c.ch.val, tiles := held, trap := t }] }

/-- Of several failed commands of one channel only the first is reported; another one is cancelled (R421). -/
def State.failCmd (s : State) (c : Cmd) (t : Trap) (tiles : List (Nat × Bool)) : State :=
  if s.channelDead c.core c.ch then
    { s with
      cmds := s.cmds.map fun x => if x.id == c.id then { x with st := .cancelled } else x
      accs := s.accs.filter fun a => !(a.isPlace && a.id == c.id) }
  else s.failFirst c t tiles

/-! ## Accesses of engines (R96, R250, R251, R388, R394-R396, R409) -/

/-- Why an access of an engine gives nothing: a page of host space is awaited, something of a later port has arrived at its controller in this clock, so
that it comes with the next (R270), or a sub-cause of R409 with ADDR and INFO1. -/
inductive EngErr where
  | wait (va : Nat)
  | turn
  | fail (sub addr info1 : Nat)
  deriving DecidableEq, Repr

/-- A failure as the channel error that reports it. -/
def chanTrap (sub addr info1 : Nat) : Trap := { cause := 0x40, sub := sub, addr := BitVec.ofNat 64 addr, info1 := BitVec.ofNat 64 info1 }

/-- An engine translates n bytes at an address. -/
def State.engXl (s : State) (cl slot va n : Nat) (write : Bool) : Except EngErr Xlat :=
  if 2 ^ 57 ≤ va then .error (.fail 4 va 1)
  else
    match s.translateFor cl slot va n write with
    | .ok x => .ok x
    | .miss => .error (.wait va)
    | .fault f => .error (if f.cause = 0x31 then .fail 5 va (if f.sub = 1 then f.info0 else 0x3FF) else .fail 4 va f.sub)

/-- The physical address of a line, its tier in bit 63 (R409). -/
def physWord (key : Nat) : Nat := (if 2 ^ 52 ≤ key then 2 ^ 63 + (key - 2 ^ 52) else key) / 64 * 64

/-- The bytes of one piece: through a cluster's port when `port`, else at the coherence point. -/
def State.engPiece (s : State) (cl slot va n : Nat) (port : Bool) : Except EngErr (List Byte) :=
  match s.engXl cl slot va n false with
  | .error e => .error e
  | .ok x =>
    if x.host then .ok (leBytes n (Config.freeBits s.free va))
    else if (s.poisoned x.key n).isSome then .error (.fail 6 va (physWord x.key))
    else .ok (leBytes n (if port then s.portNat cl x.key n else s.memNat x.key n))

/-- n bytes at an address, piece by piece within 64-byte lines. -/
def State.engReadFrom (s : State) (cl slot : Nat) (port : Bool) : Nat → Nat → Nat → Except EngErr (List Byte)
  | 0, _, _ => .ok []
  | fuel + 1, va, n =>
    if n = 0 then .ok []
    else
      let k := min n (64 - va % 64)
      match s.engPiece cl slot va k port with
      | .error e => .error e
      | .ok l =>
        match State.engReadFrom s cl slot port fuel ((va + k) % 2 ^ 64) (n - k) with
        | .error e => .error e
        | .ok r => .ok (l ++ r)

def State.engRead (s : State) (cl slot va n : Nat) (port : Bool) : Except EngErr (List Byte) := s.engReadFrom cl slot port (n / 64 + 2) va n

/-- A read through a cluster's port finds all bytes of its piece in it. -/
def State.allInPort (s : State) (cl key n : Nat) : Bool := (List.range n).all fun i => (s.storedByte (s.portOf cl) (key + i)).isSome

/-- The pieces of n bytes at an address, up to one that cannot be translated, may arrive at their controllers in this clock (R270). -/
def State.engTurns (s : State) (port cl slot : Nat) (write held : Bool) : Nat → Nat → Nat → Bool
  | 0, _, _ => true
  | fuel + 1, va, n =>
    if n = 0 then true
    else
      let k := min n (64 - va % 64)
      match s.engXl cl slot va k write with
      | .error _ => true
      | .ok x =>
        (x.host || (held && s.allInPort cl x.key k) || s.portTurn port x.key k)
          && State.engTurns s port cl slot write held fuel ((va + k) % 2 ^ 64) (n - k)

/-- The translations of the pieces of n bytes at an address read the tables (R269, R386). -/
def State.engWalks (src cl slot : Nat) : Nat → Nat → Nat → State → State
  | 0, _, _, s => s
  | fuel + 1, va, n, s =>
    if n = 0 then s
    else
      let k := min n (64 - va % 64)
      State.engWalks src cl slot fuel ((va + k) % 2 ^ 64) (n - k) (s.walkMeets src cl slot va)

/-- The lines that an engine's read reaches, piece by piece, up to one that it cannot read: its accesses arrive at their controllers by a port, find the
errors of the lines, and reach merge entries (R269, R270, R386). -/
def State.engMeet (src port cl slot : Nat) (held : Bool) : Nat → Nat → Nat → State → State
  | 0, _, _, s => s
  | fuel + 1, va, n, s =>
    if n = 0 then s
    else
      let k := min n (64 - va % 64)
      let s := s.walkMeets src cl slot va
      match s.engXl cl slot va k false with
      | .error _ => s
      | .ok x =>
        let s := if x.host || (held && s.allInPort cl x.key k) then s else s.readsLine src port x.key k
        if !x.host && (s.poisoned x.key k).isSome then s else State.engMeet src port cl slot held fuel ((va + k) % 2 ^ 64) (n - k) s

/-- What a part of a command comes to: the state it leaves, and its value or why it stopped. -/
abbrev Eng (α : Type) := State × Except EngErr α

/-- The next part, when the one before has not stopped. -/
def engThen {α β : Type} (r : Eng α) (f : State → α → Eng β) : Eng β :=
  match r.2 with
  | .ok a => f r.1 a
  | .error e => (r.1, .error e)

/-- An engine reads n bytes at an address. -/
def State.engLoad (s : State) (src port cl slot va n : Nat) (held : Bool) : Eng (List Byte) :=
  if !s.engTurns port cl slot false held (n / 64 + 2) va n then (s, .error .turn)
  else
  let s := State.engMeet src port cl slot held (n / 64 + 2) va n s
  (s, s.engRead cl slot va n held)

/-- Where each piece of n bytes at an address lies, for writing. -/
def State.engPlaces (s : State) (cl slot : Nat) : Nat → Nat → Nat → Except EngErr (List (Nat × Nat × Xlat))
  | 0, _, _ => .ok []
  | fuel + 1, va, n =>
    if n = 0 then .ok []
    else
      let k := min n (64 - va % 64)
      match s.engXl cl slot va k true with
      | .error e => .error e
      | .ok x =>
        match State.engPlaces s cl slot fuel ((va + k) % 2 ^ 64) (n - k) with
        | .error e => .error e
        | .ok r => .ok ((va, k, x) :: r)

/-- A command has written n bytes at a key. Once it has written all 64 bytes of a line, in one piece or in several, the line's poison and errors are
cleared (R388, log entry 98). -/
def State.cmdWrote (s : State) (id key n : Nat) : State :=
  let lines := (linesTouched key n).filter fun l => s.poison.contains l || s.errs.any (·.1 == l)
  if lines.isEmpty then s
  else
    let got := (key, n) :: ((s.cmdOf id).map (·.wrote)).getD []
    (s.cleanLines (lines.filter fun l => spansCover got (64 * l) 64)).updCmd id fun c => { c with wrote := got }

/-- The pieces of a command are written one after another; they arrive by a port. -/
def State.engPut (s : State) (id port slot : Nat) : List (Nat × Nat × Xlat) → List Byte → State
  | [], _ => s
  | (va, k, x) :: r, l =>
    let s := if x.host then s.putBytes slot x va (l.take k) else ((s.arriveAt port x.key k).putBytes slot x va (l.take k)).cmdWrote id x.key k
    s.engPut id port slot r (l.drop k)

/-- A command writes bytes at an address, once all of them translate. -/
def State.engWrite (s : State) (src id port cl slot va : Nat) (l : List Byte) : Eng Unit :=
  if !s.engTurns port cl slot true false (l.length / 64 + 2) va l.length then (s, .error .turn)
  else
  let s := State.engWalks src cl slot (l.length / 64 + 2) va l.length s
  match s.engPlaces cl slot (l.length / 64 + 2) va l.length with
  | .error e => (s, .error e)
  | .ok p => (s.engPut id port slot p l, .ok ())

/-- The address that a handle and an offset name, whatever the handle's GEN. -/
def State.engAddr (s : State) (cl slot : Nat) (h off : Nat) : Nat := ((s.handleRange cl slot (BitVec.ofNat 32 h)).base + off) % 2 ^ 64

/-- The address that a handle and an offset name, when the handle is good (R96); `sub` is 1 at acceptance and 2 later. -/
def State.engHandle (s : State) (cl slot : Nat) (h off sub : Nat) : Except EngErr Nat :=
  let hd := BitVec.ofNat 32 h
  let r := s.handleRange cl slot hd
  let va := s.engAddr cl slot h off
  if r.stale hd then .error (.fail sub va (hd.toNat * 2 ^ 32 + r.gen)) else .ok va

/-- The first failure of a list of checks. -/
def firstErr : List (Except EngErr Unit) → Except EngErr Unit
  | [] => .ok ()
  | .error e :: _ => .error e
  | .ok _ :: r => firstErr r

/-- A step of a command that an access ended: it waits for its page or for its port's turn, or fails. -/
def State.engStop (s : State) (c : Cmd) (tiles : List (Nat × Bool)) : EngErr → State
  | .turn => s
  | .wait va => s.updCmd c.id fun x => { x with awaits := some va }
  | .fail sub addr info1 => s.failCmd c (chanTrap sub addr info1) tiles

/-- The node's tasks and engines are stopping (R367). -/
def State.stopping (s : State) : Bool := (s.node.map (·.stopping)).getD false

/-- The number that n fields of a list of bytes give, as 64-bit words. -/
def bytesWords (l : List Byte) : List Nat := unpackNat 64 (l.length / 8) (leNat l)

end Sys2Proof.Machine
end

