-- ==== Sys2Proof/Machine/RemoteSteps.lean ====
section
/-! DEFINITION. Remote operations and aggregated elements: entry into buffers, their ageing, what the memory side does with packets that
arrive, replies, acknowledgements and resends (R272-R281, R417-R420, R427, R430, R431). -/

namespace Sys2Proof.Machine

/-! ## Packets that have arrived -/

def Packet.word (p : Packet) (i : Nat) : Nat := (word512 (p.flits.headD 0) i).toNat
/-- Fields of an operation packet and its reply (R273), and the PSEQ of an aggregation packet or acknowledgement (R279, R419). -/
def Packet.seq (p : Packet) : BitVec 16 := BitVec.ofNat 16 (bits (p.word 0) 48 16)
def Packet.task (p : Packet) : Nat := bits (p.word 0) 39 9
def Packet.srcDev (p : Packet) : Nat := bits (p.word 0) 13 13
def Packet.gslot (p : Packet) : Nat := bits (p.word 0) 7 6
def Packet.aggSrc (p : Packet) : Nat := bits (p.word 0) 0 13

def State.dropPacket (s : State) (p : Packet) : State := { s with inPkts := s.inPkts.erase p }

/-- A reply or an acknowledgement for which nothing waits. -/
def State.stalePacket (s : State) (p : Packet) : Bool :=
  if p.pcls = 1 then s.opsSent.all fun o => o.seq != p.seq || o.task != p.task || o.chip != p.srcDev
  else if p.pcls = 3 then s.aggSent.all fun a => a.pseq != p.seq || a.dst != p.src
  else false

/-! ## Aggregated elements in buffers (R278, R280) -/

def execAggElementEntry (id : Nat) (s : State) : Host.Outcome State Fault Refusal := .next (s.aggEntry id)

/-- AGG_BUFFER_AGE_TIMEOUT: the oldest element has been in the buffer for 4,096 clk. -/
def State.aggAge (s : State) (dst : Nat) : State :=
  if s.aggBufs.any fun b => b.dst == dst && decide (b.openedAt + 4096 ≤ s.clk) then s.bufferLeaves dst else s
def execAggBufferAgeTimeout (dst : Nat) (s : State) : Host.Outcome State Fault Refusal := .next (s.aggAge dst)

/-! ## Performing at the destination (R272, R417, R419) -/

/-- What a remote operation comes to. -/
inductive Performed where
  | done (ctl : Nat) (value : Nat) (s : State)
  | fails (cause sub : Nat) (s : State)
  /-- A page of host space, or the turn of the fabric's port, is awaited. -/
  | wait

/-- What a remote operation asks for. -/
inductive RemoteOp where
  | load
  | store (v : Nat)
  | atomic (opk : Opk) (b : Nat)
  deriving DecidableEq, Repr

def RemoteOp.writes : RemoteOp → Bool
  | .load => false
  | .store _ | .atomic _ _ => true
def RemoteOp.atomicOp : RemoteOp → Bool
  | .atomic _ _ => true
  | .load | .store _ => false

/-- The device that an operation comes from, as the counters see it. -/
def State.originOf (s : State) (src : Nat) : Origin := if src = s.deviceId.toNat then .here else .dev src

/-- The operation on plain memory: a load reads as the fabric interface, an atomic as the unit. -/
def State.remoteAt (s : State) (src key : Nat) (wide : Bool) (op : RemoteOp) : Performed :=
  let n := wideBytes wide
  if !s.portTurn fabricPort key n then .wait
  else
    match op with
    | .load =>
      let s := s.readsLine srcFabric fabricPort key n
      if (s.poisoned key n).isSome then .fails 0x50 6 s else .done (controllerOf key) (s.memNat key n) s
    | .store v => .done (controllerOf key) 0 (((s.arriveAt fabricPort key n).memWrite key (leBytes n v)).touch key n)
    | .atomic opk b =>
      let s := s.readsLine srcUnit fabricPort key n
      if (s.poisoned key n).isSome then .fails 0x50 6 (s.unitReached key (s.originOf src))
      else
        let r := s.unitAtomic key opk wide b 0 (s.originOf src)
        .done (controllerOf key) r.1 r.2

/-- A load or store of host space. -/
def State.remoteHost (s : State) (gslot va : Nat) (wide : Bool) (op : RemoteOp) : Performed :=
  let n := wideBytes wide
  match op with
  | .load => .done 0 (Config.freeBits s.free va % 2 ^ (8 * n)) { s with free := s.free + 1 }
  | .store v => .done 0 0 (s.post (.hostStore (s.slot gslot).pasid.toNat va (leBytes n v)))
  | .atomic _ _ => .fails 0x31 2 s

/-- An operation in the context of a graph slot of this device. -/
def State.remotePerform (s : State) (src gslot va : Nat) (wide : Bool) (op : RemoteOp) : Performed :=
  let n := wideBytes wide
  if !(s.slot gslot).valid then .fails 0x30 0xC s
  else if va % n != 0 then .fails 0x33 4 s
  else
    let unit := s.unitFor gslot va n
    let s := s.walkMeets srcUnit unit gslot va
    match s.translateFor unit gslot va n op.writes with
    | .fault f => .fails f.cause f.sub s
    | .miss => .wait
    | .ok x => if x.host then s.remoteHost gslot va wide op else s.remoteAt src x.key wide op

/-! ## The order of packets (R427) -/

/-- A number of a stream comes before another: they count modulo 2^16. -/
def seqBefore (a b : BitVec 16) : Bool := a != b && decide ((b - a).toNat < 32768)

def State.stream427 (s : State) (agg : Bool) (dev task : Nat) : Stream427 :=
  (s.streams427.find? fun x => x.agg == agg && x.dev == dev && x.task == task).getD { agg := agg, dev := dev, task := task }

def State.setStream427 (s : State) (st : Stream427) : State :=
  { s with streams427 := (s.streams427.filter fun x => !(x.agg == st.agg && x.dev == st.dev && x.task == st.task)) ++ [st] }

/-- A packet is held behind a missing one. -/
def State.holdPacket (s : State) (st : Stream427) (p : Packet) : State :=
  (s.dropPacket p).setStream427 { st with held := st.held ++ [p], heldAt := if st.held.isEmpty then s.clk else st.heldAt }

/-- The packet in turn is taken out of the held ones or the arrivals. -/
def State.takePacket (s : State) (st : Stream427) (p : Packet) : State × Stream427 :=
  if st.held.contains p then (s, { st with held := st.held.erase p }) else (s.dropPacket p, st)

/-- Packets for a graph slot's context are held at the fabric interface while a migration moves its memory (R277). -/
def State.arrivalsHeld (s : State) (gslot : Nat) : Bool := s.migration.any fun m => m.copied && !m.moved && m.slot == gslot

/-! ## Operation packets (R273, R274) -/

/-- The reply to a packet. -/
def replyPacket (p : Packet) (self status : Nat) (cached : Bool) (value : Nat) : BitVec 512 :=
  payloadOf [status * 4 + cached.toNat * 64 + self * 2 ^ 13 + p.srcDev * 2 ^ 26 + p.task * 2 ^ 39 + p.seq.toNat * 2 ^ 48, value]

def State.sendReply (s : State) (p : Packet) (status : Nat) (cached : Bool) (value : Nat) : State :=
  s.sendPacket hub memPort 1 p.srcDev [replyPacket p s.deviceId.toNat status cached value]

/-- The source tasks of a unit's replies, that of the newest reply first. -/
def replyTasks (ctl : Nat) (l : List CachedReply) : List (Nat × Nat) := ((l.filter (·.ctl == ctl)).map fun r => (r.dev, r.task)).reverse.eraseDups

/-- A reply is kept under its key: 256 for each source task, 16,384 tasks for each unit. -/
def keepReply (r : CachedReply) (l : List CachedReply) : List CachedReply :=
  let mine (x : CachedReply) : Bool := x.ctl == r.ctl && x.dev == r.dev && x.task == r.task
  let l := l.filter fun x => !(x.dev == r.dev && x.task == r.task && x.seq == r.seq)
  let l := match (if l.any mine || (replyTasks r.ctl l).length < 16384 then none else (replyTasks r.ctl l).getLast?) with
    | some t => l.filter fun x => !(x.ctl == r.ctl && x.dev == t.1 && x.task == t.2)
    | none => l
  let l := match (if (l.filter mine).length < 256 then none else l.find? mine) with
    | some x => l.erase x
    | none => l
  l ++ [r]

/-- What the packet asks for: its operation, its size and its address. -/
def Packet.remoteOp (p : Packet) : RemoteOp :=
  if bit (p.word 0) 0 then .atomic ((Opk.ofCode (bits (p.word 0) 2 4)).getD .add) (bits (p.word 2) 0 (if bit (p.word 0) 1 then 64 else 32)) else .load

/-- The packet in turn is executed and answered. -/
def State.runPacket (s : State) (st : Stream427) (p : Packet) : State :=
  let keep (s : State) (ctl status value : Nat) : State :=
    let (s, st) := s.takePacket st p
    let s := s.setStream427 { st with next := p.seq + 1, missing := st.missing.filter fun x => seqBefore x (p.seq + 1) }
    { s with replies := keepReply { ctl := ctl, dev := p.srcDev, task := p.task, seq := p.seq, status := status, value := BitVec.ofNat 64 value } s.replies }.sendReply p status false value
  match s.remotePerform p.srcDev p.gslot (bits (p.word 1) 0 57) (bit (p.word 0) 1) p.remoteOp with
  | .done ctl v t => keep t ctl 0 v
  | .fails cause sub t => keep t 0 2 (cause * 256 + sub)
  | .wait => s

/-- A retransmission is answered from the cache, or refused (R274). -/
def State.rerunPacket (s : State) (st : Stream427) (p : Packet) : State :=
  let (s, st) := s.takePacket st p
  let s := s.setStream427 { st with lost := st.lost.filter (· != p.seq) }
  match s.replies.find? fun r => r.dev == p.srcDev && r.task == p.task && r.seq == p.seq with
  | some r => s.sendReply p r.status true r.value.toNat
  | none => s.sendReply p 1 false 0

/-- The stream of a source task whose next node has started: older replies are dropped. -/
def State.restartStream (s : State) (dev task : Nat) : State :=
  { s with
    replies := s.replies.filter fun r => !(r.dev == dev && r.task == task)
    streams427 := s.streams427.filter fun x => x.agg || x.dev != dev || x.task != task }

def Packet.retx (p : Packet) : Bool := bit (p.word 0) 6

/-- A packet must wait at the interface: one that comes after a lost packet of its stream, or the retransmission of one that waits (R286, R427). -/
def Stream427.keeps (st : Stream427) (before : List Packet) (p : Packet) : Bool :=
  if p.retx then before.any fun q => !q.retx && q.seq == p.seq else st.lost.any fun x => seqBefore x p.seq

/-- The first of the held packets that need not wait. -/
def Stream427.release (st : Stream427) : List Packet → List Packet → Option Packet
  | _, [] => none
  | before, p :: r => if st.keeps before p then st.release (before ++ [p]) r else some p

/-- A packet is served. SEQ counts a task's packets to all devices, so that only the number of a packet that was lost here is missing; a number that
does not follow those served is that of the source task's next node. -/
def State.servePacket (s : State) (st : Stream427) (p : Packet) : State :=
  if s.arrivalsHeld p.gslot then s
  else if p.retx then s.rerunPacket st p
  else if st.missing.contains p.seq then
    let (s, st) := s.takePacket st p
    (s.setStream427 { st with missing := st.missing.filter (· != p.seq) }).sendReply p 1 false 0
  else if p.seq != st.next && seqBefore p.seq st.next then
    let s := s.restartStream p.srcDev p.task
    s.runPacket (s.stream427 false p.srcDev p.task) p
  else s.runPacket st p

/-- OPERATION_PACKET_RECEIVED: the next packet of a source task's stream. -/
def State.opArrives (s : State) (src task : Nat) : State :=
  let st := s.stream427 false src task
  match st.release [] st.held with
  | some p => s.servePacket st p
  | none =>
    match s.inPkts.find? (fun p => p.pcls == 0 && p.srcDev == src && p.task == task) with
    | none => s
    | some p => if st.keeps st.held p then s.holdPacket st p else s.servePacket st p
def execOperationPacketReceived (src task : Nat) (s : State) : Host.Outcome State Fault Refusal := .next (s.opArrives src task)

/-! ## Aggregation packets (R279, R281, R419) -/

/-- Element i of a packet: its two words. -/
def Packet.elem (p : Packet) (i : Nat) : Nat × Nat :=
  let all := packNat 512 (p.flits.map (·.toNat))
  (bits all (128 + 128 * i) 64, bits all (192 + 128 * i) 64)
def Packet.count (p : Packet) : Nat := bits (p.word 0) 32 4
def Packet.aggSlot (p : Packet) : Nat := bits (p.word 0) 26 6

/-- The acknowledgement of a packet with its skipped elements. -/
def ackPayload (pseq : BitVec 16) (fails : List (Nat × Nat × Nat)) : BitVec 512 :=
  let mask := fails.foldl (fun m f => m + 2 ^ f.1) 0
  let codes := packNat 16 ((List.range 16).map fun i =>
    match fails.find? (fun f => f.1 == i) with
    | some f => f.2.1 * 256 + f.2.2
    | none => 0)
  BitVec.ofNat 512 (mask + pseq.toNat * 2 ^ 48 + codes * 2 ^ 64)

/-- The packet's elements have all been dealt with. -/
def State.ackPacket (s : State) (st : Stream427) (p : Packet) (fails : List (Nat × Nat × Nat)) : State :=
  let (s, st) := s.takePacket st p
  let a := ackPayload p.seq fails
  let s := s.setStream427
    { st with next := p.seq + 1, elem := 0, fails := [], missing := st.missing.filter fun x => seqBefore x (p.seq + 1), applied := (p.seq, a) :: (st.applied.filter fun x => x.1 != p.seq).take 32767 }
  s.sendPacket hub memPort 3 p.aggSrc [a]

/-- The next element of the packet in turn is performed or skipped. -/
def State.applyElem (s : State) (st : Stream427) (p : Packet) : State :=
  let e := p.elem st.elem
  let wide := bit e.1 58
  let v := if wide then e.2 else e.2 % 2 ^ 32
  let op : RemoteOp := if bit e.1 59 then .atomic ((Opk.ofCode (bits e.1 60 4)).getD .add) v else .store v
  let go (s : State) (fails : List (Nat × Nat × Nat)) : State :=
    if st.elem + 1 < p.count then s.setStream427 { st with elem := st.elem + 1, fails := fails } else s.ackPacket st p fails
  match s.remotePerform p.aggSrc p.aggSlot (bits e.1 0 57) wide op with
  | .done _ _ t => go t st.fails
  | .fails cause sub t => go t (st.fails ++ [(st.elem, cause, sub)])
  | .wait => s

/-- AGG_PACKET_APPLY: the next element of a source device's stream of packets; one already applied is acknowledged again. -/
def State.aggApply (s : State) (src : Nat) : State :=
  let st := s.stream427 true src 0
  match st.held.find? (fun p => p.seq == st.next) with
    | some p => if s.arrivalsHeld p.aggSlot then s else s.applyElem st p
    | none =>
      match s.inPkts.find? (fun p => p.pcls == 2 && p.aggSrc == src) with
      | none => s
      | some p =>
        if s.arrivalsHeld p.aggSlot then s
        else if p.seq = st.next then s.applyElem st p
        else if seqBefore st.next p.seq then (if st.held.any fun q => q.seq == p.seq then s.dropPacket p else s.holdPacket st p)
        else
          match st.applied.find? (fun x => x.1 == p.seq) with
          | some x => (s.dropPacket p).sendPacket hub memPort 3 src [x.2]
          | none => s.dropPacket p
def execAggPacketApply (src : Nat) (s : State) : Host.Outcome State Fault Refusal := .next (s.aggApply src)

/-- The lowest number among the held packets, counted from the one expected. -/
def nearest (next : BitVec 16) (l : List Packet) : Option (BitVec 16) :=
  l.foldl (fun b p =>
    match b with
    | none => some p.seq
    | some x => if (p.seq - next).toNat < (x - next).toNat then some p.seq else some x) none

/-- The numbers that the held packets of a stream wait for. -/
def Stream427.awaited (st : Stream427) : List (BitVec 16) :=
  if st.agg then
    match nearest st.next st.held with
    | some n => (List.range (n - st.next).toNat).map fun i => st.next + BitVec.ofNat 16 i
    | none => []
  else st.lost.filter fun x => st.held.any fun p => seqBefore x p.seq

/-- MISSING_SEQ_HOLD_TIMEOUT: a hold has lasted 2^18 clk, the missing numbers are marked and the held packets go on. -/
def State.holdEnds (s : State) (agg : Bool) (src task : Nat) : State :=
  let st := s.stream427 agg src task
  let gone := st.awaited
  if gone.isEmpty || decide (s.clk < st.heldAt + 2 ^ 18) then s
  else
    let st : Stream427 := { st with missing := st.missing ++ gone, heldAt := s.clk }
    s.setStream427 (if agg then { st with next := st.next + BitVec.ofNat 16 gone.length, elem := 0, fails := [] } else { st with lost := st.lost.filter fun x => !gone.contains x })
def execMissingSeqHoldTimeout (agg : Bool) (src task : Nat) (s : State) : Host.Outcome State Fault Refusal := .next (s.holdEnds agg src task)

/-! ## Replies at the source (R417, R418, R430) -/

/-- A remote operation has failed: the first bundle that reads its register reports it, or SSTEP or ENDT. -/
def State.remoteFails (s : State) (a : Access) (d : SReg) (t : Trap) : State :=
  if a.abandoned then s
  else
    let t := { t with slot := 4, addr := a.addr, opc := a.pc, defer := true, origin := a.lc }
    s.updCore a.core fun c => { c with regFaults := c.regFaults ++ [(.s d.val, { due := c.lc.toNat, trap := t })] }

/-- The record of an operation whose outcome is not known. -/
def unknownTrap (sub : Nat) (opk : Option Opk) (chip : BitVec 13) (seq : BitVec 16) : Trap :=
  { cause := 0x41, sub := sub, info0 := BitVec.ofNat 64 (chip.toNat + seq.toNat * 2 ^ 48),
    info1 := BitVec.ofNat 64 (opk.isSome.toNat + ((opk.map Opk.code).getD 0) * 2) }

/-- The operation has ended. -/
def State.endRemote (s : State) (a : Access) : State := { s.dropAccess a.id with opsSent := s.opsSent.filter fun o => o.id != a.id }

/-- The reply to a remote operation arrives. -/
def State.remoteReply (s : State) (a : Access) (d : SReg) (opk : Option Opk) (wide : Bool) (chip : BitVec 13) (seq : BitVec 16) : State :=
  match s.inPkts.find? (fun p => p.pcls == 1 && p.seq == seq && p.task == a.core && p.srcDev == chip.toNat) with
  | none => s
  | some p =>
    if a.place != .sent then s
    else
      let s := (s.dropPacket p).endRemote a
      match bits (p.word 0) 2 4 with
      | 0 => if a.abandoned then s else s.land a (.s d (BitVec.ofNat 64 (if wide then p.word 1 else p.word 1 % 2 ^ 32)))
      | 2 => s.remoteFails a d { cause := bits (p.word 1) 8 8, sub := bits (p.word 1) 0 8 }
      | _ => s.remoteFails a d (unknownTrap 1 opk chip seq)

/-- VARIABLE_LATENCY_REPLY. -/
def State.replyStep (s : State) (id : Nat) : State :=
  match s.accs.find? (fun a => a.id == id) with
  | none => s
  | some a =>
    match a.op with
    | .remote d opk wide _ chip seq => s.remoteReply a d opk wide chip seq
    | _ => s.reply id
def execVariableLatencyReply (id : Nat) (s : State) : Host.Outcome State Fault Refusal := .next (s.replyStep id)

/-- OP_PACKET_RESEND_TIMEOUT: 65,536 clk without a reply; three resends, then the operation ends with an unknown outcome. -/
def State.opResend (s : State) (id : Nat) : State :=
  match s.opsSent.find? (fun o => o.id == id), s.accs.find? (fun a => a.id == id) with
  | some o, some a =>
    match a.op with
    | .remote d opk wide b chip seq =>
      if s.clk < o.at_ + 65536 then s
      else if o.resends < 3 then
        let p := opPacket s.deviceId.toNat a.core a.slot true opk wide b chip.toNat seq a.addr
        let s := s.sendPacket (clusterOf a.core) 0 0 chip.toNat [p]
        { s with opsSent := s.opsSent.map fun x => if x.id == id then { x with at_ := s.clk, resends := x.resends + 1 } else x }
      else (s.endRemote a).remoteFails a d (unknownTrap 2 opk chip seq)
    | _ => s
  | _, _ => s
def execOpPacketResendTimeout (id : Nat) (s : State) : Host.Outcome State Fault Refusal := .next (s.opResend id)

/-! ## Acknowledgements at the source (R281, R419, R420, R430) -/

/-- The sub-cause of R420 for an underlying fault. -/
def aggSub (cause sub : Nat) : Nat :=
  if cause = 0x30 then (if sub = 0xC then 5 else 1) else if cause = 0x31 then 2 else if cause = 0x33 then 3 else 4

/-- The report of element i of a packet. -/
def aggTrap (a : AggSent) (i : Nat) (e : AggElem) (sub cause under : Nat) : Trap :=
  { cause := 0x42, sub := sub, slot := 4, addr := BitVec.ofNat 64 (bits e.word0.toNat 0 57), opc := e.pc, info1 := e.word0,
    info0 := BitVec.ofNat 64 (a.dst + i * 2 ^ 28 + a.pseq.toNat * 2 ^ 32 + under * 2 ^ 48 + cause * 2 ^ 56) }

/-- A packet's elements are settled; `fault i` is what element i reports. -/
def State.settleAgg (s : State) (a : AggSent) (fault : Nat → Option (Nat × Nat × Nat)) : State :=
  let s := { s with aggSent := s.aggSent.erase a }
  ((List.range a.elems.length).zip a.elems).foldl (fun s p =>
    let origin := ((s.accs.find? fun x => x.id == p.2.id).map (·.lc)).getD 0
    let s := s.dropAccess p.2.id
    match fault p.1 with
    | none => s
    | some f => s.lateReport p.2.task origin (aggTrap a p.1 p.2 f.1 f.2.1 f.2.2)) s

/-- AGG_ACK_RECEIVED: the acknowledgement of a packet for a destination; one for which nothing waits is discarded. -/
def State.aggAck (s : State) (dst : Nat) : State :=
  let mine (p : Packet) : Option AggSent := if p.pcls = 3 && p.src = dst then s.aggSent.find? fun a => a.dst == dst && a.pseq == p.seq else none
  match s.inPkts.find? (fun p => (mine p).isSome) with
  | some p =>
    match mine p with
    | some a =>
      (s.dropPacket p).settleAgg a fun i =>
        if bit (p.word 0) i then
          let c := bits (packNat 64 ((List.range 4).map fun j => p.word (1 + j))) (16 * i) 16
          some (aggSub (c / 256) (c % 256), c / 256, c % 256)
        else none
    | none => s
  | none =>
    match s.inPkts.find? (fun p => p.pcls == 3 && s.stalePacket p) with
    | some p => s.dropPacket p
    | none => s
def execAggAckReceived (dst : Nat) (s : State) : Host.Outcome State Fault Refusal := .next (s.aggAck dst)

/-- AGG_PACKET_RESEND_TIMEOUT: 65,536 clk without an acknowledgement; after three resends each element is reported. -/
def State.aggResend (s : State) (dst : Nat) : State :=
  match s.aggSent.find? (fun a => a.dst == dst && decide (a.at_ + 65536 ≤ s.clk)) with
  | none => s
  | some a =>
    if a.resends < 3 then
      let s := s.sendPacket (aggHome a.elems) 0 2 dst (aggFlits s.deviceId.toNat dst a.pseq.toNat a.gslot a.elems)
      { s with aggSent := s.aggSent.map fun x => if x == a then { x with at_ := s.clk, resends := x.resends + 1 } else x }
    else s.settleAgg a fun _ => some (6, 0, 0)
def execAggPacketResendTimeout (dst : Nat) (s : State) : Host.Outcome State Fault Refusal := .next (s.aggResend dst)

end Sys2Proof.Machine
end

