-- ==== Sys2Proof/Machine/LinkSteps.lean ====
section
/-! DEFINITION. The ends of the links: wire flits, acknowledgements, NAKs and replay, retraining, dead links and failover, align flits
(R307-R310, R422-R426, R434-R439). -/

namespace Sys2Proof.Machine

def State.link (s : State) (j : Nat) : Link := (s.links[j]?).getD {}
def State.updLink (s : State) (j : Nat) (f : Link → Link) : State := { s with links := modifyAt f j s.links }

/-- A counter that stops at its greatest value. -/
def saturate (bits n : Nat) : Nat := min n (2 ^ bits - 1)

/-! ## Sending (R308, R309, R424, R435) -/

/-- The hub's output on the link has room for n flits: the credits, and places among the 512 of the retry buffer. What is new waits until the flits of a
dead sibling have been sent again (R435, R437). -/
def Link.roomFor (l : Link) (n : Nat) : Bool :=
  l.state == .up && !l.parked && !l.awaitsGood && decide (n ≤ l.credits) && decide (l.retry.length + n ≤ 512) && l.replayFrom.isNone && l.backlog.isEmpty
def Link.room (l : Link) : Bool := l.roomFor 1

/-- A sequenced flit leaves: it spends a credit, but for an abort flit (R442), and stays in the retry buffer. -/
def State.linkSend (s : State) (j : Nat) (f : Flit) : State :=
  let l := s.link j
  (s.updLink j fun l =>
    { l with
      txSeq := l.txSeq + 1, retry := l.retry ++ [(l.txSeq, f)], credits := if f.type = 8 then l.credits else l.credits - 1
      oldest := if l.retry.isEmpty then s.clk else l.oldest }).wire j (wireFlit f.type l.txSeq.toNat f.circ f.pcls f.data)

/-- The sibling has been declared dead. -/
def State.siblingDead (s : State) (j : Nat) : Bool := (s.link (sibling j)).state == .dead

/-- The two words of an acknowledgement or a NAK (R423). -/
def State.ackWords (s : State) (j reason free : Nat) : BitVec 512 :=
  let l := s.link j
  let dead := s.siblingDead j
  let dgood := if dead then ((s.link (sibling j)).rxSeq - 1).toNat else 0
  payloadOf [(l.rxSeq - 1).toNat + l.freed.toNat * 2 ^ 16, reason + dgood * 2 ^ 4 + dead.toNat * 2 ^ 16 + free * 2 ^ 32]

/-- An acknowledgement leaves. -/
def State.sendAck (s : State) (j : Nat) : State :=
  (s.wire j (wireFlit 5 0 0 0 (s.ackWords j 0 0))).updLink j fun l => { l with unacked := 0, deadSentAt := s.clk }

/-- A link takes over the traffic of its dead sibling, and says so to the peer; FAILOVER changes once (R435, R439). -/
def State.takeOver (s : State) (k : Nat) : State :=
  let began := !(s.link k).failover
  let s := (s.updLink k fun l => { l with parked := false, deadAcked := false, awaitsGood := true }).setFailover k true
  (if began then s.linkEvent k 3 else s).sendAck k

/-- The end declares its link dead. A sibling that is up takes over; one that is training does once it has trained, and when both die within one retrain
no failover is attempted (R446). -/
def State.declareDead (s : State) (j : Nat) : State :=
  if (s.link j).state == .dead then s
  else
    let s := (s.updLink j fun l => { l with state := .dead, failover := false, reviving := false, parked := false, awaitsGood := false }).linkVector j
    let s := s.linkEvent j 2
    if (s.link (sibling j)).state == .up then s.takeOver (sibling j) else s

/-- The flit of a replay at a SEQ. -/
def Link.replayFlit (l : Link) (q : BitVec 12) : Option Flit := (l.retry.find? fun x => x.1 == q).map (·.2)

/-- A flit needs a credit to leave: all but an abort flit. -/
def Flit.paid (f : Flit) : Bool := f.type != 8

/-- The next flit of a replay is sent again with the SEQ that it had. One that the retry buffer cannot read declares the link dead (R432). -/
def State.resendOne (s : State) (j : Nat) (q : BitVec 12) : State :=
  match (s.link j).replayFlit q with
  | some f =>
    if f.err = some true then ((s.scribeFlit true).updLink j fun l => { l with replayFrom := none }).declareDead j
    else
      let s := (s.readFlit f).1
      let more := ((s.link j).replayFlit (q + 1)).isSome
      (s.updLink j fun l =>
        { l with
          retry := l.retry.map fun x => if x.1 == q then (q, { x.2 with err := none }) else x
          credits := if f.paid then l.credits - 1 else l.credits, replayFrom := if more then some (q + 1) else none }).wire j
        (wireFlit f.type q.toNat f.circ f.pcls f.data)
  | none => s.updLink j fun l => { l with replayFrom := none }

/-- What waits leaves as far as credit allows: first the replay, then the flits in the backlog. -/
def State.pump (j : Nat) : Nat → State → State
  | 0, s => s
  | n + 1, s =>
    let l := s.link j
    if l.state != .up then s
    else
      match l.replayFrom, l.backlog with
      | some q, _ => if l.credits = 0 && (l.replayFlit q).any Flit.paid then s else State.pump j n (s.resendOne j q)
      | none, f :: r =>
        if l.retry.length < 512 && (!f.paid || 0 < l.credits) then State.pump j n ((s.updLink j fun l => { l with backlog := r }).linkSend j f) else s
      | none, [] => s

def State.drive (s : State) (j : Nat) : State := State.pump j ((s.link j).retry.length + (s.link j).backlog.length) s

/-- A NAK leaves; it counts as an acknowledgement too. -/
def State.sendNak (s : State) (j reason free : Nat) : State :=
  ((s.linkEvent j 0).wire j (wireFlit 6 0 0 0 (s.ackWords j reason free))).updLink j fun l =>
    { l with naks := saturate 32 (l.naks + 1), nakAt := some s.clk, unacked := 0, deadSentAt := s.clk }

/-! ## Retraining and dead links (R425, R426, R434, R435) -/

/-- The link starts to retrain; a third start within 2^31 clk declares it dead. -/
def State.retrain (s : State) (j : Nat) : State :=
  let l := s.link j
  if l.state != .up then s
  else
    let starts := s.clk :: l.retrainAt.take 2
    let s := s.linkEvent j 1
    let s := (s.updLink j fun l => { l with state := .retraining, retrains := saturate 16 (l.retrains + 1), retrainAt := starts, ctlIn := [] }).linkVector j
    if starts.length = 3 && s.clk - starts.getLastD s.clk ≤ 2 ^ 31 then s.declareDead j else s

/-- A link that has trained takes over for a sibling that has died meanwhile. -/
def State.joinFailover (s : State) (j : Nat) : State := if s.siblingDead j && !(s.link j).failover then s.takeOver j else s

/-- LINK_TRAINING_COMPLETE: the first training, a retrain, or that of a dead link which the driver has asked for. -/
def State.trained (s : State) (j : Nat) : State :=
  let l := s.link j
  match l.state with
  | .untrained => (((s.linkEvent j 4).updLink j fun l => { l with state := .up }).linkVector j).joinFailover j
  | .retraining =>
    let s := s.linkEvent j 4
    let s := (s.updLink j fun l => { l with state := .up, freed := 0, lastCred := 0, credits := 0 }).linkVector j
    (s.sendNak j 4 (1024 - l.used)).joinFailover j
  | .dead =>
    if l.reviving then
      ((s.linkEvent j 4).updLink j fun l =>
        { l with state := .up, reviving := false, parked := true, txSeq := 0, rxSeq := 0, retry := [], credits := 1024, lastCred := 0, freed := 0,
                 replayFrom := none, unacked := 0, nakAt := none, consecSent := 0, consecSeen := 0, retrainAt := [], tailDue := none, pktBody := [], opened := [], awaitsGood := false, backlog := [],
                 aligned := none, ctlIn := [] }).linkVector j
    else s
  | .up => s
def execLinkTrainingComplete (link : Nat) (s : State) : Host.Outcome State Fault Refusal := .next (s.trained link)

/-- RETRAIN_TIMEOUT: a retrain has taken 4 ms. -/
def State.retrainTooLong (s : State) (j : Nat) : State :=
  let l := s.link j
  if l.state == .retraining && decide (l.retrainAt.headD 0 + 4000 * s.mhz ≤ s.clk) then s.declareDead j else s
def execRetrainTimeout (link : Nat) (s : State) : Host.Outcome State Fault Refusal := .next (s.retrainTooLong link)

/-- DEAD_NOTIFY_TIMER: the notice of a dead sibling is repeated until the peer has acknowledged it. -/
def State.deadNotify (s : State) (j : Nat) : State :=
  let l := s.link j
  if s.siblingDead j && l.state == .up && !l.deadAcked && decide (l.deadSentAt + 64 ≤ s.clk) then s.sendAck j else s
def execDeadNotifyTimer (link : Nat) (s : State) : Host.Outcome State Fault Refusal := .next (s.deadNotify link)

/-- LNKCTL.RETRAIN: a link that is up retrains; a dead one is trained while no node runs. -/
def State.askRetrain (s : State) (j : Nat) : State :=
  match (s.link j).state with
  | .up => s.retrain j
  | .dead => if s.node.isNone then s.updLink j fun l => { l with reviving := true } else s
  | .untrained | .retraining => s
def execLnkctlRetrain (link : Fin 12) (s : State) : Host.Outcome State Fault Refusal := .next (s.askRetrain link.val)

/-- LNKCTL.DOWN. -/
def execLnkctlDown (link : Fin 12) (s : State) : Host.Outcome State Fault Refusal := .next (s.declareDead link.val)

/-! ## Receiving (R308, R422, R425) -/

/-- A sequenced or unrecognisable flit is discarded: the next CRED returns its credit, where it spent one (R424); a NAK at the first, and again only after 256
clocks; the 16th in a row retrains. -/
def State.discardFlit (s : State) (j reason : Nat) (paid : Bool) : State :=
  let l := s.link j
  let s := if paid then s.updLink j fun l => { l with freed := l.freed + 1 } else s
  if reason = 3 then s.retrain j
  else if (match l.nakAt with
      | some t => decide (s.clk < t + 256)
      | none => false) then s
  else if 16 ≤ l.consecSent + 1 then s.retrain j
  else (s.sendNak j reason 0).updLink j fun l => { l with consecSent := l.consecSent + 1 }

/-- The destination of a packet's flit, where its payload names one. -/
def packetDst (pcls : Nat) (d : BitVec 512) (dst : Nat) : Nat :=
  let w := (word512 d 0).toNat
  if pcls < 2 then bits w 26 13 else if pcls = 2 then bits w 13 13 else dst

/-- A tail is that of the packet that the link is in the middle of: the one that it awaits, unless a message of that circuit is arriving and the packet's
tag does not check. -/
def Link.packetTail (l : Link) (w : BitVec 576) : Bool :=
  wireType w == 3 && l.tailDue == some (wirePcls w, wireCirc w)
    && (tagOf l.pktBody == word512 (wirePayload w) 0 || !(wirePcls w == 0 && l.opened.contains (wireCirc w)))

/-- A wire flit that link j has taken, as the hub's queue holds it: one of a circuit has left the neighbour's hub at its logical cycle `left` (R305). `l` is the
link whose stream of packets it continues. -/
def hubFlit (l : Link) (j : Nat) (w : BitVec 576) (clk : Nat) (o : OffWire) : Flit :=
  let pkt := wireType w == 4 || l.packetTail w
  { type := wireType w, circ := wireCirc w, pcls := wirePcls w, data := wirePayload w, arrive := if pkt then 0 else o.left + 25, order := clk,
    src := o.src, dst := packetDst (wirePcls w) (wirePayload w) o.dst, pkt := pkt, via := some j, repair := o.repair }

/-- The packet and the messages that are arriving by a link, after a flit. -/
def Link.after (l : Link) (w : BitVec 576) : Link :=
  let c := wireCirc w
  match wireType w with
  | 1 => { l with opened := c :: l.opened.filter (· != c) }
  | 3 => if l.packetTail w then { l with tailDue := none, pktBody := [] } else { l with opened := l.opened.filter (· != c) }
  | 4 =>
    { l with
      pktBody := (if bits c 0 2 = 0 then [] else l.pktBody) ++ [wirePayload w]
      tailDue := if bits c 0 2 = bits c 2 2 then some (wirePcls w, (bits c 2 2 + 1) % 4 + 4 * bits c 2 2) else none }
  | _ => l

/-- A flit of a packet fits the packet that a link is in the middle of: a later one of it, or the first of a new one. -/
def Link.continues (l : Link) (w : BitVec 576) : Bool := bits (wireCirc w) 0 2 == (if l.tailDue.isSome then 4 else l.pktBody.length)

/-- The link whose stream of packets a flit that link j brings continues: its own, or that of its dead sibling, which sends over it what was left (R435). -/
def State.streamLink (s : State) (j : Nat) (w : BitVec 576) : Nat :=
  let l := s.link j
  let d := s.link (sibling j)
  if !s.siblingDead j then j
  else
    match wireType w with
    | 4 => if l.continues w then j else sibling j
    | 3 => if !l.packetTail w && d.packetTail w then sibling j else j
    | _ => j

/-- A sequenced flit is taken in sequence; the 32nd that is not acknowledged is acknowledged at once (R308). A packet's flits stand at the input of the link
whose packet it is. -/
def State.takeFlit (s : State) (j : Nat) (w : BitVec 576) (o : OffWire) : State :=
  let c := s.streamLink j w
  let l := s.link c
  let abort : Bool := wireType w == 8
  let s := (s.updLink c (·.after w)).updLink j fun l =>
    { l with rxSeq := l.rxSeq + 1, used := if abort then l.used else l.used + 1, unacked := l.unacked + 1, nakAt := none, consecSent := 0 }
  let s : State :=
    if abort then { s with abortIn := s.abortIn ++ [(j, wireCirc w, wirePayload w)] } else s.enqueue hub (12 + c) [hubFlit l j w s.clk o]
  if 32 ≤ (s.link j).unacked then s.sendAck j else s

/-- WIRE_FLIT_RECEIVED (R422). Four places of the link input hold abort flits, which credits do not count (R442). Beside the flit the event gives what the wire does not carry: the device that sent it, the one that a packet goes to, the logical cycle of the neighbour's hub at which the flit left it (R305, R310), and the repair copy
that it is part of (R428). -/
def State.wireFlitArrives (s : State) (j : Nat) (w : BitVec 576) (o : OffWire) : State :=
  let l := s.link j
  let ty := wireType w
  let full := if ty = 8 then decide (4 ≤ (s.abortIn.filter (·.1 == j)).length) else decide (1024 ≤ l.used)
  if l.state != .up then s
  else if !wireOk w then
    let s := s.updLink j fun l => { l with fcrcErrors := saturate 32 (l.fcrcErrors + 1) }
    if ty = 0 || (5 ≤ ty && ty ≤ 7) then s else s.discardFlit j 0 (ty != 8)
  else if 8 < ty then s.discardFlit j 1 true
  else if ty = 0 then s
  else if 5 ≤ ty && ty ≤ 7 then s.updLink j fun l => { l with ctlIn := l.ctlIn ++ [w] }
  else if wireSeq w != l.rxSeq.toNat then s.discardFlit j 2 (ty != 8)
  else if full then s.discardFlit j 3 (ty != 8)
  else s.takeFlit j w o
def execWireFlitReceived (link : Nat) (flit : BitVec 576) (via : OffWire) (s : State) : Host.Outcome State Fault Refusal :=
  .next (s.wireFlitArrives link flit via)

/-- ACK_TIMER: what has been taken is acknowledged. -/
def State.ackTimer (s : State) (j : Nat) : State :=
  let l := s.link j
  if l.state == .up && 0 < l.unacked then s.sendAck j else s
def execAckTimer (link : Nat) (s : State) : Host.Outcome State Fault Refusal := .next (s.ackTimer link)

/-! ## Acknowledgements and NAKs at the sender (R308, R423-R425, R435) -/

/-- The retry buffer without the flits up to a SEQ; unchanged when it does not hold that SEQ. -/
def ackedUpTo (g : BitVec 12) (l : List (BitVec 12 × Flit)) : List (BitVec 12 × Flit) :=
  if l.any fun x => x.1 == g then (l.dropWhile fun x => x.1 != g).tail else l

/-- Flits up to GOOD are acknowledged and the credits returned are regained. -/
def State.takeAck (s : State) (j : Nat) (good : BitVec 12) (cred : BitVec 11) : State :=
  s.updLink j fun l =>
    let rest := ackedUpTo good l.retry
    let moved := rest.length < l.retry.length
    { l with
      retry := rest, credits := l.credits + (cred - l.lastCred).toNat, lastCred := cred
      oldest := if moved then s.clk else l.oldest, consecSeen := if moved then 0 else l.consecSeen
      replayFrom := match l.replayFrom with
        | some q => if rest.any fun x => x.1 == q then some q else (rest.head?).map (·.1)
        | none => none }

/-- What waits for a link, abort flits first (R442). -/
def abortsFirst (l : List Flit) : List Flit := l.filter (!·.paid) ++ l.filter Flit.paid

/-- The peer has declared the sibling dead: this end does too, and sends that link's flits after DGOOD over this one, from its copy of them (R432), and then
what waited to leave by that link. -/
def State.peerDead (s : State) (j : Nat) (dgood : BitVec 12) : State :=
  let k := sibling j
  let s := (s.declareDead k).updLink j fun l => { l with deadAcked := true }
  if !(s.link j).awaitsGood then s
  else
    let rest := (ackedUpTo dgood (s.link k).retry).map fun x => { x.2 with err := none }
    let late := (s.link k).backlog
    (s.updLink k fun l => { l with retry := [], backlog := [] }).updLink j fun l => { l with awaitsGood := false, backlog := abortsFirst (l.backlog ++ rest ++ late) }

/-- The first control flit of a type that has arrived, and the state without it. -/
def State.takeCtl (s : State) (j ty : Nat) : Option (BitVec 512 × State) :=
  ((s.link j).ctlIn.find? fun w => wireType w == ty).map fun w => (wirePayload w, s.updLink j fun l => { l with ctlIn := l.ctlIn.erase w })

/-- DEAD and DGOOD of an acknowledgement or a NAK. -/
def State.deadPart (s : State) (j : Nat) (p : BitVec 512) : State :=
  let w1 := (word512 p 1).toNat
  if bit w1 16 then s.peerDead j (BitVec.ofNat 12 (w1 / 16)) else s

/-- The parts that an acknowledgement and a NAK share. -/
def State.ackPart (s : State) (j : Nat) (p : BitVec 512) : State :=
  let w0 := (word512 p 0).toNat
  (s.takeAck j (BitVec.ofNat 12 w0) (BitVec.ofNat 11 (w0 / 2 ^ 16))).deadPart j p

/-- ACK_RECEIVED. -/
def State.ackArrives (s : State) (j : Nat) : State :=
  match s.takeCtl j 5 with
  | some (p, s) => if (s.link j).state == .up then (s.ackPart j p).drive j else s
  | none => s
def execAckReceived (link : Nat) (s : State) : Host.Outcome State Fault Refusal := .next (s.ackArrives link)

/-- A replay starts from the oldest unacknowledged flit; with none, what waits goes on (R426). -/
def State.startReplay (s : State) (j : Nat) : State :=
  match (s.link j).retry with
  | [] => s.drive j
  | x :: _ => (s.updLink j fun l => { l with replayFrom := some x.1, replayOf := x.1 - 1, replays := saturate 32 (l.replays + 1), oldest := s.clk }).drive j

/-- One more NAK in a row is counted at the sender; the 16th retrains the link. -/
def State.countNak (s : State) (j : Nat) (go : State → State) : State :=
  let n := (s.link j).consecSeen + 1
  if 16 ≤ n then s.retrain j else go (s.updLink j fun l => { l with consecSeen := n })

/-- NAK_RECEIVED: one that names the GOOD of a replay under way, or a flit older than the last acknowledged, is ignored (R424), but for its DEAD (R434). -/
def State.nakArrives (s : State) (j : Nat) : State :=
  match s.takeCtl j 6 with
  | none => s
  | some (p, s) =>
    let l := s.link j
    let good := BitVec.ofNat 12 (word512 p 0).toNat
    let w1 := (word512 p 1).toNat
    let acked := ((l.retry.head?).map (·.1)).getD l.txSeq - 1
    if l.state != .up then s
    else if bits w1 0 4 = 4 then
      let s := (s.updLink j fun l => { l with lastCred := BitVec.ofNat 11 ((word512 p 0).toNat / 2 ^ 16) }).ackPart j p
      (s.updLink j fun l => { l with credits := bits w1 32 11, lastCred := 0 }).startReplay j
    else if l.replayFrom.isSome && good == l.replayOf then (s.deadPart j p).drive j
    else if good == acked || l.retry.any fun x => x.1 == good then
      (s.ackPart j p).countNak j fun s => s.startReplay j
    else (s.deadPart j p).drive j
def execNakReceived (link : Nat) (s : State) : Host.Outcome State Fault Refusal := .next (s.nakArrives link)

/-- REPLAY_TIMER: the oldest unacknowledged flit has waited 256 clocks. -/
def State.replayTimer (s : State) (j : Nat) : State :=
  let l := s.link j
  if l.state == .up && !l.retry.isEmpty && decide (l.oldest + 256 ≤ s.clk) then s.countNak j fun s => s.startReplay j else s
def execReplayTimer (link : Nat) (s : State) : Host.Outcome State Fault Refusal := .next (s.replayTimer link)

/-- ALIGN_FLIT_RECEIVED (R310). -/
def State.alignArrives (s : State) (j : Nat) : State :=
  match s.takeCtl j 7 with
  | some (p, s) => s.updLink j fun l => { l with aligned := some (word512 p 0, word512 p 1) }
  | none => s
def execAlignFlitReceived (link : Nat) (s : State) : Host.Outcome State Fault Refusal := .next (s.alignArrives link)

end Sys2Proof.Machine
end

