-- ==== Sys2Proof/Machine/RouterSteps.lean ====
section
/-! DEFINITION. Router slots, packets on their routes, messages at their receivers, the message store and repair (R28, R232-R236, R299-R305,
R311-R313, R427-R430, R433, R436-R438). -/

namespace Sys2Proof.Machine

/-! ## Ends on this device -/

/-- The router and port of a task, or of the collective engine (R301). -/
def endPort (task : Nat) : Nat × Nat := if task = 0x1FF then (hub, collPort) else (clusterOf task, 0)

def State.routerAt (s : State) (r : Nat) : Router := (s.routers[r]?).getD (Router.empty 4)
def State.updRouter (s : State) (r : Nat) (f : Router → Router) : State := { s with routers := modifyAt f r s.routers }
def routerPorts (r : Nat) : Nat := if r = hub then 26 else 4

/-- Where a packet for this device leaves the fabric, from its first flit: its class and payload, and for a packet of a repair copy the circuit. -/
def State.packetHome (s : State) (f : Flit) : Nat × Nat :=
  let w := (word512 f.data 0).toNat
  let circ (n : Nat) (sender : Bool) : Nat × Nat :=
    match s.circuitOf n with
    | some c => endPort (if sender then c.stask else c.rtask)
    | none => (hub, memPort)
  match f.pcls with
  | 1 => (clusterOf (bits w 39 9), 0)
  | 4 | 5 => circ (bits w 0 8) true
  | 7 => circ ((f.repair.map (·.circ)).getD (bits (word512 f.data 1).toNat 0 8)) false
  | _ => (hub, memPort)

/-! ## Routes of packets (R300, R436) -/

/-- The direction pair by which a packet leaves a device: +x, -x, +y, -y, +z, -z. -/
def dimStep (size a b plus : Nat) : Option Nat :=
  let d := (b + size - a) % size
  if d = 0 then none else if 2 * d ≤ size then some plus else some (plus + 1)

/-- S[CHIP] can name 6,144 to 8,191, which are no devices: the spec gives them no route, and the model takes z from id div 256, modulo 24, and leaves by +x
where no coordinate differs (log entry 79). -/
def routePair (src dst : Nat) : Nat :=
  ((dimStep 16 (src % 16) (dst % 16) 0)
    <|> (dimStep 16 (src / 16 % 16) (dst / 16 % 16) 2) <|> (dimStep 24 (src / 256) (dst / 256) 4)).getD 0

/-- A pair with a link that does not carry its own traffic is in failover. -/
def State.pairFails (s : State) (k : Nat) : Bool :=
  let bad (j : Nat) : Bool := (s.link j).state == .dead || (s.link j).parked
  bad (2 * k) || bad (2 * k + 1)

/-- The link of a pair that carries its traffic in failover. -/
def State.survivor (s : State) (k : Nat) : Nat :=
  if (s.link (2 * k)).state == .dead || (s.link (2 * k)).parked then 2 * k + 1 else 2 * k

/-- The link by which a packet for another device leaves. -/
def State.packetLink (s : State) (dst : Nat) : Nat :=
  let k := routePair s.deviceId.toNat dst
  if s.pairFails k then s.survivor k else 2 * k + dst % 2

/-- The output port that the first flit of a packet takes at a router. -/
def State.packetOut (s : State) (r : Nat) (f : Flit) : Nat :=
  let home := s.packetHome f
  if f.dst = s.deviceId.toNat then
    (if r = hub then (if home.1 = hub then home.2 else home.1) else if home.1 = r then home.2 else 3)
  else if r = hub then 12 + s.packetLink f.dst else 3

/-! ## Slots (R302, R303, R436) -/

/-- One thing that a slot does: an output takes a circuit flit of an input, or a packet flit. -/
inductive SlotMove where
  | circuit (out inp : Nat)
  | packet (out : Nat)
  deriving DecidableEq, Repr

/-- The move of an output byte. -/
def moveOf (out byte : Nat) : List SlotMove :=
  match bits byte 6 2 with
  | 1 => [.circuit out (bits byte 0 6)]
  | 2 => [.packet out]
  | _ => []

/-- What the entry of a router's present slot says, output by output; the hub takes the backup plane for a pair in failover. -/
def State.slotMoves (s : State) (r : Nat) : List SlotMove :=
  let x := s.routerAt r
  let e := x.primary.getD (x.lc % 256) 0
  let b := x.backup.getD (x.lc % 256) 0
  (List.range (routerPorts r)).flatMap fun p =>
    if r = hub && 12 ≤ p && p < 24 && s.pairFails ((p - 12) / 2) then
      let k := (p - 12) / 2
      if p - 12 != s.survivor k then []
      else
        let m := bits b (8 * (26 + k)) 8
        moveOf p (bits b (8 * p) 8) ++ (if bit m 7 then [.circuit p (bits m 0 6)] else [])
    else moveOf p (bits e (8 * p) 8)

/-- The input ports at which a hub looks for a flit: in failover either link of the pair. -/
def State.inputPorts (s : State) (r inp : Nat) : List Nat :=
  if r = hub && 12 ≤ inp && inp < 24 && s.pairFails ((inp - 12) / 2) then [12 + 2 * ((inp - 12) / 2), 13 + 2 * ((inp - 12) / 2)] else [inp]

/-- The waiting flits of an input port. -/
def Router.waiting (x : Router) (p : Nat) : List Flit := x.inq.getD p []

/-- A message's flit has left the fabric interface of its sender: once what its fences order is complete, its tile has been read (R238)
and its logical cycle has come. -/
def State.outFlit (s : State) (r inp circ : Nat) : Option Flit :=
  match s.circuitOf circ with
  | none => none
  | some c =>
    match c.out with
    | [] => none
    | (f, deps) :: _ =>
      if c.shere && endPort c.stask == (r, inp) && s.depsMet deps && decide (f.arrive ≤ (s.routerAt r).lc)
          && s.tileIo.all (fun io => !io.out || io.order != f.order) then some f else none

/-- A circuit's flit waiting at an input, with the port that holds it; none for a flit of the fabric interface or the engine. -/
def State.circuitFlit (s : State) (r inp circ : Nat) : Option (Option Nat × Flit) :=
  let x := s.routerAt r
  let own := (s.inputPorts r inp).findSome? fun p =>
    ((x.waiting p).find? fun f => !f.pkt && f.circ == circ && decide (f.arrive ≤ x.lc)).map fun f => (some p, f)
  own <|> ((s.outFlit r inp circ).map fun f => (none, f))

/-- The first packet flit waiting at an input. -/
def Router.firstPacket (x : Router) (p : Nat) : Option Flit := (x.waiting p).find? (·.pkt)

/-- A hub's port of a link. -/
def isLink (r p : Nat) : Bool := r == hub && decide (12 ≤ p) && decide (p < 24)

/-- The link whose flits an input of the hub presents is up: in failover the one that carries the pair's traffic (R426, R436, R438). -/
def State.linkPresents (s : State) (j : Nat) : Bool := (s.link (if s.pairFails (j / 2) then s.survivor (j / 2) else j)).state == .up

/-- An input presents its packet flits: that of a link while its link is up (R426). -/
def State.presents (s : State) (r inp : Nat) : Bool := !isLink r inp || s.linkPresents (inp - 12)

/-- The output under which the packet stands that an output is in the middle of: its own, or in failover that of the dead link whose traffic it carries
(R436). -/
def State.packetPlace (s : State) (r out : Nat) : Nat :=
  let x := s.routerAt r
  if isLink r out && (x.pkt.getD out none).isNone && s.pairFails ((out - 12) / 2) && (x.pkt.getD (12 + sibling (out - 12)) none).isSome then 12 + sibling (out - 12) else out

/-- The input whose packet flit an output takes, of those that are not to give another one in this slot: that of the packet it is in the middle of, and
otherwise the oldest arrival. -/
def State.packetInput (s : State) (r out : Nat) (used : List Nat) : Option Nat :=
  let x := s.routerAt r
  let free (i : Nat) : Bool := !used.contains i && s.presents r i
  match x.pkt.getD (s.packetPlace r out) none with
  | some i => if (x.firstPacket i).isSome && free i then some i else none
  | none =>
    ((List.range (routerPorts r)).filter free).foldl (fun b i =>
      match x.firstPacket i with
      | some f =>
        if f.type == 4 && bits f.circ 0 2 == 0 && s.packetOut r f == out then
          (match b with
          | some j => (match x.firstPacket j with
            | some g => if f.order < g.order then some i else b
            | none => some i)
          | none => some i)
        else b
      | none => b) none

/-! ## Where a flit goes (R301, R305) -/

/-- The receiving end of a circuit lies at an output. -/
def State.endsAt (s : State) (circ r out : Nat) : Bool :=
  match s.circuitOf circ with
  | some c => c.rhere && endPort c.rtask == (r, out)
  | none => false

/-- An output leads out of the fabric. -/
def isEnd (r out : Nat) : Bool := if r = hub then out == collPort || out == memPort else out == 0

/-- The tag of an operation packet has failed: its number is missing from its stream, as its header reads (R427, R430). -/
def State.packetLost (s : State) (p : Packet) : State :=
  let st := s.stream427 false p.srcDev p.task
  if p.pcls = 0 && !p.retx && !seqBefore p.seq st.next then s.setStream427 { st with lost := st.lost ++ [p.seq] } else s

/-- A packet of the same repair copy as another one. -/
def Packet.sameCopy (p q : Packet) : Bool :=
  match p.repair, q.repair with
  | some a, some b => p.pcls == 7 && q.pcls == 7 && p.src == q.src && a.circ == b.circ && a.ordinal == b.ordinal
  | _, _ => false

/-- A packet of a repair copy arrives (R428): its first one begins a copy anew, a later one joins those before it, and one whose tag has failed discards the
copy whole, so that what follows of it joins nothing. -/
def State.copyPacket (s : State) (p : Packet) (good : Bool) : State :=
  let first := p.repair.all (·.index == 0)
  let before := s.inPkts.any fun q => p.sameCopy q && (q.repair.map (·.index + 1)) == p.repair.map (·.index)
  if !good then { s with inPkts := s.inPkts.filter (!p.sameCopy ·) }
  else if first then { s with inPkts := (s.inPkts.filter (!p.sameCopy ·)) ++ [p] }
  else if before then { s with inPkts := s.inPkts ++ [p] }
  else s

/-- A packet has arrived whole: it is kept when its tag checks, with no flit that a buffer has marked bad, and something here waits for it (R313, R430,
R432). -/
def State.packetArrives (s : State) (l : List Flit) : State :=
  match l.getLast?, l.head? with
  | some tail, some h =>
    let body := l.dropLast.map (·.data)
    let p : Packet := { pcls := h.pcls, dst := h.dst, flits := body, src := h.src, repair := h.repair }
    let good : Bool := tagOf body = word512 tail.data 0 && l.all (!·.bad)
    if h.pcls = 7 then s.copyPacket p good
    else if good then (if s.stalePacket p then s else { s with inPkts := s.inPkts ++ [p] })
    else s.packetLost p
  | _, _ => s

/-- A packet's flit reaches its endpoint. -/
def State.packetFlit (s : State) (key : Nat) (f : Flit) : State :=
  let l := Sparse.get [] s.pktIn key ++ [f]
  if f.type = 3 then ({ s with pktIn := Sparse.erase key s.pktIn }).packetArrives l else { s with pktIn := Sparse.insert key l s.pktIn }

/-- Where an output inside the device leads: the next router and its input port. -/
def nextPort (r out : Nat) : Nat × Nat :=
  if r = hub then (out, 3)
  else
    match out with
    | 1 => ((r + 1) % 12, 2)
    | 2 => ((r + 11) % 12, 1)
    | _ => (hub, r)

/-- A flit crosses a router to an output. -/
def State.forwardFlit (s : State) (r out : Nat) (f : Flit) : State :=
  let lc := (s.routerAt r).lc
  let toPort (hop : Nat) : State := s.enqueue (nextPort r out).1 (nextPort r out).2 [{ f with arrive := lc + 1 + hop, order := if f.pkt then s.clk else f.order }]
  if isEnd r out then
    if f.pkt then s.packetFlit (32 * r + out) f else s.updCircuit f.circ fun c => { c with asm := c.asm ++ [f] }
  else if isLink r out then s.linkSend (out - 12) f
  else toPort (if r = hub || out = 3 then 2 else 1)

/-- The place that a flit takes in a link's skid buffer is free again, and its credit with it (R309). -/
def State.freeSkid (s : State) (r p : Nat) (f : Flit) : State :=
  if isLink r p then s.updLink (f.via.getD (p - 12)) fun l => { l with used := l.used - 1, freed := l.freed + 1 } else s

/-- A flit leaves an input's queue as its buffer reads it; a link's skid place is free again. -/
def State.leaveInput (s : State) (r p : Nat) (f : Flit) : State × Flit :=
  ((s.updRouter r fun x => { x with inq := modifyAt (·.erase f) p x.inq }).freeSkid r p f).readFlit { f with via := none }

/-! ## The message store (R428) -/

/-- The flits of the message at the head of a circuit's buffer. -/
def Circuit.frontMessage (c : Circuit) : List Flit :=
  match c.out with
  | [] => []
  | (f, _) :: _ => ((c.out.map (·.1)).takeWhile fun g => g.order == f.order)

/-- The ordinal of that message on its circuit. -/
def Circuit.frontOrdinal (c : Circuit) : BitVec 16 := c.sentOrd - BitVec.ofNat 16 ((c.out.filter fun x => x.1.type == 1).length)

def State.storeUse (s : State) : Nat := (s.store.map fun x => x.flits.length).foldl (· + ·) 0

/-- A message's head flit leaves only once the store has room for the message. -/
def State.storeRoom (s : State) (circ : Nat) (f : Flit) : Bool :=
  f.type != 1 ||
    match s.circuitOf circ with
    | some c => decide (s.storeUse + c.frontMessage.length ≤ 8192)
    | none => false

/-- A flit leaves the send buffer of its circuit; with the head the message enters the store. -/
def State.leaveSender (s : State) (circ : Nat) (f : Flit) : State :=
  let s : State := match s.circuitOf circ with
    | some c => if f.type = 1 then { s with store := s.store ++ [({ circ := circ, ordinal := c.frontOrdinal, flits := c.frontMessage } : Stored)] } else s
    | none => s
  s.updCircuit circ fun c => { c with out := c.out.tail }

/-! ## One slot of a router (R28, R303) -/

/-- The circuit that the compiled schedule gives to an input in this slot. -/
def expectedAt (expect : List (Nat × Nat)) (inp : Nat) : Option Nat := (expect.find? fun p => p.1 == inp).map (·.2)

/-- The flit that a circuit's move takes, with its output, the input that gives it, and the port that holds it: none for one of a fabric interface or an
engine. No input gives two flits in one slot (R301). -/
def State.circuitMove (s : State) (r : Nat) (expect : List (Nat × Nat)) (used : List Nat) (out inp : Nat) : Option (Nat × Nat × Option Nat × Flit) :=
  match expectedAt expect inp with
  | none => none
  | some c =>
    match s.circuitFlit r inp c with
    | some (p, f) => if used.contains inp || (p.isNone && !s.storeRoom c f) then none else some (out, inp, p, f)
    | none => none

/-- The outputs that take a circuit's flit in this slot, each with the input that gives it. -/
def State.slotCircuits (s : State) (r : Nat) (expect : List (Nat × Nat)) (moves : List SlotMove) : List (Nat × Nat) :=
  moves.filterMap fun m =>
    match m with
    | .circuit out inp => (s.circuitMove r expect [] out inp).map fun _ => (out, inp)
    | .packet _ => none

/-- An on-die input port has a place for one more flit of a circuit, or of a packet (R28, log entry 44). -/
def State.portRoom (s : State) (r p : Nat) (pkt : Bool) : Bool :=
  decide ((((s.routerAt r).waiting p).filter fun f => f.pkt == pkt).length < Config.portPlaces r p + 1)

/-- Flits of a circuit at its receiving end: those of messages that have not been judged, and those of messages that no task has received. -/
def Circuit.heldFlits (c : Circuit) : Nat :=
  c.asm.length + (c.rx.map fun x =>
    match x with
    | .ready m => m.payload.length + 2
    | .failed _ _ _ => 0).foldl (· + ·) 0

/-- The receiving end of a circuit has a place for one more flit: it holds one whole message at least (R28, log entry 44). -/
def State.endRoom (s : State) (circ : Nat) : Bool := (s.circuitOf circ).all fun c => decide (c.heldFlits < 66 + Config.endPlaces circ)

/-- An output has room for n flits of circuits, or of packets. What leaves the fabric is judged where it ends. -/
def State.roomAt (s : State) (r out n : Nat) (pkt : Bool) : Bool :=
  if isLink r out then (s.link (out - 12)).roomFor n
  else isEnd r out || s.portRoom (nextPort r out).1 (nextPort r out).2 pkt

/-- The flit that a move takes. A packet's flit moves only where it leaves every circuit of the slot its input and its room (R303). -/
def State.moveFlit (s : State) (r : Nat) (expect : List (Nat × Nat)) (circs : List (Nat × Nat)) (used : List Nat) :
    SlotMove → Option (Nat × Nat × Option Nat × Flit)
  | .circuit out inp => s.circuitMove r expect used out inp
  | .packet out =>
    match s.packetInput r out (used ++ circs.map (·.2)) with
    | some i => if s.roomAt r out (1 + (circs.filter (·.1 == out)).length) true then ((s.routerAt r).firstPacket i).map fun f => (out, i, some i, f) else none
    | none => none

/-- What is upstream of an on-die input has gone past the point from which a flit could still reach it for the present slot: it presents its flit or the
idle marker. The input of a fabric interface follows the core that sends on the slot's circuit. -/
def State.inputPast (s : State) (r inp : Nat) (circ : Option Nat) : Bool :=
  let u := (s.routerAt r).lc
  if r = hub then (decide (12 ≤ inp) || decide (u < (s.routerAt inp).lc + 3))
  else
    match inp with
    | 0 =>
      match circ.bind s.circuitOf with
      | some c =>
        let k := s.core c.stask
        !(c.shere && endPort c.stask == (r, 0)) || !(s.node.any (·.aligned)) || k.over || k.phase == .absent || decide (u ≤ k.lc.toNat)
      | none => true
    | 1 => decide (u < (s.routerAt ((r + 1) % 12)).lc + 2)
    | 2 => decide (u < (s.routerAt ((r + 11) % 12)).lc + 2)
    | _ => decide (u < (s.routerAt hub).lc + 3)

/-- An input that the entry names has presented its flit of the slot or the idle marker (R28, R303). At an input from a link the schedule's circuit is
that of the flit that the neighbour has sent for the slot, and an input that `expect` does not name has presented the idle marker. -/
def State.inputReady (s : State) (r : Nat) (expect : List (Nat × Nat)) (inp : Nat) : Bool :=
  let c := expectedAt expect inp
  let here := c.any fun n => (s.circuitFlit r inp n).isSome
  if isLink r inp then s.linkPresents (inp - 12) && (c.isNone || here) else here || s.inputPast r inp c

/-- A circuit output of the slot has room for the flits that it takes, and a flit that leaves the fabric there has its receiver there. -/
def State.outReady (s : State) (r : Nat) (expect : List (Nat × Nat)) (moves : List SlotMove) (out : Nat) : Bool :=
  let here := moves.filterMap fun m =>
    match m with
    | .circuit o inp => if o = out then s.circuitMove r expect [] o inp else none
    | .packet _ => none
  s.roomAt r out (max 1 here.length) false && here.all fun x => !isEnd r out || (s.endsAt x.2.2.2.circ r out && s.endRoom x.2.2.2.circ)

/-- A circuit move of the slot waits for nothing. -/
def State.moveReady (s : State) (r : Nat) (expect : List (Nat × Nat)) (moves : List SlotMove) : SlotMove → Bool
  | .packet _ => true
  | .circuit out inp => s.inputReady r expect inp && s.outReady r expect moves out

/-- One move is made; the inputs that have given a flit. -/
def State.makeMove (r : Nat) (expect circs : List (Nat × Nat)) (x : State × List Nat) (m : SlotMove) : State × List Nat :=
  let s := x.1
  match s.moveFlit r expect circs x.2 m with
  | none => x
  | some (out, inp, some p, f) =>
    let g := s.leaveInput r p f
    let s := g.1.forwardFlit r out g.2
    (if f.pkt then s.updRouter r fun y => { y with pkt := modifyAt (fun _ => if f.type = 3 then none else some p) (x.1.packetPlace r out) y.pkt } else s, inp :: x.2)
  | some (out, inp, none, f) => ((s.leaveSender f.circ f).forwardFlit r out f, inp :: x.2)

/-- A circuit comes to the hub by a link, or by its sibling in failover. -/
def State.comesBy (s : State) (circ j : Nat) : Bool :=
  match s.circuitOf circ with
  | some c => c.links.getLsbD j || (s.pairFails (j / 2) && c.links.getLsbD (sibling j))
  | none => false

/-- A circuit flit that a link input presents where the entry expects another circuit (R433), with the port, the expected circuit and the one received: a flit
of a circuit that does not come by that link, or one whose arrival is this slot, the expected circuit having none. A flit that waits for its own
circuit's slot is no such case (R303, R305). -/
def State.mismatch (s : State) (r : Nat) (expect : List (Nat × Nat)) : Option (Nat × Nat × Nat) :=
  if r != hub then none
  else
    let x := s.routerAt r
    expect.findSome? fun p =>
      if !isLink hub p.1 then none
      else
        ((x.waiting p.1).find? fun f =>
          !f.pkt && (!s.comesBy f.circ (p.1 - 12) || (f.arrive == x.lc && f.circ != p.2 && !s.pairFails ((p.1 - 12) / 2) && (s.circuitFlit r p.1 p.2).isNone))).map
            fun f => (p.1, p.2, f.circ)

/-- A circuit's flits that wait at an input of the hub are dropped; their places there are free. -/
def State.dropFlits (s : State) (port circ : Nat) : State :=
  let gone (f : Flit) : Bool := !f.pkt && f.circ == circ
  let s := (((s.routerAt hub).waiting port).filter gone).foldl (fun s f => s.freeSkid hub port f) s
  s.updRouter hub fun x => { x with inq := modifyAt (fun q => q.filter (!gone ·)) port x.inq }

/-- The node whose circuit was expected stops. -/
def State.stopMismatch (s : State) (port want got : Nat) : State :=
  match s.node with
  | none => s
  | some n =>
    let task := ((s.circuitOf want).map (·.rtask)).getD 0x1FF
    let t : Trap := { cause := 0x50, sub := 8, addr := BitVec.ofNat 64 port, info0 := BitVec.ofNat 64 want, info1 := BitVec.ofNat 64 got }
    let s := s.dropFlits port got
    (s.record task (s.mkRecord t 3 task false false 0 0 0 0 n.slot n.index.toNat)).stopNode task 0x50

/-- ROUTER_SLOT: the slot moves when every input that its entry names has presented its flit or the idle marker and every circuit output has room.
`expect` gives, for each such input, the circuit to which the compiled schedule has given the slot. -/
def State.routerSlot (s : State) (r : Nat) (expect : List (Nat × Nat)) : State :=
  match s.mismatch r expect with
  | some (port, want, got) => s.stopMismatch port want got
  | none =>
    let moves := s.slotMoves r
    if moves.all (s.moveReady r expect moves) then (moves.foldl (State.makeMove r expect (s.slotCircuits r expect moves)) (s, [])).1.updRouter r fun x => { x with lc := x.lc + 1 } else s
def execRouterSlot (router : Nat) (expect : List (Nat × Nat)) (s : State) : Host.Outcome State Fault Refusal := .next (s.routerSlot router expect)

/-! ## Messages at their receiver (R311-R313, R428, R429) -/

/-- A one-flit packet about a message, from this end of its circuit to the device of the other. -/
def State.aboutMessage (s : State) (pcls : Nat) (c : Circuit) (ordinal : BitVec 16) (dst : Nat) : State :=
  let h := endPort c.rtask
  s.sendPacket h.1 h.2 pcls dst [payloadOf [c.id + ordinal.toNat * 2 ^ 48]]

/-- The flits of the oldest message received, once its tail is there, and what follows them. -/
def frontAsm (l : List Flit) : Option (List Flit × List Flit) :=
  match l.dropWhile (fun f => f.type != 3) with
  | [] => none
  | t :: rest => some (l.takeWhile (fun f => f.type != 3) ++ [t], rest)

/-- The message that flits carry, when their tag checks and no buffer has marked one bad. -/
def checkedMessage (l : List Flit) : Option Message :=
  match l.map (·.data) with
  | [] => none
  | h :: r =>
    match r.getLast? with
    | none => none
    | some tail => if tagOf (h :: r.dropLast) = word512 tail 0 && l.all (!·.bad) then some (messageOf h r.dropLast) else none

/-- The device that sent a message on a circuit: this one, or that of the flits' arrival. -/
def State.senderOf (s : State) (c : Circuit) (l : List Flit) : Nat := if c.shere then s.deviceId.toNat else ((l.head?).map (·.src)).getD 0

/-- MESSAGE_TAG_CHECK. -/
def State.tagCheck (s : State) (circ : Nat) : State :=
  match s.circuitOf circ with
  | none => s
  | some c =>
    match frontAsm c.asm with
    | none => s
    | some (l, rest) =>
      let sdev := s.senderOf c l
      let place := match checkedMessage l with
        | some m => RxPlace.ready m
        | none => .failed c.rxOrd s.clk sdev
      let s := s.updCircuit circ fun c => { c with asm := rest, rx := c.rx ++ [place], rxOrd := c.rxOrd + 1 }
      s.aboutMessage (if (checkedMessage l).isSome then 5 else 4) c c.rxOrd sdev
def execMessageTagCheck (circ : Nat) (s : State) : Host.Outcome State Fault Refusal := .next (s.tagCheck circ)

/-- A place whose message was asked for 65,536 clk ago or earlier: its ordinal and the sender's device. -/
def RxPlace.due (clk : Nat) : RxPlace → Option (BitVec 16 × Nat)
  | .failed o t d => if t + 65536 ≤ clk then some (o, d) else none
  | .ready _ => none

/-- The message of a place has been asked for. -/
def RxPlace.ask (clk : Nat) (x : RxPlace) : RxPlace :=
  match x.due clk with
  | some (o, d) => .failed o clk d
  | none => x

/-- RE_REQUEST_TIMER: every message of the circuit that was asked for 65,536 clk ago is asked for again. -/
def State.reRequest (s : State) (circ : Nat) : State :=
  match s.circuitOf circ with
  | none => s
  | some c =>
    (c.rx.filterMap (·.due s.clk)).foldl (fun s x => s.aboutMessage 4 c x.1 x.2)
      (s.updCircuit circ fun c => { c with rx := c.rx.map (·.ask s.clk) })
def execReRequestTimer (circ : Nat) (s : State) : Host.Outcome State Fault Refusal := .next (s.reRequest circ)

/-- A packet of a class that names a circuit. -/
def State.circuitPacket (s : State) (pcls circ : Nat) : Option Packet := s.inPkts.find? fun p => p.pcls == pcls && bits (p.word 0) 0 8 == circ

/-- The packets of a repair copy: up to four flits in each. -/
def repairPackets : Nat → List Flit → List (List Flit)
  | 0, _ => []
  | n + 1, l => if l.isEmpty then [] else l.take 4 :: repairPackets n (l.drop 4)

/-- The flits of a packet whose payloads a buffer has marked bad are bad themselves (R432). -/
def badFlits (l p : List Flit) : List Flit := ((List.range p.length).zip p).map fun x => { x.2 with bad := (l[x.1]?).any (·.bad) }

/-- The flits of packet m of the copy of a message. -/
def copyFlits (clk src dst circ : Nat) (ordinal : BitVec 16) (m : Nat) (l : List Flit) : List Flit :=
  (badFlits l (packetFlits clk 7 src dst (l.map (·.data)))).map fun f => { f with repair := some { circ := circ, ordinal := ordinal, index := m } }

/-- The store reads a message's flits. -/
def State.readStore : List Flit → State → State × List Flit
  | [], s => (s, [])
  | f :: l, s =>
    let x := s.readFlit f
    let y := State.readStore l x.1
    (y.1, x.2 :: y.2)

/-- RE_REQUEST_RECEIVED: the sender answers from its store. The copy goes to `dst`, the receiver's
device, which the packet does not name. -/
def State.reRequested (s : State) (circ dst : Nat) : State :=
  match s.circuitPacket 4 circ, s.circuitOf circ with
  | some p, some c =>
    let s := s.dropPacket p
    match s.store.find? fun x => x.circ == circ && x.ordinal == p.seq with
    | some x =>
      let h := endPort c.stask
      let y := State.readStore x.flits s
      let l := repairPackets y.2.length y.2
      ((List.range l.length).zip l).foldl (fun s m => s.enqueue h.1 h.2 (copyFlits s.clk s.deviceId.toNat dst circ x.ordinal m.1 m.2)) y.1
    | none => s
  | _, _ => s
def execReRequestReceived (circ dst : Nat) (s : State) : Host.Outcome State Fault Refusal := .next (s.reRequested circ dst)

/-- Flits of a message with a head. -/
def messageLength (head : BitVec 512) : Nat :=
  let m := messageOf head []
  (if m.kind = 0 then ceilDiv m.len 16 else m.len) + 2

/-- A copy of a circuit's message of which every packet has arrived: the packets in order, and the message's ordinal. -/
def State.wholeCopy (s : State) (circ : Nat) : Option (List Packet × BitVec 16) :=
  s.inPkts.findSome? fun p =>
    match p.repair with
    | some x =>
      let l := s.inPkts.filter p.sameCopy
      if p.pcls = 7 && x.circ == circ && x.index == 0 && l.length == ceilDiv (messageLength (p.flits.headD 0)) 4 then some (l, x.ordinal) else none
    | none => none

/-- The place kept for a message of an ordinal: the device of its sender. -/
def failedPlace (o : BitVec 16) (l : List RxPlace) : Option Nat :=
  l.findSome? fun x =>
    match x with
    | .failed q _ d => if q = o then some d else none
    | .ready _ => none

/-- A copy that checks takes the place kept for its message. -/
def fillFailed (o : BitVec 16) (m : Message) (l : List RxPlace) : List RxPlace :=
  l.map fun x =>
    match x with
    | .failed q _ _ => if q = o then .ready m else x
    | .ready _ => x

/-- REPAIR_COPY_RECEIVED: the chain is rebuilt and judged; one that fails is discarded whole. -/
def State.repaired (s : State) (circ : Nat) : State :=
  match s.circuitOf circ, s.wholeCopy circ with
  | some c, some (l, o) =>
    let s := l.foldl (fun s p => s.dropPacket p) s
    match checkedMessage ((l.flatMap (·.flits)).map fun d => { type := 2, circ := circ, data := d }), failedPlace o c.rx with
    | some m, some d => (s.updCircuit circ fun c => { c with rx := fillFailed o m c.rx }).aboutMessage 5 c o d
    | _, _ => s
  | _, _ => s
def execRepairCopyReceived (circ : Nat) (s : State) : Host.Outcome State Fault Refusal := .next (s.repaired circ)

/-- DELIVERY_CONFIRMATION_RECEIVED: the message's places in the store are free. -/
def State.confirmed (s : State) (circ : Nat) : State :=
  match s.circuitPacket 5 circ with
  | some p => { s.dropPacket p with store := s.store.filter fun x => !(x.circ == circ && x.ordinal == p.seq) }
  | none => s

end Sys2Proof.Machine
end

