-- ==== Sys2Proof/Machine/CollSteps.lean ====
section
/-! DEFINITION. The collective engine: acceptance, what each member sends along the ring and the sums that it forms, the values that it writes, patience,
failures and abort flits (R243, R244, R311, R314-R322, R440-R446). -/

namespace Sys2Proof.Machine

/-! ## The template (R314) -/

/-- The caches by which the engine translates. -/
def collCluster : Nat := 22

def kPred (t : BitVec 512) : Nat := bits (word512 t 0).toNat 40 8
def kSucc (t : BitVec 512) : Nat := bits (word512 t 0).toNat 32 8
def kMembers (t : BitVec 512) : Nat := bits (word512 t 0).toNat 24 8
def kFmt (t : BitVec 512) : Fmt := fmtOfCode (bits (word512 t 0).toNat 12 4)
def kOv (t : BitVec 512) : OV :=
  match bits (word512 t 0).toNat 10 2 with
  | 0 => .sat
  | 1 => .inf
  | _ => .nan
def kRequant (t : BitVec 512) : Bool := bit (word512 t 0).toNat 9
def kTruss (t : BitVec 512) : Bool := bit (word512 t 0).toNat 8
def kDstLocal (t : BitVec 512) : Bool := bit (word512 t 0).toNat 7
def kSrcLocal (t : BitVec 512) : Bool := bit (word512 t 0).toNat 6
def kKind (t : BitVec 512) : Nat := bits (word512 t 0).toNat 0 2
def kLen (t : BitVec 512) : Nat := bits (word512 t 4).toNat 32 32
def kPatience (t : BitVec 512) : Nat := bits (word512 t 6).toNat 0 16 * 1024

/-- Offset or address of a buffer, PARAM added. -/
def kOff (t : BitVec 512) (word : Nat) (param : Int) : Nat := (((word512 t word).toInt + param) % (2 ^ 64 : Nat)).toNat

/-- Bytes of n elements, and the byte at which element e begins. -/
def fmtBytes (f : Fmt) (n : Nat) : Nat := if f = .tri5 then ceilDiv n 5 else ceilDiv (n * Fmt.width f) 8
def fmtByte (f : Fmt) (e : Nat) : Nat := if f = .tri5 then e / 5 else e * Fmt.width f / 8

/-! ## The values (R316-R318) -/

/-- b(c): the first element of chunk c of n. -/
def chunkStart (f : Fmt) (len n c : Nat) : Nat :=
  let g := if f = .tri5 then 320 else 64
  if c < n then c * len / n / g * g else len

/-- The elements of chunk c. -/
def chunkSize (t : BitVec 512) (n c : Nat) : Nat := chunkStart (kFmt t) (kLen t) n (c + 1) - chunkStart (kFmt t) (kLen t) n c

/-- a ⊕ b (R318). -/
def collAdd (t : BitVec 512) (a b : Val) : Val :=
  let s := roundFp32 .rne (a.add .rne b)
  if kRequant t then decodeVal (kFmt t) (convertD .fp32 (kFmt t) s.toNat .rne (kOv t)) else fp32 s

/-- The bytes of chunk c in a buffer of the template's elements. -/
def chunkBytes (t : BitVec 512) (n c : Nat) (l : List Byte) : List Byte :=
  let f := kFmt t
  let lo := fmtByte f (chunkStart f (kLen t) n c)
  (l.drop lo).take (fmtBytes f (chunkStart f (kLen t) n (c + 1)) - lo)

/-- The form in which a sum of a number of members is sent: one member's own element and a requantized sum in FMT, an FP32 sum as FP32. -/
def sumFmt (t : BitVec 512) (members : Nat) : Fmt := if members = 1 || kRequant t then kFmt t else .fp32

/-- The codes of consecutive elements of whole bytes. -/
def codesOf (f : Fmt) (l : List Byte) : List Nat := unpackNat (8 * elemBytes f) (l.length / elemBytes f) (leNat l)

/-- The code of a sum in the form in which it is sent. -/
def sumCode (t : BitVec 512) (v : Val) : Nat :=
  let s := (roundFp32 .rne v).toNat
  if kRequant t then convertD .fp32 (kFmt t) s .rne (kOv t) else s

/-- The sum of two parts of m and of n members, element by element. -/
def addParts (t : BitVec 512) (a : List Byte) (m : Nat) (b : List Byte) (n : Nat) : List Byte :=
  let fa := sumFmt t m
  let fb := sumFmt t n
  ((codesOf fa a).zip (codesOf fb b)).flatMap fun x => leBytes (elemBytes (sumFmt t 2)) (sumCode t (collAdd t (decodeVal fa x.1) (decodeVal fb x.2)))

/-- The final rounding into FMT of the sum of all members (R317). -/
def finalOf (t : BitVec 512) (l : List Byte) : List Byte :=
  let f := kFmt t
  (codesOf (sumFmt t 2) l).flatMap fun x => leBytes (elemBytes f) (convertD .fp32 f (roundFp32 .rne (decodeVal (sumFmt t 2) x)).toNat .rne (kOv t))

/-! ### What travels along the ring (R319) -/

/-- The truss over a number of members splits at the largest power of two below it (R72). -/
def trussSplit (n : Nat) : Nat := (List.range 8).foldl (fun h k => if 2 ^ k < n then 2 ^ k else h) 1

/-- The left parts of a truss over members `lo` to `lo + n - 1`, each with its first rank, its members, and the rank that needs it: the last of the
part that it is added into. Those of lower parts come first. -/
def trussLefts : Nat → Nat → Nat → List (Nat × Nat × Nat)
  | 0, _, _ => []
  | fuel + 1, lo, n =>
    if n ≤ 1 then []
    else
      let h := trussSplit n
      trussLefts fuel lo h ++ trussLefts fuel (lo + h) (n - h) ++ [(lo, h, lo + n - 1)]

/-- The items that a rank sends to its successor, in order; those of empty chunks are skipped. RINGSEQ adds to a chunk's sum from rank c + 1 round to its
owner; TRUSS forms a part at its last member. Final values go round from where they are formed to the members that write them. -/
def ringItems (t : BitVec 512) (n rank : Nat) : List CollItem :=
  let back (s : Nat) : Nat := (rank + n - s) % n
  let chunks := (List.range n).filter fun c => chunkSize t n c != 0
  let full (l : List Nat) : List Nat := l.filter fun c => chunkSize t n c != 0
  let hops := List.range (n - 1)
  match kKind t with
  | 3 => [.whole rank]
  | 2 => (full (hops.map back)).map .piece
  | kind =>
    if kTruss t then
      let lefts := (trussLefts 9 0 n).filter fun x => decide (x.1 + x.2.1 ≤ rank + 1) && decide (rank < x.2.2)
      let finals := chunks.filter fun c => if kind = 0 then rank != n - 2 else c != n - 1 && (rank == n - 1 || decide (rank < c))
      (chunks.flatMap fun c => lefts.map fun x => CollItem.part c x.1 x.2.1) ++ finals.map .final
    else
      (hops.filterMap fun s => if chunkSize t n (back (s + 1)) = 0 then none else some (CollItem.part (back (s + 1)) (back s) (s + 1)))
        ++ (if kind = 0 then (full (hops.map back)).map .final else [])

/-- The bytes that an item takes. -/
def CollItem.bytes (t : BitVec 512) (n : Nat) : CollItem → Nat
  | .part c _ m => chunkSize t n c * elemBytes (sumFmt t m)
  | .final c => chunkSize t n c * elemBytes (kFmt t)
  | .piece c => fmtBytes (kFmt t) (chunkStart (kFmt t) (kLen t) n (c + 1)) - fmtByte (kFmt t) (chunkStart (kFmt t) (kLen t) n c)
  | .whole _ => fmtBytes (kFmt t) (kLen t)

/-- The element format that its messages name. -/
def CollItem.fmt (t : BitVec 512) : CollItem → Fmt
  | .part _ _ m => sumFmt t m
  | .final _ | .piece _ | .whole _ => kFmt t

/-! ### What a member has -/

def CollRun.n (r : CollRun) : Nat := r.members.length
def CollRun.received (r : CollRun) (i : CollItem) : Option (List Byte) := (r.vals.find? fun x => x.1 == i).map (·.2)

/-- The sum of members `lo` to `lo + m - 1` of chunk c, when the member has received it or can form it. -/
def CollRun.sum (t : BitVec 512) (r : CollRun) (c : Nat) : Nat → Nat → Nat → Option (List Byte)
  | 0, _, _ => none
  | fuel + 1, lo, m =>
    match r.received (.part c lo m) with
    | some v => some v
    | none =>
      if m = 1 then (if lo = r.rank then some (chunkBytes t r.n c r.src) else none)
      else if (lo + m - 1) % r.n != r.rank then none
      else
        let h := if kTruss t then trussSplit m else m - 1
        match CollRun.sum t r c fuel lo h, CollRun.sum t r c fuel ((lo + h) % r.n) (m - h) with
        | some a, some b => some (addParts t a h b (m - h))
        | _, _ => none

/-- The final value of chunk c. -/
def CollRun.final (t : BitVec 512) (r : CollRun) (c : Nat) : Option (List Byte) :=
  match r.received (.final c) with
  | some v => some v
  | none => (CollRun.sum t r c 10 (if kTruss t then 0 else (c + 1) % r.n) r.n).map (finalOf t)

/-- The bytes of an item, once the member has it. -/
def CollRun.item (t : BitVec 512) (r : CollRun) : CollItem → Option (List Byte)
  | .part c lo m => CollRun.sum t r c 10 lo m
  | .final c => CollRun.final t r c
  | .piece c => if c = r.rank then some (chunkBytes t r.n c r.src) else r.received (.piece c)
  | .whole q => if q = r.rank then some r.src else r.received (.whole q)

/-- The bytes that the member's destination receives, once it has all of them (R317). -/
def CollRun.result (t : BitVec 512) (r : CollRun) : Option (List Byte) :=
  let chunks := (List.range r.n).filter fun c => chunkSize t r.n c != 0
  let all (f : Nat → Option (List Byte)) (l : List Nat) : Option (List Byte) := (l.mapM f).map List.flatten
  match kKind t with
  | 0 => all (CollRun.final t r) chunks
  | 1 => all (CollRun.final t r) (chunks.filter (· == r.rank))
  | 2 => all (fun c => CollRun.item t r (.piece c)) chunks
  | _ => CollRun.item t r (.whole ((r.rank + r.n - 1) % r.n))

/-- The items that the predecessor sends. -/
def CollRun.expected (t : BitVec 512) (r : CollRun) : List CollItem := ringItems t r.n ((r.rank + r.n - 1) % r.n)

/-! ## The running collective -/

def State.collT (s : State) (r : CollRun) : BitVec 512 := s.collTemplate r.core r.tmpl
/-- CSTEP without its step: template and ordinal (R440). -/
def CollRun.key (r : CollRun) : Nat := r.tmpl * 2 ^ 40 + r.ordinal.toNat
def CollRun.cstep (r : CollRun) (step : Nat) : Word := BitVec.ofNat 64 (r.key * 2 ^ 16 + step % 2 ^ 16)
def State.setRun (s : State) (r : CollRun) : State := { s with coll := { s.coll with run := some r } }

/-- Messages of at most 64 payload flits. -/
def collPieces : Nat → List Byte → List (List Byte)
  | 0, _ => []
  | n + 1, l => if l.isEmpty then [] else l.take 4096 :: collPieces n (l.drop 4096)

/-- A message of the engine enters the circuit to the successor, 2 lc from the hub (R305); its ordinal there. -/
def State.postEngine (s : State) (m : Message) : State × BitVec 16 :=
  let o := ((s.circuitOf m.circ).map (·.sentOrd)).getD 0
  let lc := (s.routerAt hub).lc
  let flits := (messageFlits m).map fun f => (({ f with order := s.nextId, arrive := lc + 2 } : Flit), ([] : List Dep))
  ({ s.updCircuit m.circ (fun c => { c with out := c.out ++ flits, sentOrd := c.sentOrd + 1 }) with nextId := s.nextId + 1 }, o)

/-- An item is sent: each message with its step, which is its number on the ring link. -/
def State.sendPieces (s : State) (r : CollRun) (circ fmt : Nat) : List (List Byte) → State × CollRun
  | [] => (s, r)
  | p :: rest =>
    let n := ceilDiv p.length 64
    let step := r.stepOut + 1
    let m : Message :=
      { circ := circ, stamp := BitVec.ofNat 64 step, kind := 2, len := n, fmt := fmt, sdev := s.deviceId.toNat, stask := 0x1FF, cstep := r.cstep step, payload := payloads n p }
    let x := s.postEngine m
    State.sendPieces x.1 { r with sent := r.sent ++ [(x.2, s.clk)], stepOut := step } circ fmt rest

/-- The items that the member has, up to the first that it lacks, go to the successor in their order. -/
def State.sendItems : Nat → State → CollRun → State × CollRun
  | 0, s, r => (s, r)
  | fuel + 1, s, r =>
    let t := s.collT r
    match (ringItems t r.n r.rank)[r.itemsOut]? with
    | none => (s, r)
    | some i =>
      match CollRun.item t r i with
      | none => (s, r)
      | some b =>
        let x := s.sendPieces { r with itemsOut := r.itemsOut + 1 } (kSucc t) (fmtCode (i.fmt t)) (collPieces b.length b)
        State.sendItems fuel x.1 x.2

def State.sendReady (s : State) (r : CollRun) : State × CollRun := State.sendItems ((ringItems (s.collT r) r.n r.rank).length + 1) s r

/-! ## Local buffers (R321) -/

/-- What the units of a local buffer come to. -/
inductive UnitsOut where
  | done | wait
  | fail (addr : Nat)
  deriving DecidableEq, Repr

/-- Units of [base, base + n) while their tiles are handed over; a source's bytes are collected, a destination's taken from `data`. -/
def State.collUnits (base n : Nat) (out : Bool) (fmt : Nat) (data : List Byte) : Nat → State → CollRun → State × CollRun × UnitsOut
  | 0, s, r => (s, r, .done)
  | fuel + 1, s, r =>
    let b := base / 64 + r.unit
    let lo := max base (64 * b)
    let hi := min (base + n) (64 * b + 64)
    if base + n ≤ lo then (s, r, .done)
    else
      let tile := b / 64
      let x := (s.core r.core).tile tile
      let given := r.givenAt.find? fun p => p.1 == tile
      if x.engine && x.dir == out && given.all (fun p => p.2 == x.giveLc) then
        match (if out then (s.core r.core).badScratch lo (hi - lo) else none) with
        | some w => (s, r, .fail w)
        | none =>
          let got := if out then (s.core r.core).readBytes lo (hi - lo) else []
          let s := s.updCore r.core fun c => c.setLent tile (x.offer (!out) fmt).1
          let s := if out then s else s.updCore r.core fun c => (c.clearBadScratch lo (hi - lo)).writeAt (c.tile tile).giveLc 0 lo ((data.drop (lo - base)).take (hi - lo))
          let r := if given.isSome then r else { r with tiles := r.tiles ++ [(tile, out)], givenAt := r.givenAt ++ [(tile, x.giveLc)] }
          State.collUnits base n out fmt data fuel s { r with unit := r.unit + 1, part := r.part ++ got }
      else if given.isSome then (s.updCore r.core fun c => c.setLent tile (x.offer (!out) fmt).1, r, .fail (4096 * tile))
      else (s, r, .wait)

/-! ## Failure and aborts (R440-R443) -/

/-- INFO1 of a collective's record, and word 1 of an abort flit. -/
def collInfo (tmpl osub suspect origin : Nat) : Nat := tmpl * 2 ^ 56 + osub * 2 ^ 48 + suspect * 2 ^ 32 + origin * 2 ^ 16
def Abort.word (a : Abort) : Nat := a.suspect.toNat * 2 ^ 32 + a.origin.toNat * 2 ^ 16 + a.sub.toNat
def Abort.key (a : Abort) : Nat := a.cstep.toNat / 2 ^ 16

/-- A flit of type 8 leaves by a link, ahead of what waits but behind a replay and older ones of its kind; the 512 places of the retry buffer bound it too
(R308, R424, R442). -/
def State.abortFlit (s : State) (j : Nat) (f : Flit) : State :=
  let j := s.carrier j
  let l := s.link j
  if l.state == .up && decide (l.retry.length < 512) && l.replayFrom.isNone && !(l.backlog.head?.any fun x => !x.paid) then s.linkSend j f
  else s.updLink j fun l => { l with backlog := l.backlog.takeWhile (fun x => !x.paid) ++ f :: l.backlog.dropWhile fun x => !x.paid }

/-- The links by which a circuit goes on from this device; `from_` is the link by which the flit came. -/
def State.linksOnward (s : State) (circ : Nat) (from_ : Option Nat) : List Nat :=
  match s.circuitOf circ with
  | none => []
  | some c =>
    let l := (List.range 12).filter fun j => c.links.getLsbD j
    match from_ with
    | none => l
    | some j => l.filter fun i => i != (if l.contains j then j else sibling j)

/-- An abort goes to the successor on a template's SUCC, and to the scribe. -/
def State.sendAbort (s : State) (a : Abort) : State :=
  match s.lastImage with
  | none => s
  | some im =>
    let circ := kSucc (im.collT.getD (bits a.cstep.toNat 56 8) 0)
    let f : Flit := { type := 8, circ := circ, data := payloadOf [a.cstep.toNat, a.word, im.domtag.toNat] }
    let s := s.scribe1 5 a.sub.toNat 0x1FF 0 (BitVec.ofNat 64 a.word)
    (s.linksOnward circ none).foldl (fun s j => s.abortFlit j f) s

/-- The engine remembers an abort of a collective until the next LAUNCH. -/
def State.rememberAbort (s : State) (a : Abort) : State := { s with coll := { s.coll with aborts := s.coll.aborts ++ [a] } }

/-- The tiles handed over for a collective that have not come back; one that the task has given again since has (R321). -/
def State.tilesOut (s : State) (r : CollRun) : List (Nat × Bool) :=
  r.tiles.filter fun p =>
    let x := (s.core r.core).tile p.1
    x.engine && x.dir == p.2 && r.givenAt.contains (p.1, x.giveLc)

/-- A collective fails on this device: its command's channel, its place in the engine, and an abort flit unless it was told by one. -/
def State.collFail (s : State) (r : CollRun) (sub : Nat) (a : Abort) (addr : Nat) (inTable : Bool) : State :=
  match s.cmdOf r.cmd with
  | none => s
  | some c =>
    let t : Trap := { cause := 0x60, sub := sub, addr := BitVec.ofNat 64 addr, info1 := BitVec.ofNat 64 (collInfo r.tmpl a.sub.toNat a.suspect.toNat a.origin.toNat) }
    let s := s.failCmd c t (s.tilesOut r)
    let s : State := { s with coll := { s.coll with
      run := if (s.coll.run.map (·.cmd)) = some r.cmd then none else s.coll.run
      queue := s.coll.queue.filter fun x => x.cmd != r.cmd } }
    if sub = 6 then s
    else
      let s := s.rememberAbort a
      if inTable then s.sendAbort a else s

/-- A failure that this device detects; 0x1FFF suspects no device. -/
def State.localAbort (s : State) (r : CollRun) (sub suspect : Nat) : Abort :=
  { cstep := r.cstep (r.step + 1), suspect := BitVec.ofNat 13 suspect, origin := s.deviceId, sub := BitVec.ofNat 8 sub }

def State.collFails (s : State) (r : CollRun) (sub suspect addr : Nat) : State := s.collFail r sub (s.localAbort r sub suspect) addr true

/-! ## The engine goes on (R320, R321) -/

/-- Messages of the circuit that have been sent and not confirmed. -/
def State.unconfirmed (s : State) (circ : Nat) (o : BitVec 16) : Bool :=
  (s.store.any fun x => x.circ == circ && x.ordinal == o) ||
    match s.circuitOf circ with
    | some c => decide ((c.sentOrd - o).toNat ≤ (c.out.filter fun x => x.1.type == 1).length)
    | none => false

/-- The rest of the command's condition: tiles and confirmations. -/
def State.tilesBack (s : State) (r : CollRun) : Bool := (s.tilesOut r).isEmpty
def State.allConfirmed (s : State) (r : CollRun) : Bool := r.sent.all fun x => !s.unconfirmed (kSucc (s.collT r)) x.1

/-- The engine reads n bytes at an address. -/
def State.collLoad (s : State) (k va n : Nat) : Eng (List Byte) := s.engLoad srcFabric collEnginePort collCluster (s.slotOfCore k) va n false

/-- The engine awaits a page of host space or its port's turn, or fails. -/
def State.collErr (s : State) (r : CollRun) : EngErr → Option State
  | .wait va => if (s.cmdOf r.cmd).any fun c => c.awaits == some va then none else some (s.updCmd r.cmd fun c => { c with awaits := some va })
  | .turn => none
  | .fail _ addr _ => some (s.collFails r 7 0x1FFF addr)

/-- The units of a local buffer, from where the engine stands. -/
def State.localPart (s : State) (r : CollRun) (base n : Nat) (out : Bool) (data : List Byte) : State × CollRun × UnitsOut :=
  if scratchTop < base + n then (s, r, .fail base) else State.collUnits base n out (fmtCode (kFmt (s.collT r))) data (n / 64 + 2) s r

/-- The source has been read: what the member can send leaves, and the wait for the predecessor begins. -/
def State.sourceDone (s : State) (r : CollRun) (l : List Byte) : State :=
  let x := s.sendReady { r with src := l, part := [], unit := 0, stage := .ring, waitFrom := s.clk }
  x.1.setRun x.2

def State.collSource (s : State) (r : CollRun) : Option State :=
  let t := s.collT r
  let n := fmtBytes (kFmt t) (kLen t)
  let off := kOff t 2 r.param
  if kSrcLocal t then
    match s.localPart r off n true [] with
    | (s2, r2, .done) => some (s2.sourceDone r2 r2.part)
    | (s2, r2, .wait) => if r2 = r then none else some (s2.setRun { r2 with waitFrom := s.clk })
    | (s2, r2, .fail a) => some (s2.collFails r2 7 0x1FFF a)
  else
    match s.engHandle collCluster (s.slotOfCore r.core) (bits (word512 t 1).toNat 0 32) off 2 with
    | .error e => s.collErr r e
    | .ok va =>
      match s.collLoad r.core va n with
      | (s2, .error e) => s2.collErr r e
      | (s2, .ok l) => some (s2.sourceDone r l)

def State.destDone (s : State) (r : CollRun) : State := s.setRun { r with stage := .finish, waitFrom := s.clk }

def State.collDest (s : State) (r : CollRun) : Option State :=
  let t := s.collT r
  let data := (CollRun.result t r).getD []
  let off := kOff t 3 r.param
  if kDstLocal t then
    match s.localPart r off data.length false data with
    | (s2, r2, .done) => some (s2.destDone r2)
    | (s2, r2, .wait) => if r2 = r then none else some (s2.setRun { r2 with waitFrom := s.clk })
    | (s2, r2, .fail a) => some (s2.collFails r2 7 0x1FFF a)
  else
    match s.engHandle collCluster (s.slotOfCore r.core) (bits (word512 t 1).toNat 32 32) off 2 with
    | .error e => s.collErr r e
    | .ok va =>
      match s.engWrite srcFabric r.cmd collEnginePort collCluster (s.slotOfCore r.core) va data with
      | (s2, .error e) => s2.collErr r e
      | (s2, .ok _) => some (s2.destDone r)

/-- The handles of buffers in device memory: `sub` is 1 at acceptance and 2 later. -/
def State.bufferHandles (s : State) (r : CollRun) (sub : Nat) : Except EngErr Unit :=
  let t := s.collT r
  let slot := s.slotOfCore r.core
  let h (isLocal : Bool) (hd off : Nat) : Except EngErr Unit :=
    if isLocal then .ok () else (s.engHandle collCluster slot hd off sub).map fun _ => ()
  firstErr [h (kSrcLocal t) (bits (word512 t 1).toNat 0 32) (kOff t 2 r.param), h (kDstLocal t) (bits (word512 t 1).toNat 32 32) (kOff t 3 r.param)]

/-- One thing that the engine can do now; none while it waits. A handle that is revoked while the collective runs fails it (R410, R440). -/
def State.collOne (s : State) : Option State :=
  match s.coll.run with
  | none =>
    match s.coll.queue with
    | [] => none
    | r :: q => some { s with coll := { s.coll with run := some { r with waitFrom := s.clk }, queue := q } }
  | some r =>
    match s.bufferHandles r 2 with
    | .error e => s.collErr r e
    | .ok _ =>
    match r.stage with
    | .source => s.collSource r
    | .ring => if (CollRun.expected (s.collT r) r).length ≤ r.vals.length then some (s.setRun { r with stage := .dest, waitFrom := s.clk }) else none
    | .dest => s.collDest r
    | .finish =>
      if s.tilesBack r && s.allConfirmed r then
        match s.cmdOf r.cmd with
        | some c => some ({ s with coll := { s.coll with run := none } }.completeCmd c)
        | none => some { s with coll := { s.coll with run := none } }
      else none

def State.collFuel : Nat → State → State
  | 0, s => s
  | n + 1, s =>
    match s.collOne with
    | some s => State.collFuel n s
    | none => s

/-- The node has stopped: the collective that runs fails (R440 sub-cause 0x08). Those that the engine has accepted and not started do nothing (R367, R406). -/
def State.collStop (s : State) : State :=
  let waits := s.coll.queue.map (·.cmd)
  let s : State := match s.coll.run with
    | some r => s.collFails r 8 0x1FFF 0
    | none => s
  { s with
    cmds := s.cmds.map fun c => if waits.contains c.id then { c with st := .cancelled, awaits := none } else c
    coll := { s.coll with queue := [] } }

/-- The engine does what it can. -/
def State.collGo (s : State) : State := if s.stopping then s.collStop else State.collFuel (8 * (s.coll.queue.length + 2)) s

/-! ## Acceptance (R444) -/

/-- The member table's ids. -/
def State.memberTable (s : State) (k : Nat) (t : BitVec 512) : Eng (List Nat) :=
  engThen (s, s.engHandle collCluster (s.slotOfCore k) (bits (word512 t 4).toNat 0 32) (word512 t 5).toNat 1) fun s va =>
    engThen (s.collLoad k va (2 * kMembers t)) fun s l => (s, .ok (unpackNat 16 (kMembers t) (leNat l)))

/-- A list holds a number twice. -/
def hasDup : List Nat → Bool
  | [] => false
  | x :: r => r.contains x || hasDup r

/-- An accepted command is judged, and joins the queue. -/
def State.collJudge (s : State) (r : CollRun) : State :=
  if !r.members.contains s.deviceId.toNat then s.collFail r 5 (s.localAbort r 5 0x1FFF) 0 false
  else if hasDup r.members || r.members.any (6143 < ·) then s.collFails r 5 0x1FFF 0
  else
    match s.coll.aborts.find? fun a => a.key == r.key with
    | some a => s.collFail r 6 a 0 true
    | none =>
      match s.bufferHandles r 1 with
      | .error (.fail _ addr _) => s.collFails r 7 0x1FFF addr
      | _ => { s with coll := { s.coll with queue := s.coll.queue ++ [r] } }

/-- COLL_ACCEPT: the core's next collective is accepted; with none, the engine goes on with what a GIVE has let it do. Commands accepted in one clk are accepted
in ascending task index: one that another task's acceptance has left behind waits for the next clk (R320). -/
def State.collAccept (s : State) (k : Nat) : State :=
  match (if s.coll.accepted.1 = s.clk && k < s.coll.accepted.2 then none else s.nextCmd k (fun c => c.kind.engine == 1)) with
  | none => s.collGo
  | some c =>
    match c.kind with
    | .coll n param =>
      let t := s.collTemplate k n
      let m := s.memberTable k t
      let s0 := s
      let s := m.1
      let r (l : List Nat) : CollRun := { cmd := c.id, core := k, tmpl := n, param := param, ordinal := s.coll.next, members := l, rank := l.findIdx (· == s.deviceId.toNat) }
      let take (s : State) : State := { s.acceptCmd c .coll with coll := { s.coll with next := s.coll.next + 1, accepted := (s.clk, k) } }
      match m.2 with
      | .error (.wait va) => s.updCmd c.id fun x => { x with awaits := some va }
      | .error .turn => s0
      | .error (.fail _ _ _) => ((take s).collFail (r []) 5 (s.localAbort (r []) 5 0x1FFF) 0 false).collGo
      | .ok l => ((take s).collJudge (r l)).collGo
    | _ => s
def execCollAccept (core : Nat) (s : State) : Host.Outcome State Fault Refusal := .next (s.collAccept core)

/-! ## Messages (R319, R440, R443) -/

/-- The message that stands first on a circuit to this engine. -/
def State.collHead (s : State) (circ : Nat) : Option Message :=
  match s.circuitOf circ with
  | some c =>
    if c.rhere && c.rtask == 0x1FF then
      match c.rx.head? with
      | some (.ready m) => some m
      | _ => none
    else none
  | none => none

def State.dropHead (s : State) (circ : Nat) : State := s.updCircuit circ fun c => { c with rx := c.rx.tail }

/-- A message belongs to a collective that was aborted here. -/
def State.collDead (s : State) (m : Message) : Bool := s.coll.aborts.any fun a => a.key == m.cstep.toNat / 2 ^ 16

/-- A message of the collective under way is taken: it is part of the item that the predecessor sends next. -/
def State.takeMessage (s : State) (r : CollRun) (m : Message) : State :=
  let t := s.collT r
  match (CollRun.expected t r)[r.vals.length]? with
  | none => s.collFails r 4 0x1FFF 0
  | some i =>
    if m.cstep != r.cstep (r.step + 1) then s.collFails r 4 0x1FFF 0
    else
      let n := i.bytes t r.n
      let part := r.part ++ m.payload.flatMap fun d => leBytes 64 d.toNat
      let r := { r with step := r.step + 1, part := part, waitFrom := s.clk }
      if part.length < n then s.setRun r
      else
        let x := s.sendReady { r with vals := r.vals ++ [(i, part.take n)], part := [] }
        x.1.setRun x.2

/-- COLL_MESSAGE_RECEIVED. -/
def State.collMessage (s : State) : State :=
  match s.circuits.find? (fun c => (s.collHead c.id).any s.collDead) with
  | some c => (s.dropHead c.id).collGo
  | none =>
    match s.coll.run with
    | none => s
    | some r =>
      let circ := kPred (s.collT r)
      match r.stage, s.collHead circ with
      | .ring, some m => ((s.dropHead circ).takeMessage r m).collGo
      | _, _ => s
def execCollMessageReceived (s : State) : Host.Outcome State Fault Refusal := .next s.collMessage

/-- DELIVERY_CONFIRMATION_RECEIVED: the message's places in the store are free; the collective that waited for it may be complete. -/
def execDeliveryConfirmationReceived (circ : Nat) (s : State) : Host.Outcome State Fault Refusal := .next (s.confirmed circ).collGo

/-! ## Patience and abort flits (R440, R442) -/

/-- The sub-cause and the suspected device of the wait of the engine's stage; none for a wait that patience does not bound. -/
def State.collLate (s : State) (r : CollRun) : Option (Nat × Nat) :=
  let n := r.members.length
  match r.stage with
  | .source => if kSrcLocal (s.collT r) then some (3, 0x1FFF) else none
  | .ring => some (1, r.members.getD ((r.rank + n - 1) % n) 0x1FFF)
  | .dest => if kDstLocal (s.collT r) then some (3, 0x1FFF) else none
  | .finish => if s.tilesBack r then none else some (3, 0x1FFF)

/-- A message for the wait has arrived in the clock of the bound. -/
def State.collSaved (s : State) (r : CollRun) : Bool := r.stage == .ring && (s.collHead (kPred (s.collT r))).isSome

/-- The waits of a collective, each with the clock at which it began: that of its stage, and that for the successor's confirmation of the oldest message that
lacks it (R440). -/
def State.collWaits (s : State) (r : CollRun) : List (Nat × Nat × Nat) :=
  ((if s.collSaved r then none else s.collLate r).map fun x => (r.waitFrom, x)).toList
    ++ ((r.sent.find? fun x => s.unconfirmed (kSucc (s.collT r)) x.1).map fun x => (x.2, 2, r.members.getD ((r.rank + 1) % r.n) 0x1FFF)).toList

/-- COLL_PATIENCE_EXPIRY: of the waits that have reached their bound, the one that began first ends the collective. -/
def State.collExpire (s : State) : State :=
  let s := s.collGo
  match s.coll.run with
  | none => s
  | some r =>
    match (s.collWaits r).filter fun x => decide (x.1 + kPatience (s.collT r) ≤ s.clk) with
    | [] => s
    | x :: l =>
      let first := l.foldl (fun a b => if b.1 < a.1 then b else a) x
      (s.collFails r first.2.1 first.2.2 0).collGo
def execCollPatienceExpiry (s : State) : Host.Outcome State Fault Refusal := .next s.collExpire

/-- An abort flit's fields. -/
def abortOf (d : BitVec 512) : Abort :=
  let w := (word512 d 1).toNat
  { cstep := word512 d 0, suspect := BitVec.ofNat 13 (bits w 32 13), origin := BitVec.ofNat 13 (bits w 16 13), sub := BitVec.ofNat 8 w }

/-- The engine judges an abort flit that ends here. -/
def State.judgeAbort (s : State) (d : BitVec 512) : State :=
  let a := abortOf d
  if some (word512 d 2) != s.lastImage.map (·.domtag) then s
  else
    let seen := s.coll.aborts.any fun x => x.key == a.key && x.origin == a.origin
    let s := if seen then s.scribe1 5 a.sub.toNat 0x1FF 0 (BitVec.ofNat 64 a.word) else (s.sendAbort a).rememberAbort a
    let hit := (s.coll.run.toList ++ s.coll.queue).filter fun r => r.key == a.key
    (hit.foldl (fun s r => s.collFail r 6 a 0 true) s).collGo

/-- ABORT_FLIT_RECEIVED: a hub on the circuit's route sends it on; the engine at the circuit's end judges it. -/
def State.abortReceived (s : State) : State :=
  match s.abortIn with
  | [] => s
  | (j, circ, d) :: rest =>
    let s : State := { s with abortIn := rest }
    match s.circuitOf circ with
    | some c =>
      if c.rhere then (if c.rtask = 0x1FF then s.judgeAbort d else s)
      else
        let f : Flit := { type := 8, circ := circ, data := d }
        let s := s.scribe1 5 (abortOf d).sub.toNat 0x1FF 0 (BitVec.ofNat 64 (abortOf d).word)
        (s.linksOnward circ (some j)).foldl (fun s i => s.abortFlit i f) s
    | none => s
def execAbortFlitReceived (s : State) : Host.Outcome State Fault Refusal := .next s.abortReceived

end Sys2Proof.Machine
end

