-- ==== Sys2Proof/Machine/CopySteps.lean ====
section
/-! DEFINITION. The cluster copy engine: acceptance and its judgement, the transfer chunk by chunk, follow-on commands (R60, R61, R83, R89,
R221-R224, R390, R406-R413). -/

namespace Sys2Proof.Machine

/-! ## The template (R222) -/

def tField (t : BitVec 512) (word lo w : Nat) : Nat := bits (word512 t word).toNat lo w
def tBit (t : BitVec 512) (lo : Nat) : Bool := bit (word512 t 0).toNat lo

/-- The count of dimension i, 1 to 3; 1 where it is not used. -/
def tCount (t : BitVec 512) (i : Nat) : Nat := if i ≤ tField t 0 2 2 then tField t 4 (16 * i) 16 else 1
/-- The strides of dimension i at the source and at the destination. -/
def tSrcStride (t : BitVec 512) (i : Nat) : Int := toSigned 32 (tField t (4 + i) 0 32)
def tDstStride (t : BitVec 512) (i : Nat) : Int := toSigned 32 (tField t (4 + i) 32 32)
def tC0 (t : BitVec 512) : Nat := tField t 4 0 16
def tRuns (t : BitVec 512) : Nat := if tC0 t = 0 then 0 else tCount t 1 * tCount t 2 * tCount t 3
def tSrcLocal (t : BitVec 512) : Bool := tBit t 0
def tDstLocal (t : BitVec 512) : Bool := tBit t 1
def tConv (t : BitVec 512) : Bool := tBit t 8
def tDfmt (t : BitVec 512) : Fmt := fmtOfCode (tField t 0 4 4)
def tRm (t : BitVec 512) : RM := RM.ofCode (tField t 0 9 2)
def tOv (t : BitVec 512) : OV :=
  match tField t 0 11 2 with
  | 0 => .sat
  | 1 => .inf
  | 2 => .nan
  | _ => .trap

/-- The place of run r in a pattern: i1 fastest. -/
def runAt (t : BitVec 512) (base : Int) (stride : Nat → Int) (r : Nat) : Int :=
  base + (r % tCount t 1 : Nat) * stride 1 + (r / tCount t 1 % tCount t 2 : Nat) * stride 2 + (r / (tCount t 1 * tCount t 2) : Nat) * stride 3

/-- The source offset or address of the first byte of run r, and the destination's. -/
def srcRun (t : BitVec 512) (param : Int) (r : Nat) : Int := runAt t ((word512 t 1).toInt + param) (tSrcStride t) r
def dstRun (t : BitVec 512) (r : Nat) : Int := runAt t (word512 t 3).toInt (tDstStride t) r

/-- Elements of the source that one byte holds, and bytes that one element takes. -/
def srcByte (f : Fmt) (conv : Bool) (e : Nat) : Nat := if conv then e / perByte f * elemBytes f else e

/-- Bytes of C0 source elements; none when they are no whole number. -/
def sourceBytes (f : Fmt) (c0 : Nat) : Option Nat :=
  if f = .tri5 then (if c0 % 5 = 0 then some (c0 / 5) else none)
  else if c0 * Fmt.width f % 8 = 0 then some (c0 * Fmt.width f / 8) else none

/-- What one run moves: elements to convert, or bytes. -/
def runItems (t : BitVec 512) (f : Fmt) : Nat := if tConv t then tC0 t else (sourceBytes f (tC0 t)).getD 0
/-- Destination bytes of one item. -/
def itemBytes (t : BitVec 512) : Nat := if tConv t then elemBytes (tDfmt t) else 1

/-- R83's source_format. -/
def returnFmt (t : BitVec 512) (f : Fmt) : Nat := if tConv t then fmtCode (tDfmt t) else fmtCode f

/-! ## Judgement at acceptance (R409) -/

def taperedFmt (f : Fmt) : Bool :=
  match f with
  | .tap32 | .tap16 | .tap8 => true
  | _ => false

/-- Sub-cause 0x07 on the template's own fields. -/
def templateBad (t : BitVec 512) (inc : Nat) : Bool :=
  tField t 0 60 4 != 0 || decide (56 < tField t 0 27 6) || tField t 0 11 2 == 3 || inc == 0
    || (tSrcLocal t && tField t 2 0 32 != 0) || (tDstLocal t && tField t 2 32 32 != 0)
    || (tConv t && (decide (8 < tField t 0 4 4) || (taperedFmt (tDfmt t) && tField t 0 9 2 != 0)))

/-- A local run breaks its alignment or leaves the populated scratchpad. -/
def localBad (t : BitVec 512) (run : Nat → Int) (stride : Nat → Int) (n align : Nat) : Bool :=
  (List.range (tRuns t)).any (fun r => decide (run r < 0) || decide ((scratchTop : Int) < run r + n))
    || (tRuns t != 0 && (run 0 % (align : Int) != 0 || [1, 2, 3].any fun i => decide (1 < tCount t i) && stride i % (align : Int) != 0))

/-- One tile's use grows by n bytes. -/
def addUse (tile : Nat) (out : Bool) (n : Nat) : List TileUse → List TileUse
  | [] => [{ tile := tile, out := out, left := n }]
  | u :: r => if u.tile = tile ∧ u.out = out then { u with left := u.left + n } :: r else u :: addUse tile out n r

/-- Bytes of [a, a + n) that lie in a tile. -/
def bytesIn (tile a n : Nat) : Nat := min (a + n) (4096 * tile + 4096) - max a (4096 * tile)

/-- The tiles that runs of n bytes touch. -/
def runUses (t : BitVec 512) (run : Nat → Int) (n : Nat) (out : Bool) (l : List TileUse) : List TileUse :=
  (List.range (tRuns t)).foldl (fun l r =>
    let a := (run r).toNat
    (tilesTouched a n).foldl (fun l x => addUse x out (bytesIn x a n) l) l) l

/-- The lowest tile that the engines do not own in the direction that a use needs. -/
def badUse (c : Core) (l : List TileUse) : Option Nat :=
  l.foldl (fun b u =>
    let x := c.tile u.tile
    if x.engine && x.dir == u.out then b
    else
      match b with
      | some y => some (min y u.tile)
      | none => some u.tile) none

/-- The handles of the template that are not local: first address and word. -/
def State.copyHandles (s : State) (c : Cmd) (t : BitVec 512) (src dst : Int) (sub : Nat) : Except EngErr Unit :=
  let slot := s.slotOfCore c.core
  let h (isLocal : Bool) (hd : Nat) (off : Int) : Except EngErr Unit :=
    if isLocal then .ok () else (s.engHandle c.cluster slot hd (off % (2 ^ 64 : Nat)).toNat sub).map fun _ => ()
  firstErr [h (tSrcLocal t) (tField t 2 0 32) src, h (tDstLocal t) (tField t 2 32 32) dst]

/-- The format of the source: of its tile, or its range's attribute. Of a source that spans tiles of different FMT the spec does not say which counts;
the model takes that of the first run's first tile for the whole transfer (log entry 84). -/
def State.sourceFmt (s : State) (c : Cmd) (t : BitVec 512) (param : Int) : Fmt :=
  if tSrcLocal t then
    let a := (srcRun t param 0).toNat
    if a < scratchTop then (s.core c.core).fmtAt a else .raw32
  else fmtOfCode (s.handleRange c.cluster (s.slotOfCore c.core) (BitVec.ofNat 32 (tField t 2 0 32))).fmt

/-- A template whose own fields and handles are good is judged against its formats and tiles. -/
def State.copyTiles (s : State) (c : Cmd) (n : Nat) (t : BitVec 512) (param : Int) : Except EngErr CopyJob :=
  let f := s.sourceFmt c t param
  match sourceBytes f (tC0 t) with
  | none => .error (.fail 7 0 n)
  | some nb =>
    let de := if tConv t then elemBytes (tDfmt t) else elemBytes f
    if (tSrcLocal t && localBad t (srcRun t param) (tSrcStride t) nb (elemBytes f))
        || (tDstLocal t && localBad t (dstRun t) (tDstStride t) (runItems t f * itemBytes t) de) then .error (.fail 7 0 n)
    else
      let l := if tSrcLocal t then runUses t (srcRun t param) nb true [] else []
      let l := if tDstLocal t then runUses t (dstRun t) (runItems t f * itemBytes t) false l else l
      match badUse (s.core c.core) l with
      | some x => .error (.fail 8 (4096 * x) ((s.core c.core).tile x).word.toNat)
      | none => .ok { fmt := fmtCode f, uses := l }

/-- The command as the engine judges it. -/
def State.judgeCopy (s : State) (c : Cmd) (n : Nat) (param : Int) : Except EngErr CopyJob :=
  let t := s.copyTemplate c.core n
  if templateBad t c.inc then .error (.fail 7 0 n)
  else if tRuns t = 0 then .ok { fmt := 0, uses := [] }
  else
    match s.copyHandles c t (srcRun t param 0) (dstRun t 0) 1 with
    | .error e => .error e
    | .ok _ => s.copyTiles c n t param

/-- The tiles that a failed command still holds: those that its pattern names. -/
def State.patternTiles (s : State) (c : Cmd) (n : Nat) (param : Int) : List (Nat × Bool) :=
  let t := s.copyTemplate c.core n
  let f := s.sourceFmt c t param
  let nb := (sourceBytes f (tC0 t)).getD 0
  let clip (out : Bool) (run : Nat → Int) (n : Nat) : List TileUse := if (List.range (tRuns t)).any fun r => decide (run r < 0) || decide ((scratchTop : Int) < run r + n) then [] else runUses t run n out []
  ((if tSrcLocal t then clip true (srcRun t param) nb else []) ++ (if tDstLocal t then clip false (dstRun t) (runItems t f * itemBytes t) else [])).map
    fun u => (u.tile, u.out)

/-- COPY_COMMAND_ACCEPT: the core's next command is accepted, or fails. -/
def State.copyAccept (s : State) (k : Nat) : State :=
  match s.nextCmd k (fun c => c.kind.engine == 0) with
  | none => s
  | some c =>
    match c.kind with
    | .copy n param =>
      match s.judgeCopy c n param with
      | .ok j => s.acceptCmd c (.copy j)
      | .error e => (s.freePlace c.id).engStop c (s.patternTiles c n param) e
    | _ => s
def execCopyCommandAccept (core : Nat) (s : State) : Host.Outcome State Fault Refusal := .next (s.copyAccept core)

/-! ## Units (R83, R412) -/

/-- The result of a part of a transfer. -/
abbrev CopyPart := Except (EngErr × State × CopyJob) (State × CopyJob)

def CopyJob.useOf (j : CopyJob) (tile : Nat) (out : Bool) : Option TileUse := j.uses.find? fun u => u.tile == tile && u.out == out
def CopyJob.setUse (j : CopyJob) (u : TileUse) : CopyJob :=
  { j with uses := j.uses.map fun x => if x.tile == u.tile && x.out == u.out then u else x }

/-- One unit is offered; a refused one fails the command. -/
def State.copyUnit (s : State) (k : Nat) (j : CopyJob) (u : TileUse) (fmt : Nat) : CopyPart :=
  let r := ((s.core k).tile u.tile).offer (!u.out) fmt
  let s := s.updCore k (·.setLent u.tile r.1)
  if r.2 then .ok (s, j) else .error (.fail 3 (4096 * u.tile) (u.tile * 2 ^ 16 + r.1.expect), s, j)

/-- The transfer comes to a byte of a tile: a run of another block ends, and a new run is judged at its first byte. -/
def State.enterByte (s : State) (k : Nat) (j : CopyJob) (a : Nat) (out : Bool) (fmt : Nat) : CopyPart :=
  match j.useOf (a / 4096) out with
  | none => .ok (s, j)
  | some u =>
    if u.blk = some (a / 64) then .ok (s, j)
    else
      let ended : CopyPart := if u.blk.isSome then s.copyUnit k j u fmt else .ok (s, j)
      match ended with
      | .error e => .error e
      | .ok (s, j) =>
        let x := (s.core k).tile u.tile
        if x.engine && x.dir == u.out && decide (x.arrived < x.expect) then .ok (s, j.setUse { u with blk := some (a / 64) })
        else s.copyUnit k (j.setUse { u with blk := none }) u fmt

/-- n bytes of a tile have been transferred; the last of them ends the run. -/
def State.leaveBytes (s : State) (k : Nat) (j : CopyJob) (a n : Nat) (out : Bool) (fmt : Nat) : CopyPart :=
  match j.useOf (a / 4096) out with
  | none => .ok (s, j)
  | some u =>
    let left := u.left - n
    let j := j.setUse { u with left := left, blk := if left = 0 then none else u.blk }
    if left = 0 then s.copyUnit k j u fmt else .ok (s, j)

/-! ## The transfer (R223, R411) -/

/-- The address of an item at the source and at the destination: local, or of the device. -/
def State.copySrc (s : State) (c : Cmd) (t : BitVec 512) (param : Int) (j : CopyJob) : Nat :=
  let a := srcRun t param j.run + (srcByte (fmtOfCode j.fmt) (tConv t) j.elem : Nat)
  if tSrcLocal t then a.toNat
  else ((((s.handleRange c.cluster (s.slotOfCore c.core) (BitVec.ofNat 32 (tField t 2 0 32))).base : Int) + a) % (2 ^ 64 : Nat)).toNat

def State.copyDst (s : State) (c : Cmd) (t : BitVec 512) (j : CopyJob) : Nat :=
  let a := dstRun t j.run + (j.elem * itemBytes t : Nat)
  if tDstLocal t then a.toNat
  else ((((s.handleRange c.cluster (s.slotOfCore c.core) (BitVec.ofNat 32 (tField t 2 32 32))).base : Int) + a) % (2 ^ 64 : Nat)).toNat

/-- Bytes of one item at the source. -/
def srcBytes (t : BitVec 512) (f : Fmt) : Nat := if tConv t then elemBytes f else 1
/-- Items that share their source bytes. -/
def srcShare (t : BitVec 512) (f : Fmt) : Nat := if tConv t then perByte f else 1

/-- The lines that the reading of an item reaches. -/
def State.copyMeets (s : State) (c : Cmd) (t : BitVec 512) (f : Fmt) (a elem : Nat) : State :=
  if tSrcLocal t then s
  else
    let slot := s.slotOfCore c.core
    let port := s.clusterPort c.cluster
    let n := srcBytes t f
    let s := State.engMeet srcCopy port c.cluster slot true 2 a n s
    match s.engXl c.cluster slot a n false with
    | .ok x =>
      match (if tConv t then x.scaleAt (x.elemIndex a + elem % perByte f) else none) with
      | some (va, w) => State.engMeet srcCopy port c.cluster slot true 2 va w s
      | none => s
    | .error _ => s

/-- The reading of an item may reach its controllers in this clock, and its writing too (R270). -/
def State.copyTurn (s : State) (c : Cmd) (t : BitVec 512) (f : Fmt) (a d elem : Nat) : Bool :=
  let slot := s.slotOfCore c.core
  let port := s.clusterPort c.cluster
  let reads : Bool := tSrcLocal t ||
    (s.engTurns port c.cluster slot false true 2 a (srcBytes t f) &&
      match s.engXl c.cluster slot a (srcBytes t f) false with
      | .ok x =>
        match (if tConv t then x.scaleAt (x.elemIndex a + elem % perByte f) else none) with
        | some (va, w) => s.engTurns port c.cluster slot false true 2 va w
        | none => true
      | .error _ => true)
  reads && (tDstLocal t || s.engTurns port c.cluster slot true false 2 d (itemBytes t))

/-- The raw number at the source, and the raw scale entry of a scaled range. -/
def State.readSource (s : State) (c : Cmd) (t : BitVec 512) (f : Fmt) (a elem : Nat) : Except EngErr (Nat × Option (Bool × Nat)) :=
  let n := srcBytes t f
  let slot := s.slotOfCore c.core
  if tSrcLocal t then
    match (s.core c.core).badScratch a n with
    | some w => .error (.fail 6 w 0)
    | none => .ok ((s.core c.core).readNat a n, none)
  else
    match s.engRead c.cluster slot a n true with
    | .error e => .error e
    | .ok l =>
      if !tConv t then .ok (leNat l, none)
      else
        match s.engXl c.cluster slot a n false with
        | .error e => .error e
        | .ok x =>
          match x.scaleAt (x.elemIndex a + elem % perByte f) with
          | none => .ok (leNat l, none)
          | some (va, w) => (s.engRead c.cluster slot va w true).map fun z => (leNat l, some (x.sfp32, leNat z))

/-- The code that the destination receives. -/
def copyCode (t : BitVec 512) (f : Fmt) (elem raw : Nat) (scale : Option (Bool × Nat)) : Nat :=
  if !tConv t then raw
  else
    let v := elemVal f raw elem
    let v := match scale with
      | some (w, z) => v.mul (scaleVal w z)
      | none => v
    match encodeVal (tDfmt t) (tRm t) (tOv t) v with
    | .ok y => y
    | .error _ => 0

/-- One item is moved: its source run, its reading, its destination run, its writing. -/
def State.moveItem (s : State) (c : Cmd) (t : BitVec 512) (param : Int) (j : CopyJob) : CopyPart :=
  let k := c.core
  let slot := s.slotOfCore k
  let f := fmtOfCode j.fmt
  let rf := returnFmt t f
  let a := s.copySrc c t param j
  let d := s.copyDst c t j
  let n := itemBytes t
  let fail (s : State) (j : CopyJob) (e : EngErr) : CopyPart := .error (e, s, j)
  if !s.copyTurn c t f a d j.elem then fail s j .turn
  else
  let s := s.copyMeets c t f a j.elem
  let s := if tDstLocal t then s else State.engWalks srcCopy c.cluster slot 2 d n s
  match s.readSource c t f a j.elem with
  | .error e => fail s j e
  | .ok (raw, scale) =>
    let place : Except EngErr (List (Nat × Nat × Xlat)) := if tDstLocal t then .ok [] else s.engPlaces c.cluster slot 2 d n
    match place with
    | .error e => fail s j e
    | .ok p =>
      match (if tSrcLocal t then s.enterByte k j a true rf else .ok (s, j)) with
      | .error e => .error e
      | .ok (s, j) =>
        match (if tDstLocal t then s.enterByte k j d false rf else .ok (s, j)) with
        | .error e => .error e
        | .ok (s, j) =>
          let code := copyCode t f j.elem raw scale
          let s := if tDstLocal t then s.updCore k (·.storeLent (d / 4096) d n code) else s.engPut c.id (s.clusterPort c.cluster) slot p (leBytes n code)
          let s := if tConv t && elemReserved f raw j.elem then s.updCore k fun x => x.setSticky x.lc.toNat stickyRsvd else s
          let last := j.elem % srcShare t f = srcShare t f - 1
          match (if tSrcLocal t && last then s.leaveBytes k j a (srcBytes t f) true rf else .ok (s, j)) with
          | .error e => .error e
          | .ok (s, j) => if tDstLocal t then s.leaveBytes k j d n false rf else .ok (s, j)

/-- The place after an item. -/
def CopyJob.next (j : CopyJob) (t : BitVec 512) : CopyJob :=
  let j := { j with chunk := j.chunk + itemBytes t }
  if j.elem + 1 < runItems t (fmtOfCode j.fmt) then { j with elem := j.elem + 1 } else { j with run := j.run + 1, elem := 0 }

/-- Items up to the end of the chunk. -/
def State.moveItems (c : Cmd) (t : BitVec 512) (param : Int) : Nat → State → CopyJob → CopyPart
  | 0, s, j => .ok (s, j)
  | n + 1, s, j =>
    if tRuns t ≤ j.run || 4096 ≤ j.chunk then .ok (s, j)
    else
      match s.moveItem c t param j with
      | .error e => .error e
      | .ok (s, j) => State.moveItems c t param n s (j.next t)

def State.setJob (s : State) (id : Nat) (j : CopyJob) : State := s.updCmd id fun c => { c with st := .running (.copy j), awaits := none }

/-- A command stops at its next chunk: nothing more comes of it. -/
def State.dropCmd (s : State) (c : Cmd) : State := s.updCmd c.id fun x => { x with st := .cancelled, awaits := none }

/-- The transfer is complete. -/
def State.copyEnds (s : State) (c : Cmd) (t : BitVec 512) (j : CopyJob) : State :=
  if tmplFol t then s.setJob c.id { j with follow := true, started := true } else s.completeCmd c

/-- The next chunk of a command: the handles are checked before it. -/
def State.copyRun (s : State) (c : Cmd) (n : Nat) (param : Int) (j : CopyJob) : State :=
  let t := s.copyTemplate c.core n
  let tiles := j.uses.map fun u => (u.tile, u.out)
  let fresh := j.chunk = 0 || 4096 ≤ j.chunk
  if fresh && s.stopping then s.dropCmd c
  else if tRuns t ≤ j.run then s.copyEnds c t j
  else
    let src := srcRun t param j.run + (srcByte (fmtOfCode j.fmt) (tConv t) j.elem : Nat)
    let dst := dstRun t j.run + (j.elem * itemBytes t : Nat)
    match (if fresh then s.copyHandles c t src dst 2 else .ok ()) with
    | .error e => s.engStop c tiles e
    | .ok _ =>
      match State.moveItems c t param 4096 s { j with chunk := if fresh then 0 else j.chunk, started := true } with
      | .error (e, s, j) => (s.setJob c.id j).engStop c tiles e
      | .ok (s, j) => if tRuns t ≤ j.run then s.copyEnds c t j else s.setJob c.id j

/-- The command that a cluster's copy engine runs: the first accepted. -/
def State.copyNow (s : State) (cl : Nat) (follow : Bool) : Option (Cmd × CopyJob) :=
  s.cmds.findSome? fun c =>
    match c.st with
    | .running (.copy j) => if c.cluster = cl && j.follow == follow then some (c, j) else none
    | _ => none

/-- COPY_CHUNK. -/
def State.copyChunk (s : State) (cl : Nat) : State :=
  match s.copyNow cl false with
  | some (c, j) =>
    match c.kind with
    | .copy n param => s.copyRun c n param j
    | _ => s
  | none => s
def execCopyChunk (cluster : Nat) (s : State) : Host.Outcome State Fault Refusal := .next (s.copyChunk cluster)

/-! ## Follow-on commands (R224, R390, R413) -/

/-- K, and the bytes of an operand of 64 rows of K elements. -/
def folK (t : BitVec 512) : Nat := tField t 0 51 9 + 1
def operandBytes (f : Fmt) (k : Nat) : Nat := if f = .tri5 then 64 * ceilDiv k 5 else 64 * k * Fmt.width f / 8
def folMmt (t : BitVec 512) : Bool := tBit t 22
def folSum (t : BitVec 512) : Shape :=
  match tField t 0 25 2 with
  | 0 => .linear
  | 1 => .tree8
  | 2 => .tree64
  | _ => .exact

/-- The tiles of an operand. -/
def operandTiles (first n : Nat) : List Nat := (List.range (ceilDiv n 4096)).map (first + ·)

/-- One operand's tiles share its format and are engine-owned with DIR 1. -/
def operandOk (c : Core) (first : Nat) (f : Fmt) (k : Nat) : Bool :=
  let l := operandTiles first (operandBytes f k)
  decide (first + l.length ≤ 384) && l.all fun x => (c.tile x).engine && (c.tile x).dir && (c.tile x).fmt == (c.tile first).fmt

/-- Sub-cause 0x09. -/
def followBad (c : Core) (t : BitVec 512) : Bool :=
  let fa := fmtOfCode (c.tile (tField t 0 33 9)).fmt
  let fb := fmtOfCode (c.tile (tField t 0 42 9)).fmt
  !(if folMmt t then fa == .i8 && ternary fb else matFmt fa && fb == fa)
    || !operandOk c (tField t 0 33 9) fa (folK t) || !operandOk c (tField t 0 42 9) fb (folK t)

/-- Element (row, k) of an operand's bytes. -/
def operandRaw (f : Fmt) (data k row i : Nat) : Nat :=
  if f = .tri5 then bits data (8 * (row * ceilDiv k 5 + i / 5)) 8 else bits data ((row * k + i) * Fmt.width f) (Fmt.width f)
def operandInt (f : Fmt) (data k row i : Nat) : Int × Bool :=
  let x := operandRaw f data k row i
  match f with
  | .tri5 => decodeTri5 x (i % 5)
  | .tri2 => decodeTri2 x
  | _ => (toSigned 8 x, false)

/-- Row r of an operand comes from a 64-bit word that cannot be corrected. -/
def operandBadRow (c : Core) (f : Fmt) (first k row : Nat) : Bool :=
  let n := operandBytes f k * 8 / 64
  (c.badScratch (4096 * first + row * n / 8) (ceilDiv n 8)).isSome

/-- One word of the result; one that comes from bad data is a free value. -/
def followWord (c : Core) (t : BitVec 512) (fa fb : Fmt) (da db free i j : Nat) : W32 :=
  let k := folK t
  let w := lane (c.accRow (8 * tmplFaw t + i)) j
  let clr := tBit t 23
  if operandBadRow c fa (tField t 0 33 9) k i || operandBadRow c fb (tField t 0 42 9) k j || (!clr && c.bad.contains (.acc (8 * tmplFaw t + i) j)) then
    Config.freeWord (free + 64 * i + j)
  else if folMmt t then intWord w (tBit t 24) clr ((List.range k).map fun x => ((operandInt fa da k i x).1, (operandInt fb db k j x).1))
  else valWord w (tBit t 24) clr (folSum t) ((List.range k).map fun x => (decodeVal fa (operandRaw fa da k i x), decodeVal fb (operandRaw fb db k j x)))

/-- The window's words, its poison and the sticky bit. -/
def Core.followOn (c : Core) (t : BitVec 512) (free : Nat) : Core :=
  let aw := tmplFaw t
  let k := folK t
  let fa := fmtOfCode (c.tile (tField t 0 33 9)).fmt
  let fb := fmtOfCode (c.tile (tField t 0 42 9)).fmt
  let da := c.readNat (4096 * tField t 0 33 9) (operandBytes fa k)
  let db := c.readNat (4096 * tField t 0 42 9) (operandBytes fb k)
  let opBad := (List.range 64).any fun i => operandBadRow c fa (tField t 0 33 9) k i || operandBadRow c fb (tField t 0 42 9) k i
  let accBad := !tBit t 23 && c.bad.any fun b =>
    match b with
    | .acc r _ => decide (8 * aw ≤ r) && decide (r < 8 * aw + 64)
    | _ => false
  let rsvd := folMmt t && (List.range 64).any fun j => (List.range k).any fun x => (operandInt fb db k j x).2
  let rows := (List.range 64).map fun i => (8 * aw + i, vecOf ((List.range 64).map fun j => followWord c t fa fb da db free i j))
  let gp := if opBad then poisonGroups c.groupPoison aw 8 2 0 else if accBad then poisonGroups c.groupPoison aw 8 3 0 else c.groupPoison
  let c2 := rows.foldl (fun x p => x.setAccRow p.1 p.2) c
  let c2 := { c2 with
    groupPoison := gp
    bad := c.bad.filter fun b =>
      match b with
      | .acc r _ => !(decide (8 * aw ≤ r) && decide (r < 8 * aw + 64))
      | _ => true }
  if rsvd then c2.setSticky c.lc.toNat stickyRsvd else c2

/-- The reads of an operand count as units of its tiles, block by block. -/
def State.readUnits (k : Nat) : List Nat → State → Except (EngErr × State) State
  | [], s => .ok s
  | b :: r, s =>
    let tile := b / 64
    let x := ((s.core k).tile tile).offer false 0
    let s := s.updCore k (·.setLent tile x.1)
    if x.2 then State.readUnits k r s else .error (.fail 3 (4096 * tile) (tile * 2 ^ 16 + x.1.expect), s)

/-- The 64-byte blocks of n bytes from the start of a tile. -/
def blocksOf (first n : Nat) : List Nat := (List.range (ceilDiv n 64)).map (64 * first + ·)

/-- The follow-on is judged, and runs. -/
def State.follow (s : State) (c : Cmd) (n : Nat) : State :=
  let t := s.copyTemplate c.core n
  let x := s.core c.core
  let aw := tmplFaw t
  let fa := tField t 0 33 9
  let fb := tField t 0 42 9
  let lent := x.lent.any fun l => l.1 == aw && l.2.contains c.id
  let poisoned := x.groupPoison.any fun g => decide (aw ≤ g.group) && decide (g.group ≤ aw + 7)
  let ba := operandBytes (fmtOfCode (x.tile fa).fmt) (folK t)
  let bb := operandBytes (fmtOfCode (x.tile fb).fmt) (folK t)
  let tiles := (operandTiles fa ba ++ operandTiles fb bb).map fun y => (y, true)
  if followBad x t then s.engStop c tiles (.fail 9 (4096 * fa) (word512 t 0).toNat)
  else if !lent || poisoned then s.engStop c tiles (.fail 0xA (8 * aw) ((if poisoned then 256 else 0) + aw))
  else
    match State.readUnits c.core (blocksOf fa ba ++ blocksOf fb bb) s with
    | .error (e, s) => s.engStop c tiles e
    | .ok s2 =>
      let y := x.followOn t s.free
      let s2 := s2.updCore c.core fun z =>
        { z with acc := y.acc, groupPoison := y.groupPoison, bad := y.bad, sticky := y.sticky, stickyNow := y.stickyNow }
      { s2 with free := s.free + 4096 }.completeCmd c

/-- FOLLOW_ON. -/
def State.followOn (s : State) (cl : Nat) : State :=
  match s.copyNow cl true with
  | some (c, _) =>
    match c.kind with
    | .copy n _ => if s.stopping then s.dropCmd c else s.follow c n
    | _ => s
  | none => s
def execFollowOn (cluster : Nat) (s : State) : Host.Outcome State Fault Refusal := .next (s.followOn cluster)

end Sys2Proof.Machine
end

