-- ==== Sys2Proof/Machine/Kiln.lean ====
section
/-! DEFINITION. The kilns: reductions, near-bank commands and nearest-neighbour search (R240, R245, R282-R297, R399, R409, R411, R414-R416). -/

namespace Sys2Proof.Machine

/-- The caches by which the kiln of a stack translates. -/
def kilnCluster (stk : Nat) : Nat := 14 + stk

/-- Contexts of a kiln in use. -/
def State.contexts (s : State) (stk : Nat) : Nat :=
  (s.cmds.filter fun c => c.kind.engine == 2 + stk &&
    match c.st with
    | .running (.ksrch _) => true
    | _ => false).length

/-- The kiln can take the command up: it has a context for a query, and no page of host space is awaited (R240, R291, R369). -/
def State.kilnFree (s : State) (c : Cmd) (stk : Nat) : Bool :=
  (match c.kind with
    | .ksrch _ _ => decide (s.contexts stk < 1024)
    | _ => true) &&
    match c.awaits with
    | none => true
    | some va =>
      match s.engXl (kilnCluster stk) (s.slotOfCore c.core) va 1 false with
      | .error (.wait _) => false
      | _ => true

/-- The next command that the kiln of some stack accepts from a core, of a kind. Each kiln takes a core's commands in issue order. -/
def State.nextKiln (s : State) (k : Nat) (p : CmdKind → Bool) : Option Cmd :=
  (List.range 8).findSome? fun stk =>
    match s.nextCmd k (fun c => c.kind.engine == 2 + stk) with
    | some c => if p c.kind && s.kilnFree c stk then some c else none
    | none => none

/-- A parameter block rejected at its word i. -/
def blockBad (a : Word) (i : Nat) : EngErr := .fail 0xB a.toNat i

/-- The first word that fails its check. -/
def firstBad (l : List (Bool × Nat)) : Option Nat := ((l.filter fun p => p.1).map (·.2)).min?

/-- A step of a kiln's command from a state: what an access ended, or the command goes on. One whose port has lost its turn leaves the state and comes
again (R270). -/
def kilnStep (s : State) (c : Cmd) (r : Eng Unit) : State :=
  match r.2 with
  | .ok _ => r.1
  | .error .turn => s
  | .error e => r.1.engStop c [] e

/-- A kiln reads n bytes at an address. -/
def State.kilnLoad (s : State) (stk slot va n : Nat) : Eng (List Byte) := s.engLoad srcKiln (kilnPort stk) (kilnCluster stk) slot va n false

/-- The words of a parameter block. -/
def State.blockWords (s : State) (c : Cmd) (stk : Nat) (a : Word) (n : Nat) : Eng (List Nat) :=
  engThen (s.kilnLoad stk (s.slotOfCore c.core) a.toNat (8 * n)) fun s l => (s, .ok (bytesWords l))

/-- The kiln reads its SRAM: a word that cannot be corrected fails the command, with an address that the spec leaves open (R386, R409). -/
def State.sramRead (s : State) (stk : Nat) : Eng Unit :=
  if s.kilnBad.contains stk then
    ({ s with kilnBad := s.kilnBad.erase stk, free := s.free + 1 }, .error (.fail 6 (Config.freeBits s.free 0 % 2 ^ 64) (Config.freeBits s.free 1 % 2 ^ 64)))
  else (s, .ok ())

/-! ## KRED (R282, R283, R414) -/

/-- One buffer of a reduction: handle, offset, format. -/
structure RedBuf where
  handle : Nat
  off : Nat
  fmt : Fmt
  deriving DecidableEq, Repr

def redCount (w : List Nat) : Nat := bits (w.getD 0 0) 0 5
def redLen (w : List Nat) : Nat := bits (w.getD 0 0) 32 32
def redFlag (w : List Nat) : Bool := bit (w.getD 0 0) 5

/-- The words that hold the handles of the destination and the sources. -/
def redWords (w : List Nat) : List Nat := 1 :: (List.range (redCount w)).map fun i => 8 + 2 * i

/-- Fields judged on the block alone. -/
def redBad (w : List Nat) : List (Bool × Nat) :=
  let x (i : Nat) : Nat := w.getD i 0
  let n := redCount w
  [(bits (x 0) 6 26 != 0 || n < 2 || 16 < n || redLen w = 0 || 2 ^ 28 < redLen w, 0), (bits (x 1) 32 32 != 0, 1),
      (redFlag w && bits (x 3) 32 32 != 0, 3), (redFlag w && x 4 % 8 != 0, 4), (x 6 != 0, 6), (x 7 != 0, 7)]
    ++ (List.range 16).flatMap fun i =>
      [(bits (x (8 + 2 * i)) 32 32 != 0 || (n ≤ i && x (8 + 2 * i) != 0), 8 + 2 * i), (n ≤ i && x (9 + 2 * i) != 0, 9 + 2 * i)]

/-- The buffers, destination first. -/
def State.redBufs (s : State) (cl slot : Nat) (w : List Nat) : List RedBuf :=
  (redWords w).map fun i =>
    { handle := w.getD i 0, off := w.getD (i + 1) 0, fmt := fmtOfCode (s.handleRange cl slot (BitVec.ofNat 32 (w.getD i 0))).fmt }

/-- Every handle of the command is good; `e` elements have been done. -/
def State.redHandles (s : State) (cl slot : Nat) (w : List Nat) (e sub : Nat) : Except EngErr Unit :=
  firstErr (((s.redBufs cl slot w).map fun b => (s.engHandle cl slot b.handle (b.off + e * elemBytes b.fmt) sub).map fun _ => ())
    ++ (if redFlag w then [(s.engHandle cl slot (w.getD 3 0) (w.getD 4 0) sub).map fun _ => ()] else []))

/-- What the ranges of good handles say of the block. -/
def State.redRanges (s : State) (cl slot : Nat) (w : List Nat) : List (Bool × Nat) :=
  let rng (i : Nat) : Range := s.handleRange cl slot (BitVec.ofNat 32 (w.getD i 0))
  let good (i : Nat) : Bool := !(rng i).stale (BitVec.ofNat 32 (w.getD i 0))
  let buf (i : Nat) : List (Bool × Nat) :=
    let r := rng i
    let f := fmtOfCode r.fmt
    if good i then [((f != .fp32 && f != .bf16) || r.blkCode != 0, i), (w.getD (i + 1) 0 % elemBytes f != 0, i + 1)] else []
  buf 1 ++ (if redFlag w && good 3 then [(bit (rng 3).word3 10, 3)] else []) ++ (List.range (min 16 (redCount w))).flatMap fun i => buf (8 + 2 * i)

/-- The block as the kiln judges it: the first word that any check finds bad, then the handles. -/
def State.judgeRed (s : State) (c : Cmd) (stk : Nat) (a : Word) : Eng (List Nat) :=
  let cl := kilnCluster stk
  let slot := s.slotOfCore c.core
  engThen (s.blockWords c stk a 40) fun s w =>
    match firstBad (redBad w ++ s.redRanges cl slot w) with
    | some i => (s, .error (blockBad a i))
    | none => (s, (s.redHandles cl slot w 0 1).map fun _ => w)

/-- KRED_ACCEPT. -/
def State.kredAccept (s : State) (k : Nat) : State :=
  match s.nextKiln k (fun | .kred _ _ => true | _ => false) with
  | none => s
  | some c =>
    match c.kind with
    | .kred a stk =>
      kilnStep s c (engThen (s.judgeRed c stk a) fun s w => (s.acceptCmd c (.kred w 0), .ok ()))
    | _ => s
def execKredAccept (core : Nat) (s : State) : Host.Outcome State Fault Refusal := .next (s.kredAccept core)

/-- n elements of a buffer from element e on. -/
def State.redRead (s : State) (stk slot : Nat) (b : RedBuf) (e n : Nat) : Eng (List Nat) :=
  engThen (s.kilnLoad stk slot (s.engAddr (kilnCluster stk) slot b.handle (b.off + e * elemBytes b.fmt)) (n * elemBytes b.fmt)) fun s l =>
    (s, .ok (unpackNat (8 * elemBytes b.fmt) n (leNat l)))

/-- The elements of every source, in the order of the block. -/
def State.redReads (stk slot e n : Nat) : List RedBuf → State → Eng (List (Fmt × List Nat))
  | [], s => (s, .ok [])
  | b :: r, s =>
    engThen (s.redRead stk slot b e n) fun s l =>
      engThen (State.redReads stk slot e n r s) fun s t => (s, .ok ((b.fmt, l) :: t))

/-- One element of the destination (R283). -/
def redElem (df : Fmt) (x : List Val) : Nat :=
  let r := (roundFp32 .rne (trussSum x)).toNat
  if df = .bf16 then convertD .fp32 .bf16 r .rne .inf else r

/-- A chunk of up to 1,024 elements: every source is read before the destination is written. -/
def State.redChunk (s : State) (id stk slot : Nat) (w : List Nat) (chunk : Nat) : Eng Unit :=
  let cl := kilnCluster stk
  let e := 1024 * chunk
  let n := min 1024 (redLen w - e)
  match s.redBufs cl slot w with
  | [] => (s, .ok ())
  | d :: src =>
    engThen (State.redReads stk slot e n src s) fun s l =>
      let out := (List.range n).flatMap fun i => leBytes (elemBytes d.fmt) (redElem d.fmt (l.map fun p => decodeVal p.1 (p.2.getD i 0)))
      s.engWrite srcKiln id (kilnPort stk) cl slot (s.engAddr cl slot d.handle (d.off + e * elemBytes d.fmt)) out

/-- The flag is written after the last chunk (R259). -/
def State.redFlagWrite (s : State) (id stk slot : Nat) (w : List Nat) : Eng Unit :=
  let cl := kilnCluster stk
  if !redFlag w then (s, .ok ())
  else s.engWrite srcKiln id (kilnPort stk) cl slot (s.engAddr cl slot (w.getD 3 0) (w.getD 4 0)) (leBytes 8 (w.getD 5 0))

/-- The flag, and the command's completion. -/
def State.redLast (s : State) (c : Cmd) (stk : Nat) (w : List Nat) : Eng Unit :=
  engThen (s.redFlagWrite c.id stk (s.slotOfCore c.core) w) fun s _ => (s.completeCmd c, .ok ())

/-- One chunk of the command, whose handles are checked before it (R411), or its flag and its completion. -/
def State.redStep (s : State) (c : Cmd) (stk : Nat) (w : List Nat) (chunk : Nat) : Eng Unit :=
  let slot := s.slotOfCore c.core
  if redLen w ≤ 1024 * chunk then s.redLast c stk w
  else
    engThen (s, s.redHandles (kilnCluster stk) slot w (1024 * chunk) 2) fun s _ =>
    engThen (s.sramRead stk) fun s _ =>
    engThen (s.redChunk c.id stk slot w chunk) fun s _ =>
      let s := s.updCmd c.id fun x => { x with st := .running (.kred w (chunk + 1)), awaits := none }
      if redLen w ≤ 1024 * (chunk + 1) then s.redLast c stk w else (s, .ok ())

/-- A command that the node's stop ends at its next chunk. -/
def State.cutCmd (s : State) (c : Cmd) : State := s.updCmd c.id fun x => { x with st := .cancelled, awaits := none }

/-- KRED_CHUNK. -/
def State.kredChunk (s : State) (id : Nat) : State :=
  match s.cmdOf id with
  | none => s
  | some c =>
    match c.kind, c.st with
    | .kred _ stk, .running (.kred w n) => if s.stopping then s.cutCmd c else kilnStep s c (s.redStep c stk w n)
    | _, _ => s
def execKredChunk (id : Nat) (s : State) : Host.Outcome State Fault Refusal := .next (s.kredChunk id)

/-! ## KOP (R284, R285, R399, R415) -/

/-- The formats of R284 and R290. -/
def kilnFmt (code : Nat) : Bool := decide (1 ≤ code) && decide (code ≤ 8)
def kilnTapered (code : Nat) : Bool :=
  match fmtOfCode code with
  | .tap32 | .tap16 | .tap8 => true
  | _ => false

def opCode (w : List Nat) : Nat := bits (w.getD 0 0) 0 3
def opDfmt (w : List Nat) : Nat := bits (w.getD 0 0) 4 4
def opRmCode (w : List Nat) : Nat := bits (w.getD 0 0) 8 2
def opRm (w : List Nat) : RM := RM.ofCode (opRmCode w)
def opOv (w : List Nat) : OV :=
  match bits (w.getD 0 0) 10 2 with
  | 0 => .sat
  | 1 => .inf
  | _ => .nan
def opB0 (w : List Nat) : Nat := bits (w.getD 0 0) 16 4
def opB1 (w : List Nat) : Nat := bits (w.getD 0 0) 20 4
def opRowLen (w : List Nat) : Nat := bits (w.getD 6 0) 32 32
def opCount (w : List Nat) : Nat := w.getD 5 0
/-- CAST and ROWSUM write DFMT. -/
def opCasts (w : List Nat) : Bool := opCode w == 2 || opCode w == 3
/-- The format of Z. -/
def opTarget (w : List Nat) (f : Fmt) : Fmt := if opCasts w then fmtOfCode (opDfmt w) else f

/-- Fields that do not depend on the page. -/
def opBad (w : List Nat) : Option Nat :=
  let x (i : Nat) : Nat := w.getD i 0
  let rl := opRowLen w
  firstBad
    [(5 ≤ opCode w || bits (x 0) 10 2 == 3 || bits (x 0) 24 40 != 0 || bits (x 0) 12 4 != 0 || bit (x 0) 3 || opB1 w < opB0 w
        || (if opCasts w then !kilnFmt (opDfmt w) || (opRmCode w != 0 && kilnTapered (opDfmt w)) else opDfmt w != 0), 0),
      (bits (x 1) 57 7 != 0, 1), (bits (x 2) 17 47 != 0, 2), (bits (x 3) 17 47 != 0, 3), (bits (x 4) 17 47 != 0, 4),
      (x 5 == 0 || 65536 < x 5, 5),
      ((if opCode w = 3 then rl == 0 || 65536 < rl else rl != 0) || (bits (x 6) 0 32 != 0 && opCode w != 1 && opCode w != 4), 6),
      (x 7 != 0, 7)]

/-- The compute-capable page that PAGE names in the stack: its address and its format code. -/
def State.opPage (s : State) (cl slot stk page : Nat) : Option (Nat × Nat) :=
  if bit page 56 || page % 2 ^ 21 != 0 then none
  else
    match s.translate cl slot page 1 with
    | .ok x =>
      if x.cc && decide (x.key < 2 ^ 39) && x.key % 2 ^ 21 == 0 && x.key / 2 ^ 36 == stk && decide (x.key / 2 ^ 21 % 2 ^ 15 < 3072) then some (x.key, x.fmt) else none
    | _ => none

/-- The operands' sub-causes, offsets and bytes, in the order X, Y, Z. -/
def opExtents (w : List Nat) (f : Fmt) : List (Nat × Nat × Nat) :=
  let n := opCount w
  let es := elemBytes f
  (if opCode w = 3 then [(4, w.getD 2 0, n * opRowLen w * es)] else [(1, w.getD 2 0, n * es)])
    ++ (if opCode w = 0 ∨ opCode w = 4 then [(2, w.getD 3 0, n * es)] else []) ++ [(3, w.getD 4 0, n * elemBytes (opTarget w f))]

/-- The boundary fault of a block (R399). -/
def boundary34 (page sub bank info1 : Nat) : Trap :=
  { cause := 0x34, sub := sub, addr := BitVec.ofNat 64 page, info0 := BitVec.ofNat 64 bank, info1 := BitVec.ofNat 64 info1 }

/-- The command as the kiln judges it, its block read. -/
def State.opJudge (s : State) (c : Cmd) (stk : Nat) (a : Word) (w : List Nat) : State :=
  let page := w.getD 1 0
  let fail (s : State) (e : EngErr) : State := s.engStop c [] e
  match opBad w with
  | some i => fail s (blockBad a i)
  | none =>
    match s.opPage (kilnCluster stk) (s.slotOfCore c.core) stk page with
    | none => s.failCmd c (boundary34 page 5 (opB0 w) 0) []
    | some (pa, code) =>
      let f := fmtOfCode code
      if !kilnFmt code then fail s (blockBad a 1)
      else if !opCasts w && opRmCode w != 0 && kilnTapered code then fail s (blockBad a 0)
      else
        match (opExtents w f).find? fun p => decide (0x20000 < p.2.1 + p.2.2) with
        | some (sub, o, n) => s.failCmd c (boundary34 page sub (opB0 w) (opB0 w * 0x20000 + o + n - 1)) []
        | none => s.acceptCmd c (.kop w pa f (opB0 w) none)

/-- KOP_ACCEPT. -/
def State.kopAccept (s : State) (k : Nat) : State :=
  match s.nextKiln k (fun | .kop _ _ => true | _ => false) with
  | none => s
  | some c =>
    match c.kind with
    | .kop a stk =>
      kilnStep s c (engThen (s.blockWords c stk a 8) fun s w =>
        ((s.walkMeets srcKiln (kilnCluster stk) (s.slotOfCore c.core) (w.getD 1 0)).opJudge c stk a w, .ok ()))
    | _ => s
def execKopAccept (core : Nat) (s : State) : Host.Outcome State Fault Refusal := .next (s.kopAccept core)

/-- The codes of consecutive elements at a key, or the first one that lies in a poisoned line. -/
def State.opElems (stk key es : Nat) : Nat → State → State × Except Nat (List Nat)
  | 0, s => (s, .ok [])
  | n + 1, s =>
    let s := s.readsLine srcKiln (kilnPort stk) key es
    if (s.poisoned key es).isSome then (s, .error key)
    else
      let r := State.opElems stk (key + es) es n s
      (r.1, r.2.map fun l => s.memNat key es :: l)

/-- The codes that z[i] of one bank is computed from (R285), X before Y. -/
def State.opReads (s : State) (stk : Nat) (w : List Nat) (f : Fmt) (base i : Nat) : State × Except Nat (List Nat) :=
  let es := elemBytes f
  let x := base + w.getD 2 0
  let y := base + w.getD 3 0
  if opCode w = 3 then State.opElems stk (x + i * opRowLen w * es) es (opRowLen w) s
  else
    let r := State.opElems stk (x + i * es) es 1 s
    if opCode w = 0 || opCode w = 4 then
      match r.2 with
      | .error k => (r.1, .error k)
      | .ok a =>
        let q := State.opElems stk (y + i * es) es 1 r.1
        (q.1, q.2.map fun b => a ++ b)
    else r

/-- z[i] from those codes. -/
def opValue (w : List Nat) (f : Fmt) (l : List Nat) : Nat :=
  let z := opTarget w f
  let rd (code : Nat) : Val := fp32 (loadFp32 f code)
  let enc (v : Val) : Nat := convertD .fp32 z (roundFp32 .rne v).toNat (opRm w) (opOv w)
  let alpha := fp32 (BitVec.ofNat 32 (w.getD 6 0))
  let a := l.getD 0 0
  let b := l.getD 1 0
  match opCode w with
  | 0 => enc ((rd a).add .rne (rd b))
  | 1 => enc (alpha.mul (rd a))
  | 2 => convertD f z a (opRm w) (opOv w)
  | 3 => enc (trussSum (l.map rd))
  | _ => enc ((alpha.mul (rd a)).add .rne (rd b))

/-- Elements from i on, each written before the next is read; the first that cannot be read ends the bank. -/
def State.opRun (id stk : Nat) (w : List Nat) (f : Fmt) (base : Nat) : Nat → Nat → State → State × Option Nat
  | 0, _, s => (s, none)
  | n + 1, i, s =>
    let r := s.opReads stk w f base i
    match r.2 with
    | .error k => (r.1, some k)
    | .ok l =>
      let zs := elemBytes (opTarget w f)
      let k := base + w.getD 4 0 + i * zs
      State.opRun id stk w f base n (i + 1) (((((r.1).arriveAt (kilnPort stk) k zs).memWrite k (leBytes zs (opValue w f l))).touch k zs).cmdWrote id k zs)

/-- The run of a bank may reach its controllers in this clock (R270). -/
def State.opTurn (s : State) (stk : Nat) (w : List Nat) (f : Fmt) (base : Nat) : Bool :=
  (opExtents w f).all fun p => s.portTurn (kilnPort stk) (base + p.2.1) p.2.2

/-- One bank; after the last the command completes, or fails with the lowest failing bank's element. -/
def State.opBank (s : State) (c : Cmd) (stk : Nat) (w : List Nat) (pa : Nat) (f : Fmt) (bank : Nat) (bad : Option (Nat × Nat)) : State :=
  let page := w.getD 1 0
  if !s.opTurn stk w f (pa + bank * 0x20000) then s
  else
  match engThen (s.sramRead stk) fun s _ => (s, s.engXl (kilnCluster stk) (s.slotOfCore c.core) (page + bank * 0x20000 + w.getD 4 0) 1 true) with
  | (s, .error e) => s.engStop c [] e
  | (s, .ok _) =>
    let r := State.opRun c.id stk w f (pa + bank * 0x20000) (opCount w) 0 s
    let bad := match bad, r.2 with
      | some b, _ => some b
      | none, some k => some (page + (k - pa), physWord k)
      | none, none => none
    if bank < opB1 w then r.1.updCmd c.id fun x => { x with st := .running (.kop w pa f (bank + 1) bad), awaits := none }
    else
      match bad with
      | some b => r.1.failCmd c (chanTrap 6 b.1 b.2) []
      | none => r.1.completeCmd c

/-- KOP_BANK_RUN. -/
def State.kopBankRun (s : State) (id : Nat) : State :=
  match s.cmdOf id with
  | none => s
  | some c =>
    match c.kind, c.st with
    | .kop _ stk, .running (.kop w pa f bank bad) => if s.stopping then s.cutCmd c else s.opBank c stk w pa f bank bad
    | _, _ => s
def execKopBankRun (id : Nat) (s : State) : Host.Outcome State Fault Refusal := .next (s.kopBankRun id)

/-! ## KSRCH (R287-R297, R416) -/

/-- The place of a distance in the FP32 order, a NaN above infinity. -/
def distKey (d : W32) : Int :=
  if bits d.toNat 23 8 = 255 ∧ bits d.toNat 0 23 ≠ 0 then 2 ^ 33
  else if d.msb then -(d.toNat % 2 ^ 31 : Nat) else (d.toNat : Int)

/-- Key a is below key b (R292). -/
def Cand.below (a b : Cand) : Bool := decide (distKey a.dist < distKey b.dist) || (distKey a.dist == distKey b.dist && decide (a.id < b.id))

/-- A list of keys kept ascending. -/
def insertCand (a : Cand) : List Cand → List Cand
  | [] => [a]
  | b :: r => if a.below b then a :: b :: r else b :: insertCand a r

/-- No neighbour (R287). -/
def noNeighbour : Nat := 2 ^ 64 - 1

/-- A shard's fields: NNODES, VHANDLE, VOFF, AHANDLE, AOFF, VSTRIDE. -/
def Query.shard (q : Query) (id : Nat) : List Nat := q.shards.getD (bits id 37 3) []
def Query.known (q : Query) (w : Nat) : Bool := decide (w < 2 ^ 40) && decide (w % 2 ^ 37 < (q.shard w).headD 0)

/-- ids_to_evaluate (R293): the new members, and the context with its visited set and flags. -/
def QueryCtx.takeIds (x : QueryCtx) : List Nat → QueryCtx
  | [] => x
  | w :: r =>
    if w = noNeighbour then x.takeIds r
    else if !x.qp.known w then ({ x with badId := true }).takeIds r
    else if x.visited.contains w then x.takeIds r
    else if 4096 ≤ x.visited.length then ({ x with vfull := true }).takeIds r
    else ({ x with visited := x.visited ++ [w], members := x.members ++ [w] }).takeIds r

/-- merge (R293). -/
def QueryCtx.merge (x : QueryCtx) : QueryCtx :=
  { x with
    cands := (x.replies.foldl (fun l c => insertCand c l) x.cands).take x.qp.b
    results := (x.replies.foldl (fun l c => insertCand c l) x.results).take x.qp.k
    members := [], asked := [], replies := [] }

/-- node_distance (R294). -/
def nodeDistance (nip : Bool) (q x : List W32) : W32 :=
  let t := (q.zip x).map fun p =>
    if nip then rneV ((fp32 p.1).mul (fp32 p.2))
    else
      let d := rneV ((fp32 p.1).add .rne (fp32 p.2).neg)
      rneV (d.mul d)
  let r := trussSum ((chunksOf 16 t.length t).map trussSum)
  let c := roundFp32 .rne (if nip then r.neg else r)
  if (fp32 c).isNan then 0x7FC00000 else if c = 0x80000000 then 0 else c

/-- Fields of the packet judged on it alone. -/
def packetBad (w : List Nat) : List (Bool × Nat) :=
  let x (i : Nat) : Nat := w.getD i 0
  let n := bits (x 0) 36 2 + 1
  [(bits (x 0) 38 26 != 0, 0), (bits (x 1) 32 32 != 0 || x 1 == 0, 1), (bits (x 2) 32 32 != 0, 2), (x 3 % 64 != 0, 3),
      (bits (x 4) 32 32 != 0, 4), (bits (x 6) 32 32 != 0, 6), (x 7 % 16 != 0, 7)]
    ++ ((List.range 16).filter fun i => decide (8 + n ≤ i)).map fun i => (x i != 0, i)

/-- One shard entry: what breaks R288 and R289, counted behind the packet's words; `vfmt` is the format of the shards before it. -/
def State.shardBad (s : State) (cl slot dim : Nat) (vfmt : Option Nat) (e : List Nat) : Option Nat :=
  let x (i : Nat) : Nat := e.getD i 0
  if x 0 % 2 ^ 37 = 0 then firstBad ((bits (x 0) 37 27 != 0, 0) :: (List.range 7).map fun i => (x (i + 1) != 0, i + 1))
  else
    let r := s.handleRange cl slot (BitVec.ofNat 32 (x 1))
    let good := !r.stale (BitVec.ofNat 32 (x 1))
    let f := fmtOfCode r.fmt
    let es := elemBytes f
    firstBad
      [(bits (x 0) 37 27 != 0, 0),
        (bits (x 1) 32 32 != 0 || (good && ((f != .bf16 && f != .i8 && f != .tap8) || r.blkCode != 0 || (vfmt.any fun v => v != r.fmt))), 1),
        (bits (x 3) 32 32 != 0, 3), (x 4 % 8 != 0, 4), (bits (x 5) 32 32 != 0 || (good && (x 5 % es != 0 || decide (x 5 < dim * es))), 5),
        (x 6 != 0, 6), (x 7 != 0, 7)]

/-- The shards from number i on. -/
def State.shardsBad (s : State) (cl slot dim : Nat) : Nat → Option Nat → List (List Nat) → Option Nat
  | _, _, [] => none
  | i, v, e :: r =>
    match s.shardBad cl slot dim v e with
    | some j => some (16 + 8 * i + j)
    | none =>
      let hd := BitVec.ofNat 32 (e.getD 1 0)
      let v := if e.headD 0 % 2 ^ 37 = 0 || (s.handleRange cl slot hd).stale hd then v else some (s.handleRange cl slot (BitVec.ofNat 32 (e.getD 1 0))).fmt
      State.shardsBad s cl slot dim (i + 1) v r

/-- Handles checked together. -/
def State.searchHandles (s : State) (cl slot : Nat) (l : List (Nat × Nat)) (sub : Nat) : Except EngErr Unit :=
  firstErr (l.map fun p => (s.engHandle cl slot p.1 p.2 sub).map fun _ => ())

/-- The query vector's own checks, where its handle is good: word 4 for its range, word 5 for its offset. -/
def State.queryBad (s : State) (cl slot : Nat) (w : List Nat) : List (Bool × Nat) :=
  let hd := BitVec.ofNat 32 (w.getD 4 0)
  let r := s.handleRange cl slot hd
  if r.stale hd then [] else [(!kilnFmt r.fmt || r.blkCode != 0, 4), (w.getD 5 0 % elemBytes (fmtOfCode r.fmt) != 0, 5)]

/-- What the packet and the descriptor's entries give of a query whose vector has been read. -/
def State.queryOf (s : State) (cl slot : Nat) (w : List Nat) (desc : List (List Nat)) (handles : List (Nat × Nat)) (ql : List Byte) : QueryCtx :=
  let x (i : Nat) : Nat := w.getD i 0
  let full := desc.filter fun e => e.headD 0 % 2 ^ 37 != 0
  let dim := bits (x 0) 0 10 + 1
  let qf := fmtOfCode (s.handleRange cl slot (BitVec.ofNat 32 (x 4))).fmt
  let vf := fmtOfCode (((full.head?.map fun e => (s.handleRange cl slot (BitVec.ofNat 32 (e.getD 1 0))).fmt)).getD 2)
  let qp : Query :=
    { nip := bit (x 0) 35, e := bits (x 0) 31 4 + 1, k := bits (x 0) 24 7 + 1, b := bits (x 0) 16 8 + 1, g := bits (x 0) 10 6 + 1, dim := dim,
      budget := x 1, rhandle := x 6, roff := x 7,
      shards := desc.map fun e => if e.headD 0 % 2 ^ 37 = 0 then [] else [e.getD 0 0, e.getD 1 0, e.getD 2 0, e.getD 3 0, e.getD 4 0, e.getD 5 0],
      vfmt := vf, q := (unpackNat (8 * elemBytes qf) dim (leNat ql)).map (loadFp32 qf), handles := handles }
  ({ qp := qp } : QueryCtx).takeIds (((List.range (bits (x 0) 36 2 + 1)).map fun i => x (8 + i)))

/-- The packet, the descriptor and the query vector are read and judged (R291). -/
def State.judgeQuery (s : State) (c : Cmd) (stk : Nat) (a : Word) : Eng QueryCtx :=
  let cl := kilnCluster stk
  let slot := s.slotOfCore c.core
  engThen (s.blockWords c stk a 16) fun s w =>
    let x (i : Nat) : Nat := w.getD i 0
    let own := [(x 2, x 3), (x 4, x 5), (x 6, x 7)]
    match firstBad (packetBad w ++ s.queryBad cl slot w) with
    | some i => (s, .error (blockBad a i))
    | none =>
      engThen (s, s.searchHandles cl slot own 1) fun s _ =>
      engThen (s.kilnLoad stk slot (s.engAddr cl slot (x 2) (x 3)) 512) fun s gl =>
        let dim := bits (x 0) 0 10 + 1
        let desc := (List.range 8).map fun i => ((bytesWords gl).drop (8 * i)).take 8
        let more := (desc.filter fun e => e.headD 0 % 2 ^ 37 != 0).flatMap fun e => [(e.getD 1 0, e.getD 2 0), (e.getD 3 0, e.getD 4 0)]
        match s.shardsBad cl slot dim 0 none desc with
        | some i => (s, .error (blockBad a i))
        | none =>
          let es := elemBytes (fmtOfCode (s.handleRange cl slot (BitVec.ofNat 32 (x 4))).fmt)
          engThen (s, s.searchHandles cl slot more 1) fun s _ =>
          engThen (s.kilnLoad stk slot (s.engAddr cl slot (x 4) (x 5)) (dim * es)) fun s ql =>
            (s, .ok (s.queryOf cl slot w desc (own ++ more) ql))

/-! ### Rounds -/

/-- What the loop of R293 does next. -/
inductive RoundOut where
  | stop (flags : Nat)
  | expand (x : List Cand)
  deriving DecidableEq, Repr

def QueryCtx.round (x : QueryCtx) : RoundOut :=
  let u := x.cands.filter fun c => !c.expanded
  match u with
  | [] => .stop 1
  | m :: _ =>
    if decide (x.results.length = x.qp.k) && (x.results.getLast?.any fun r => r.below m) then .stop 2
    else if x.expansions = x.qp.budget then .stop 4
    else .expand (u.take (min x.qp.e (x.qp.budget - x.expansions)))

/-- The result block (R296). -/
def QueryCtx.block (x : QueryCtx) (flags : Nat) : List Byte :=
  ((List.range x.qp.k).flatMap fun i =>
    match x.results[i]? with
    | some c => leBytes 8 c.dist.toNat ++ leBytes 8 c.id
    | none => leBytes 8 0x7F800000 ++ leBytes 8 0xFFFFFFFFFF)
    ++ leBytes 8 (x.expansions * 2 ^ 32 + x.rounds)
    ++ leBytes 8 (x.results.length * 2 ^ 12 + x.badId.toNat * 16 + x.vfull.toNat * 8 + flags)

/-- The adjacency lists of candidates, in their order. -/
def State.searchLists (stk slot : Nat) (q : Query) : List Cand → State → Eng (List Nat)
  | [], s => (s, .ok [])
  | c :: r, s =>
    let e := q.shard c.id
    engThen (s.kilnLoad stk slot (s.engAddr (kilnCluster stk) slot (e.getD 3 0) (e.getD 4 0 + c.id % 2 ^ 37 * q.g * 8)) (8 * q.g)) fun s l =>
      engThen (State.searchLists stk slot q r s) fun s t => (s, .ok (bytesWords l ++ t))

/-- The result block is written, and the command completes. R297 does not define the order of the block's writes: the model makes them in one step, by
ascending address (log entry 103). -/
def State.searchEnds (s : State) (c : Cmd) (stk slot : Nat) (x : QueryCtx) (flags : Nat) : Eng Unit :=
  let cl := kilnCluster stk
  engThen (s.engWrite srcKiln c.id (kilnPort stk) cl slot (s.engAddr cl slot x.qp.rhandle x.qp.roff) (x.block flags)) fun s _ => (s.completeCmd c, .ok ())

/-- Rounds up to one that has members, or the end of the search. The handles are checked before each round and not within it (R411). -/
def State.search (c : Cmd) (stk slot : Nat) : Nat → QueryCtx → State → Eng Unit
  | 0, x, s => (s.updCmd c.id fun y => { y with st := .running (.ksrch x), awaits := none }, .ok ())
  | fuel + 1, x, s =>
    engThen (s.sramRead stk) fun s _ =>
      match x.round with
      | .stop flags => s.searchEnds c stk slot x flags
      | .expand l =>
        engThen (s, s.searchHandles (kilnCluster stk) slot x.qp.handles 2) fun s _ =>
        engThen (State.searchLists stk slot x.qp l s) fun s w =>
          let mark := x.cands.map fun y => if l.contains y then { y with expanded := true } else y
          let x := ({ x with cands := mark, expansions := x.expansions + l.length, rounds := x.rounds + 1 } : QueryCtx).takeIds w
          if x.members.isEmpty then State.search c stk slot fuel x s
          else (s.updCmd c.id fun y => { y with st := .running (.ksrch x), awaits := none }, .ok ())

/-- The search goes on with a context; one that waits keeps it. -/
def State.searchOn (s : State) (c : Cmd) (stk : Nat) (x : QueryCtx) : State :=
  let s := s.updCmd c.id fun y => { y with st := .running (.ksrch x) }
  if !x.members.isEmpty then s else kilnStep s c (State.search c stk (s.slotOfCore c.core) 600 x s)

/-- KSRCH_ACCEPT: a kiln with a free context takes the query. -/
def State.ksrchAccept (s : State) (k : Nat) : State :=
  match s.nextKiln k (fun | .ksrch _ _ => true | _ => false) with
  | none => s
  | some c =>
    match c.kind with
    | .ksrch a stk =>
      kilnStep s c (engThen (s.judgeQuery c stk a) fun s x => ((s.acceptCmd c (.ksrch x)).searchOn c stk x, .ok ()))
    | _ => s
def execKsrchAccept (core : Nat) (s : State) : Host.Outcome State Fault Refusal := .next (s.ksrchAccept core)

/-- The home stack of a node. -/
def homeStack (node : Nat) : Nat := bits node 37 3

/-- A request goes to the kiln of a node's home stack; the first one there passes it the query vector and its shard entry (R291). -/
def QueryCtx.passTo (x : QueryCtx) (node : Nat) : QueryCtx :=
  if x.shares.any fun h => h.stack == homeStack node then x
  else { x with shares := x.shares ++ [{ stack := homeStack node, q := x.qp.q, shard := x.qp.shard node }] }

/-- The distance of one member: the kiln of its home stack computes it from what it keeps of the query, in its SRAM, and the member's vector (R293, R294). -/
def State.distance (s : State) (c : Cmd) (x : QueryCtx) (node : Nat) : Eng Cand :=
  let slot := s.slotOfCore c.core
  let home := homeStack node
  let es := elemBytes x.qp.vfmt
  match x.shares.find? fun h => h.stack == home with
  | none => (s, .error .turn)
  | some h =>
    engThen (s.sramRead home) fun s _ =>
    engThen (s.kilnLoad home slot (s.engAddr (kilnCluster home) slot (h.shard.getD 1 0) (h.shard.getD 2 0 + node % 2 ^ 37 * h.shard.getD 5 0)) (x.qp.dim * es)) fun s l =>
      (s, .ok { dist := nodeDistance x.qp.nip h.q ((unpackNat (8 * es) x.qp.dim (leNat l)).map (loadFp32 x.qp.vfmt)), id := node })

/-- DISTANCE_REQUEST. -/
def State.distanceRequest (s : State) (id node : Nat) : State :=
  match s.cmdOf id with
  | none => s
  | some c =>
    match c.kind, c.st with
    | .ksrch _ _, .running (.ksrch x) =>
      if s.stopping then s.cutCmd c
      else if !x.members.contains node || (x.asked ++ x.replies).any fun y => y.id == node then s
      else
        let x := x.passTo node
        kilnStep s c (engThen (s.distance c x node) fun s y =>
          (s.updCmd id fun z => { z with st := .running (.ksrch { x with asked := x.asked ++ [y] }), awaits := none }, .ok ()))
    | _, _ => s
def execDistanceRequest (id node : Nat) (s : State) : Host.Outcome State Fault Refusal := .next (s.distanceRequest id node)

/-- DISTANCE_REPLY: the last reply of a round is followed by its merge and the next round. -/
def State.distanceReply (s : State) (id node : Nat) : State :=
  match s.cmdOf id with
  | none => s
  | some c =>
    match c.kind, c.st with
    | .ksrch _ stk, .running (.ksrch x) =>
      if s.stopping then s.cutCmd c
      else if x.members.isEmpty then s.searchOn c stk x
      else
        match x.asked.find? fun y => y.id == node with
        | none => s
        | some y =>
          let x := { x with asked := x.asked.erase y, replies := x.replies ++ [y] }
          if x.replies.length < x.members.length then s.updCmd id fun z => { z with st := .running (.ksrch x) }
          else s.searchOn c stk x.merge
    | _, _ => s
def execDistanceReply (id node : Nat) (s : State) : Host.Outcome State Fault Refusal := .next (s.distanceReply id node)

end Sys2Proof.Machine
end

