-- ==== Sys2Proof/Machine/HostSpace.lean ====
section
/-! DEFINITION. Host space: page walks and translation requests, the page-request tag table, its responses, and the invalidation of ATS
translations (R98-R100, R334, R369, R394). -/

namespace Sys2Proof.Machine

/-! ## What waits for a page of host space (R369) -/

/-- The page of a request holds an address, in the context of a slot. -/
def State.inPage (s : State) (r : PageRequest) (slot va : Nat) : Bool :=
  bit va 56 && (s.slot slot).pasid.toNat == r.pasid && hostPage va == r.page

/-- The steps by which an access goes on. -/
def accessSteps (a : Access) : List (State → State) := [(·.reply a.id), (·.storePerformed a.id), (·.wqAtomic a.id), (·.chaseForward a.id)]

/-- The steps by which an engine's command goes on. -/
def cmdSteps (c : Cmd) : List (State → State) :=
  match c.kind with
  | .copy _ _ => [(·.copyAccept c.core), (·.copyChunk c.cluster), (·.followOn c.cluster)]
  | .coll _ _ => [(·.collAccept c.core), State.collGo]
  | .kred _ _ => [(·.kredAccept c.core), (·.kredChunk c.id)]
  | .kop _ _ => [(·.kopAccept c.core), (·.kopBankRun c.id)]
  | .ksrch _ _ =>
    let nodes := match c.st with
      | .running (.ksrch x) => x.members
      | _ => []
    (·.ksrchAccept c.core) :: (·.distanceReply c.id 0) :: nodes.flatMap fun n => [(·.distanceRequest c.id n), (·.distanceReply c.id n)]

/-- The steps of everything that can wait for a page: accesses, commands that await an address in it, arrivals from other devices, the
fetch of each core, the command core's loads of images. -/
def State.pageSteps (s : State) (r : PageRequest) : List (State → State) :=
  s.accs.flatMap accessSteps
    ++ (s.cmds.filter fun c => c.awaits.any (s.inPage r (s.slotOfCore c.core))).flatMap cmdSteps
    ++ (s.inPkts ++ s.streams427.flatMap (·.held)).flatMap (fun p => [(·.opArrives p.srcDev p.task), (·.aggApply p.aggSrc)])
    ++ s.cores.map (fun p => (·.prefetch p.1))
    ++ [fun s => ({ s with cur := cmdKey } : State).bundleStep cmdKey, State.choice]

/-- A step taken while a page is denied. -/
def State.underDenial (s : State) (d : Denial) (f : State → State) : State := { f { s with denied := some d } with denied := none }

/-- The step stands before a translation in the page: denied, it goes another way. -/
def State.waitsFor (s : State) (d : Denial) (f : State → State) : Bool := s.underDenial d f != f s

/-- Something waits for a translation in a page. -/
def State.pageWanted (s : State) (r : PageRequest) : Bool := (s.pageSteps r).any (s.waitsFor { req := r, sub := 8 })

/-- What waits for a denied page fails. -/
def State.denyPage (s : State) (d : Denial) : State :=
  (s.pageSteps d.req).foldl (fun t f => if t.waitsFor d f then t.underDenial d f else t) s

/-! ## Translation requests (R334, R369) -/

/-- The lowest free entry of the page-request tag table. -/
def State.freeTag (s : State) : Option Nat := (List.range 512).find? fun i => s.requests.all fun r => r.index != i

/-- A translation request for host space: granted, or a page request is sent while an entry is free. -/
def State.askHost (s : State) (r : PageRequest) (grant : Option (Nat × Bool)) : State :=
  if s.ats.any fun a => a.pasid == r.pasid && a.page == r.page then s
  else
    match grant with
    | some (hp, w) => { s with ats := s.ats ++ [{ pasid := r.pasid, page := r.page, hostPage := hp, write := w }] }
    | none =>
      if s.requests.any fun q => q.pasid == r.pasid && q.page == r.page then s
      else
        match s.freeTag with
        | none => s
        | some i => { s.post (.pageRequest i r.pasid r.page) with requests := s.requests ++ [{ r with index := i }] }

/-- PAGE_WALK_COMPLETE: a walk in device memory, or a translation request that something waits for. -/
def State.walkComplete (s : State) (cl slot va : Nat) (grant : Option (Nat × Bool)) : State :=
  if bit va 56 then
    let r : PageRequest := { index := 0, pasid := (s.slot slot).pasid.toNat, page := hostPage va }
    if s.pageWanted r then s.askHost r grant else s
  else s.walkDevice cl slot va
def execPageWalkComplete (cluster slot : Nat) (va : Nat) (grant : Option (Nat × Bool)) (s : State) : Host.Outcome State Fault Refusal := .next (s.walkComplete cluster slot va grant)

/-! ## Responses (R369, R394) -/

/-- The sub-cause of a failure. -/
def denialSub : PrgStatus → Option Nat
  | .success => none
  | .invalidRequest => some 8
  | .responseFailure => some 9

/-- PRG_RESPONSE: the entry is free; after a failure what waits for the page ends in a translation fault. -/
def State.prgResponse (s : State) (index : Nat) (status : PrgStatus) : State :=
  match s.requests.find? (fun r => r.index == index) with
  | none => s
  | some r =>
    let s := { s with requests := s.requests.filter fun q => q.index != index }
    match denialSub status with
    | none => s
    | some n => s.denyPage { req := r, sub := n }
def execPrgResponse (index : Nat) (status : PrgStatus) (s : State) : Host.Outcome State Fault Refusal := .next (s.prgResponse index status)

/-! ## Invalidation (R334) -/

/-- The access has used its translation and has still to be performed in the page. -/
def State.usesPage (s : State) (r : PageRequest) (a : Access) : Bool :=
  a.place != .performed && (a.place == .port || !a.got.isEmpty) && a.todo.any fun e => s.inPage r a.slot e.va

/-- ATS_INVALIDATION completes once every access that uses the translation has been performed. -/
def State.atsInvalidate (s : State) (pasid va : Nat) : State :=
  let r : PageRequest := { index := 0, pasid := pasid, page := hostPage va }
  let known := s.ats.any fun a => a.pasid == pasid && a.page == r.page
  if known && s.accs.any (s.usesPage r) then s
  else { s.post (.invalidated pasid va) with ats := s.ats.filter fun a => !(a.pasid == pasid && a.page == r.page) }
def execAtsInvalidation (pasid va : Nat) (s : State) : Host.Outcome State Fault Refusal := .next (s.atsInvalidate pasid va)

end Sys2Proof.Machine
end

