-- ==== Sys2Proof/Machine/NodeSteps.lean ====
section
/-! DEFINITION. The end of a node, and migrations (R46, R48, R163, R276, R277, R337, R367, R404, R421, R454). -/

namespace Sys2Proof.Machine

/-! ## The end of a node (R46, R163, R367) -/

/-- The running node's cores: those of the tile tasks. -/
def State.taskKeys (s : State) : List Nat := (s.cores.filter fun p => p.1 < cmdKey).map (·.1)

/-- Something of a tile task's accesses is still to be performed. -/
def State.accessesLeft (s : State) : Bool :=
  s.accs.any (fun a => a.core != cmdKey && !a.isPlace && !(a.isStream && a.inLoad)) || !s.clAccs.isEmpty

/-- Every task has ended, or halted because another one's record stopped the node. -/
def State.tasksOver (s : State) : Bool := s.taskKeys.all fun k => (s.core k).over || (s.core k).phase == .absent

/-- Every engine command of the node has completed. -/
def State.commandsOver (s : State) : Bool := s.cmds.all fun c => c.core == cmdKey

/-- The records of failed commands whose tasks halted before they reported them (R421): the node's status is unchanged. -/
def State.logChanErrs (s : State) (k : Nat) : State :=
  let p := s.recordPlace k
  let s := (s.core k).chanErr.foldl (fun s e => s.record k (s.mkRecord { e.trap with defer := true } 3 k true false 0 0 0 0 p.1 p.2)) s
  s.updCore k fun c => { c with chanErr := [] }

/-- A node that has stopped: the collective engine aborts, other commands end where they stand. -/
def State.cutNode (s : State) : State :=
  let s := s.collStop
  let s := { s with
    cmds := s.cmds.filter fun c => c.core == cmdKey
    accs := s.accs.filter fun (a : Access) => a.core == cmdKey || !a.isPlace }
  s.taskKeys.foldl State.logChanErrs s

/-- A slot that is ready or saved gains priority with every 64 nodes that others complete (R48). -/
def GraphSlot.age (g : GraphSlot) : GraphSlot :=
  if g.st == .ready || g.st == .saved then
    { g with waited := g.waited + 1, prio := if (g.waited + 1) % 64 = 0 then min 7 (g.prio + 1) else g.prio }
  else g

/-- The record of a node with its end status in word 1 (R337). -/
def ManifestRec.finish (w : Word) (r : ManifestRec) : ManifestRec := r ||| (w.setWidth 768 <<< 64)

/-- Sums of the stall summary, saturating (R454). -/
def State.sumCores (s : State) (f : Core → Nat) : Word := BitVec.ofNat 64 (min (2 ^ 64 - 1) ((s.taskKeys.map fun k => f (s.core k)).foldl (· + ·) 0))

/-- Align flits of a node that has ended count for no other (R310). -/
def Link.unalign (l : Link) : Link := { l with aligned := none, ctlIn := l.ctlIn.filter fun w => wireType w != 7 }

/-- The node ends: its status, its manifest record, the scribe's records, the priorities of the slots that wait. -/
def State.closeNode (s : State) (n : Node) : State :=
  let st := n.status.getD 0
  let s := s.scribe1 7 1 0x1FF 0 (BitVec.ofNat 64 (n.index.toNat + st.toNat * 2 ^ 32))
  let s := s.scribe1 0xB 0 0x1FF 0 (BitVec.ofNat 64 (Config.freeBits s.free 0))
  let s := s.scribe1 0xB 1 0x1FF 0 (s.sumCores Core.stallClk)
  let s := s.scribe1 0xB 2 0x1FF 0 (s.sumCores Core.fetchClk)
  let s := s.updSlot n.slot fun g => { g with status := some st, recs := modifyAt (ManifestRec.finish st) n.manifestAt g.recs }
  { s with
    slots := s.slots.map fun (p : Nat × GraphSlot) => if p.1 = n.slot then p else (p.1, p.2.age)
    links := s.links.map Link.unalign, node := none, free := s.free + 1 }

/-- NODE_END. -/
def State.nodeEnd (s : State) : State :=
  match s.node with
  | none => s
  | some n =>
    if !s.tasksOver || s.accessesLeft then s
    else if n.stopping then
      let t := s.cutNode
      t.closeNode (t.node.getD n)
    else if s.commandsOver then s.closeNode n
    else s
def execNodeEnd (s : State) : Host.Outcome State Fault Refusal := .next s.nodeEnd

/-! ## Migration (R276, R277, R404) -/

/-- The logical cycle from which an SSTEP is a boundary: no task has passed one at that cycle or later. -/
def State.boundaryAfter (s : State) : Nat :=
  if (s.node.map (·.aligned)).getD false then
    (s.taskKeys.map fun k =>
      let c := s.core k
      if c.over || c.phase == .absent then 0 else if c.phase == .sstep then c.sstepLc else c.lc.toNat).foldl max 0
  else 0

/-- A node of the slot's context runs. -/
def State.contextRuns (s : State) (slot : Nat) : Bool := s.node.any fun n => n.slot == slot

/-- MIGREQ asks for the move of a range; one that is refused moves nothing. While a move is pending a further request is ignored. -/
def State.migreq (s : State) (v : Word) : State :=
  let slot := s.regs.migctx
  let ix := bits v.toNat 0 10
  let r := s.rangeEntry slot ix
  let off := bits v.toNat 12 40 * 4096
  let tier := v.getLsbD 11
  let refused := !bit r.word3 13 || bit r.word3 8 || (s.contextRuns slot && !r.valid) || r.malformed || !paOk tier (off + r.limit - r.base)
  if s.migration.isSome then s
  else if refused then { s with regs := { s.regs with migreq := v, migstat := 3 } }
  else
    { s with
      regs := { s.regs with migreq := v, migstat := 1 }
      migration := some { slot := slot, index := ix, off := off, tier := tier, after := s.boundaryAfter } }
def execMigreq (v : Word) (s : State) : Host.Outcome State Fault Refusal := .next (s.migreq v)

/-- The move can begin: no node of the context runs, or every task of it is held and no command of it is outstanding. -/
def State.migrationReady (s : State) (m : Migration) : Bool :=
  !s.contextRuns m.slot
    || (s.taskKeys.any s.migrationHolds && s.taskKeys.all (fun k => s.migrationHolds k || (s.core k).over || (s.core k).phase == .absent)
        && s.cmds.all fun c =>
          match c.st with
          | .waiting | .running _ => false
          | .done | .failed | .cancelled => true)

/-- Entries of a list of bytes or lines that lie in n places from one key on, moved to another. -/
def movedKeys {α : Type} (src dst n : Nat) (m : Sparse α) : Sparse α := (m.filter fun p => decide (src ≤ p.1) && decide (p.1 < src + n)).map fun p => (p.1 - src + dst, p.2)

/-- A key lies in n bytes from a key on. -/
def inBytes (lo n key : Nat) : Bool := decide (lo ≤ key) && decide (key < lo + n)

/-- The copy engines read n bytes: they find the errors of the lines (R386, R387, R401). -/
def State.copyReads (s : State) (key n : Nat) : State :=
  (s.errs.filter fun e => inBytes key n (64 * e.1)).foldl (fun s e => s.meetLine srcCopy e.1) s

/-- Merge entries that an access of n bytes reaches (R269). -/
def State.touchSpan (s : State) (key n : Nat) : State :=
  { s with merges := s.merges.map fun m => if inBytes key n (64 * m.line) then { m with last := s.clk } else m }

/-- n bytes are copied, with the poison of the lines read, over whatever stood in the lines written (R388, R404). -/
def State.copyMemory (s : State) (src dst n : Nat) : State :=
  let s := ((s.copyReads src n).touchSpan src n).touchSpan dst n
  let kept := s.mem.filter fun p => !inBytes dst n p.1
  let lines := (s.poison.filter fun l => inBytes src n (64 * l)).map fun l => l - src / 64 + dst / 64
  let others := s.poison.filter fun l => !inBytes dst n (64 * l)
  { s with
    mem := (movedKeys src dst n s.mem).foldl (fun m p => Sparse.set 0 m p.1 p.2) kept
    errs := s.errs.filter fun e => !inBytes dst n (64 * e.1)
    poison := lines.foldl (fun l k => addSorted k l) others }

/-- MIGRATION_HOLD: from here on the packets for the context are held, and the range is copied. -/
def State.migrationHold (s : State) : State :=
  match s.migration with
  | none => s
  | some m =>
    if m.copied || !s.migrationReady m then s
    else
      let s := s.beginHold
      let r := s.rangeEntry m.slot m.index
      let s := s.copyMemory (memKey r.tier r.offset) (memKey m.tier m.off) (r.limit + 1 - r.base)
      { s with migration := s.migration.map fun x => { x with copied := true } }
def execMigrationHold (s : State) : Host.Outcome State Fault Refusal := .next s.migrationHold

/-- The key of the leaf entry of an address. -/
def State.leafKey (s : State) (va : Nat) : Nat → Nat → Option Nat
  | 0, _ => none
  | fuel + 1, key =>
    let ek := key + 8 * vaIndex (5 - fuel) va
    let e := s.memNat ek 8
    if !bit e 0 then none else if bit e 1 then some ek else s.leafKey va fuel (memKey (pteTier e) (ptePa e))

/-- The new leaf entry of a page of the range, with its place, as the tables stand. -/
def State.movedLeaf (s : State) (m : Migration) (r : Range) (va : Nat) : Option (Nat × Nat) :=
  let root := tableKey (s.slot m.slot).root.toNat 12
  match s.walk va 5 root, s.leafKey va 5 root with
  | .ok l, some k =>
    if bit l.pte 63 && bits l.pte 53 10 == r.index then
      let pa := (m.off + l.base - r.base) / 4096
      let e := l.pte - ptePa l.pte - (pteTier l.pte).toNat * 2 ^ 52
      some (k, e + pa % 2 ^ 40 * 4096 + m.tier.toNat * 2 ^ 52)
    else none
  | _, _ => none

/-- Step 4: the entry and its pages are rewritten and every cache is invalidated. -/
def State.rewriteRange (s : State) (m : Migration) : State :=
  let r := s.rangeEntry m.slot m.index
  let leaves := (List.range ((r.limit + 1 - r.base) / 4096)).filterMap fun i => s.movedLeaf m r (r.base + 4096 * i)
  let key := s.rangeKey m.slot m.index
  let s := s.memWrite (key + 16) (leBytes 8 m.off)
  let s := s.memWrite (key + 24) (leBytes 8 (r.word3 - r.tier.toNat * 2 ^ 11 + m.tier.toNat * 2 ^ 11))
  let s := leaves.foldl (fun s p => s.memWrite p.1 (leBytes 8 p.2)) s
  { s with clusters := [] }

/-- The packets for a context that stand next to be performed at the fabric interface. -/
def State.packetsFor (s : State) (slot : Nat) : List Packet :=
  let next (st : Stream427) : Option Packet := if st.agg then st.held.find? (fun p => p.seq == st.next) else st.release [] st.held
  (s.inPkts ++ s.streams427.filterMap next).filter fun p => (p.pcls == 0 && p.gslot == slot) || (p.pcls == 2 && p.aggSlot == slot)

/-- The tasks are released. The clocks of the hold do not count in any wait of theirs (R32). -/
def State.releaseTasks (s : State) (m : Migration) : State :=
  let s := s.scribeAt m.slot 9 1 0x1FF 0 (BitVec.ofNat 64 m.index)
  let from_ := m.heldFrom.getD s.clk
  { s with
    migration := none
    regs := { s.regs with migstat := 2 }
    cores := s.cores.map fun (p : Nat × Core) =>
      if p.1 = cmdKey then p else (p.1, { p.2 with held := p.2.held.map fun t0 => t0 + (s.clk - max t0 from_) }) }

/-- Step 5: once the packets that were held have been performed the tasks are released. -/
def State.afterMove (s : State) (m : Migration) : State :=
  if m.freed.any (s.packetsFor m.slot).contains then s else s.releaseTasks m

/-- MIGRATION_COMPLETE: the tables name the new place and the packets are released; then the tasks are. -/
def State.migrationComplete (s : State) : State :=
  match s.migration with
  | none => s
  | some m =>
    if !m.copied then s
    else if m.moved then s.afterMove m
    else
      let s := s.rewriteRange m
      let m := { m with moved := true, freed := s.packetsFor m.slot }
      { s with migration := some m }.afterMove m
def execMigrationComplete (s : State) : Host.Outcome State Fault Refusal := .next s.migrationComplete

end Sys2Proof.Machine
end

