-- ==== Sys2Proof/Machine/HostSteps.lean ====
section
/-! DEFINITION. The host's and the driver's steps: revocation and invalidation, accesses through BAR2 and AtomicOps, the patrol scrub and
the fault-address queue, the bad-page list, the scribe's control, clocks, service levels, resets, and plain register writes (R9, R265,
R268, R276, R324, R332, R333, R338, R368, R388, R389, R400-R402, R410, R439, R453-R456). -/

namespace Sys2Proof.Machine

/-! ## Revocation and invalidation (R332, R410) -/

/-- A range entry's words with another GEN. -/
def withGen (gen : Nat) (w : Nat) : Nat := w - bits w 224 20 * 2 ^ 224 + gen * 2 ^ 224

/-- RVK writes a new GEN into the entry and into every range cache that holds it. -/
def State.revoke (s : State) (slot index gen : Nat) : State :=
  let key := s.rangeKey slot index + 24
  let w := s.memNat key 8
  let s := s.memWrite key (leBytes 8 (w - bits w 32 20 * 2 ^ 32 + gen * 2 ^ 32))
  { s with clusters := s.clusters.map fun (p : Nat × Cluster) =>
      (p.1, { p.2 with ranges := p.2.ranges.map fun r =>
        if r.slot == slot && r.index == index then { r with words := BitVec.ofNat 512 (withGen gen r.words.toNat) } else r }) }

/-- A physical address as a key of memory, when R102 gives memory there. -/
def keyOk (key n : Nat) : Bool := if 2 ^ 52 ≤ key then paOk true (key - 2 ^ 52 + n - 1) else paOk false (key + n - 1)

/-- RVK. -/
def execRvk (v : Word) (s : State) : Host.Outcome State Fault Refusal :=
  let slot := bits v.toNat 52 6
  let index := bits v.toNat 0 10
  let gen := bits v.toNat 32 20
  if !keyOk (s.rangeKey slot index) 64 then .fault (.noSuchAddress (s.rangeKey slot index))
  else .next (if (s.rangeEntry slot index).gen = gen then s else s.revoke slot index gen)

/-- XLINV: the caches of one context, or of every one, are empty. -/
def State.invalidate (s : State) (v : Word) : State :=
  if v.getLsbD 6 then { s with clusters := [] }
  else
    let slot := bits v.toNat 0 6
    { s with clusters := s.clusters.map fun (p : Nat × Cluster) =>
        (p.1, { p.2 with ranges := p.2.ranges.filter fun r => r.slot != slot, pages := p.2.pages.filter fun r => r.slot != slot }) }
def execXlinv (v : Word) (s : State) : Host.Outcome State Fault Refusal := .next (s.invalidate v)

/-! ## Host accesses (R265, R268, R333, R388) -/

/-- What an AtomicOp writes: none where a CAS does not match. -/
def hostNew (n old : Nat) (v : Word) : HostAtomic → Option Nat
  | .fetchAdd => some ((old + v.toNat) % 2 ^ (8 * n))
  | .swap => some (v.toNat % 2 ^ (8 * n))
  | .cas c => if c.toNat % 2 ^ (8 * n) = old then some (v.toNat % 2 ^ (8 * n)) else none

/-- The service levels (R338): at L0 only management is served, at L1 memory of tier 1 only. -/
def State.served (s : State) (key : Nat) : Bool := s.level == 2 || (s.level == 1 && decide (2 ^ 52 ≤ key))

/-- The key of a byte of the BAR2 window. -/
def State.bar2Key (s : State) (off : Nat) : Nat := memKey (s.regs.b2win.getLsbD 52) (bits s.regs.b2win.toNat 36 16 * 2 ^ 36 + off)

/-- n bytes from an offset lie within the window. -/
def inBar2 (off n : Nat) : Bool := decide (0 < n) && decide (off + n ≤ 2 ^ 36)

/-- A request through BAR2 that names n bytes of memory, and whose turn at their controllers it is (R270). -/
def State.bar2 (s : State) (off n : Nat) (f : State → Nat → State) : Host.Outcome State Fault Refusal :=
  let key := s.bar2Key off
  if !inBar2 off n then .next s
  else if !keyOk key n then .fault (.noSuchAddress key)
  else if s.served key && s.portTurn hostPort key n then .next (f s key)
  else .next s

/-- An AtomicOp on a page with SYSAT: the write-queue atomic unit performs it as one. -/
def State.hostMerged (s : State) (key n : Nat) (op : HostAtomic) (v : Word) : State :=
  let old := s.memNat key n
  let t := s.unitReached key .host
  let t := match hostNew n old v op with
    | some w => t.memWrite key (leBytes n w)
    | none => t
  t.post (.atomic (BitVec.ofNat 64 old) false)

/-- The write of an AtomicOp on a page without SYSAT. -/
def State.hostWrite (s : State) (r : HostRmw) : State :=
  let t := match r.new with
    | some v => ((s.arriveAt hostPort r.key r.n).memWrite r.key (leBytes r.n v)).touch r.key r.n
    | none => s
  { t.post (.atomic (BitVec.ofNat 64 r.old) false) with hostRmw := none }

/-- HOST_ATOMICOP. On a page without SYSAT the step is taken twice: once for the read and once for the write, and what the device does
between them lies between them. -/
def State.hostAtomic (s : State) (key n : Nat) (op : HostAtomic) (v : Word) : State :=
  match s.hostRmw with
  | some r => if s.portTurn hostPort r.key r.n then s.hostWrite r else s
  | none =>
    let s := s.readsLine srcHost hostPort key n
    if (s.poisoned key n).isSome then
      (if (s.physAttrs key).1 then s.unitReached key .host else s).post (.atomic (BitVec.ofNat 64 (2 ^ (8 * n) - 1)) true)
    else if (s.physAttrs key).1 then s.hostMerged key n op v
    else
      let old := s.memNat key n
      { s with hostRmw := some { key := key, n := n, old := old, new := hostNew n old v op } }

def execHostAtomicop (off : Nat) (wide : Bool) (op : HostAtomic) (v : Word) (s : State) : Host.Outcome State Fault Refusal :=
  let n := wideBytes wide
  if off % n != 0 then .next s else s.bar2 off n fun s key => s.hostAtomic key n op v

/-- A read through BAR2. -/
def State.bar2Read (s : State) (off n key : Nat) : State :=
  let s := s.readsLine srcHost hostPort key n
  if (s.poisoned key n).isSome then s.post (.read off (List.replicate n 0xFF) true) else s.post (.read off (s.memBytes key n) false)
def execHostBar2Read (off len : Nat) (s : State) : Host.Outcome State Fault Refusal := s.bar2 off len fun s key => s.bar2Read off len key

/-- A posted write through BAR2; host requests wait for an AtomicOp that is between its read and its write. -/
def State.bar2Write (s : State) (key : Nat) (l : List Byte) : State :=
  if s.hostRmw.isSome then s else ((s.arriveAt hostPort key l.length).memWrite key l).touch key l.length
def execHostBar2Write (off : Nat) (data : List Byte) (s : State) : Host.Outcome State Fault Refusal :=
  s.bar2 off data.length fun s key => s.bar2Write key data

/-! ## The patrol scrub and the fault-address queue (R389, R400, R401) -/

/-- PATROL_SCRUB finds an error in a line. -/
def execPatrolScrub (tier : Bool) (pa : Nat) (uncorrectable : Bool) (s : State) : Host.Outcome State Fault Refusal :=
  let key := memKey tier (pa / 64 * 64)
  .next (if !paOk tier pa then s else if uncorrectable then s.uncorrected srcScrub key else if s.poison.contains (key / 64) then s else s.corrected srcScrub key)

/-- CE_WINDOW: a controller's counting window ends. -/
def State.nextCeWindow (s : State) (ctrl : Nat) : State :=
  let t0 := Sparse.get 0 s.ceWindows ctrl
  if t0 + 2 ^ s.regs.cewin ≤ s.clk then
    { s with ceCounts := s.ceCounts.filter fun p => p.1 % 2048 != ctrl, ceWindows := Sparse.set 0 s.ceWindows ctrl (t0 + 2 ^ s.regs.cewin) }
  else s
def execCeWindow (ctrl : Nat) (s : State) : Host.Outcome State Fault Refusal := .next (s.nextCeWindow ctrl)

/-! ## The bad-page list (R402) -/

/-- BPLADD: ignored while an entry is being committed. -/
def State.bplAdd (s : State) (v : Word) : State :=
  if s.regs.bplstat = 1 then s else { s with regs := { s.regs with bplstat := 1, bplpend := v } }
def execBpladd (v : Word) (s : State) : Host.Outcome State Fault Refusal := .next (s.bplAdd v)

/-- Bits of an entry that name its page. -/
def bplPage (v : Word) : Nat := bits v.toNat 12 41

/-- The entry is refused: the list is full, the entry is malformed or outside its tier, or the page is already listed. -/
def State.bplRefused (s : State) (v : Word) : Bool :=
  let w := v.toNat
  decide (1024 ≤ s.nv.bpl.length) || !bit w 63 || bits w 56 7 != 0 || decide (3 ≤ bits w 53 3) || bits w 0 12 != 0
    || !paOk (bit w 52) (bits w 12 40 * 4096) || s.nv.bpl.any fun x => bplPage x == bplPage v

/-- BPL_COMMIT. -/
def State.bplCommit (s : State) : State :=
  if s.regs.bplstat ≠ 1 then s
  else if s.bplRefused s.regs.bplpend then { s with regs := { s.regs with bplstat := 3 } }
  else { s with nv := { s.nv with bpl := s.nv.bpl ++ [s.regs.bplpend] }, regs := { s.regs with bplstat := 2 } }
def execBplCommit (s : State) : Host.Outcome State Fault Refusal := .next s.bplCommit

/-! ## The scribe's control (R455, R456) -/

/-- SCRCTL.FREEZE. -/
def State.freeze (s : State) : State := { s with scribe := { s.scribe with frozen := true, freezeIn := none } }
def execScrctlFreeze (s : State) : Host.Outcome State Fault Refusal := .next s.freeze

/-- SCRCTL.FROZEN, written with 1. -/
def State.unfreeze (s : State) : State := { s with scribe := { s.scribe with frozen := false, missed := 0 } }
def execScrctlFrozen (s : State) : Host.Outcome State Fault Refusal := .next s.unfreeze

/-! ## Clocks and service levels (R9, R16, R338) -/

/-- A new core clock: the scribe records it in the first clock at the new frequency. The part of a tick that has passed is the same part of the new clock's. -/
def State.setClock (s : State) (code mhz : Nat) : State :=
  { s with mhz := mhz, scribe := { s.scribe with part := s.scribe.part * mhz / s.mhz } }.scribe1 6 code 0x1FF 0 (BitVec.ofNat 64 mhz)

/-- CLOCK_CHANGE: by power, temperature or service level. -/
def execClockChange (code mhz : Nat) (s : State) : Host.Outcome State Fault Refusal :=
  .next (if 3 ≤ code || mhz = 0 then s else s.setClock code mhz)

/-- The clusters' clock at a service level, in MHz. -/
def levelClock (level : Nat) : Nat := if level = 1 then 1125 else 2250

/-- SERVICE_LEVEL_CHANGE: from L0 to L1 by firmware that has been verified, and from L1 to L2 while no node runs. -/
def State.changeLevel (s : State) (level : Nat) : State :=
  let ok := (s.level == 0 && level == 1 && !s.bootFailed && !s.firmware.isEmpty) || (s.level == 1 && level == 2 && s.node.isNone)
  if ok then { s with level := level }.setClock 2 (levelClock level) else s
def execServiceLevelChange (level : Fin 3) (s : State) : Host.Outcome State Fault Refusal := .next (s.changeLevel level.val)

/-! ## Resets (R335, R402, R453) -/

/-- What no reset touches: non-volatile storage, the device id, what the host has received, what is still to come from outside, and the
count of free values. -/
def State.keepAcross (s t : State) : State := { t with nv := s.nv, deviceId := s.deviceId, host := s.host, agenda := s.agenda, free := s.free }

/-- COLD_RESET. -/
def execColdReset (s : State) : Host.Outcome State Fault Refusal := .next (s.keepAcross State.reset)

/-- WARM_RESET: the scribe survives, and memory keeps what it holds, errors in it included. -/
def execWarmReset (s : State) : Host.Outcome State Fault Refusal :=
  .next { s.keepAcross State.reset with scribe := { s.scribe with sst := false }, mem := s.mem, poison := s.poison, errs := s.errs }

/-! ## Register writes -/

/-- A counter that writing 1 clears bit by bit. -/
def w1c {n : Nat} (old : BitVec n) (v : Word) : BitVec n := old &&& ~~~(v.setWidth n)

/-- A field of a register: n bits from bit lo, the rest zero. -/
def keepBits (v : Word) (lo n : Nat) : Word := BitVec.ofNat 64 (bits v.toNat lo n * 2 ^ lo)

/-- The register of a slot at an offset, other than GCTL. -/
def GraphSlot.write (g : GraphSlot) (r : Nat) (v : Word) : GraphSlot :=
  match r with
  | 0x00 => { g with prog := keepBits v 0 57 }
  | 0x08 => { g with rtab := keepBits v 12 40 ||| keepBits v 52 1 }
  | 0x10 => { g with root := keepBits v 12 40 ||| keepBits v 52 1 }
  | 0x18 => { g with seed := v.setWidth 32 }
  | 0x20 => { g with args := keepBits v 0 57 }
  | 0x28 => { g with daddr := v }
  | _ => g

/-- A register of a slot, ignored unless GSTATE reads idle or faulted (R324). -/
def State.writeSlot (s : State) (n r : Nat) (v : Word) : State :=
  if r = 0x30 then s.writeGctl n v
  else if (s.slot n).st == .idle || (s.slot n).st == .faulted then s.setSlot n ((s.slot n).write r v)
  else s

/-- LNKCTL: EN and VEC are kept, RETRAIN and DOWN act (R439). -/
def State.writeLnkctl (s : State) (j : Nat) (v : Word) : State :=
  let s := s.updLink j fun l => { l with en := v.getLsbD 16, vec := BitVec.ofNat 8 (bits v.toNat 8 8) }
  let s := if v.getLsbD 1 then s.askRetrain j else s
  if v.getLsbD 0 then s.declareDead j else s

/-- SCRCTL (R456). -/
def State.writeScrctl (s : State) (v : Word) : State :=
  let s := { s with scribe := { s.scribe with sst := v.getLsbD 16 } }
  let s := if v.getLsbD 0 then s.unfreeze else s
  if v.getLsbD 1 then s.freeze else s

/-- The driver's plain registers; an offset that names none, or one that is read only, is not written. -/
def HostRegs.write (g : HostRegs) (off : Nat) (v : Word) : HostRegs :=
  match off with
  | 0x000020 => { g with b2win := keepBits v 52 1 ||| keepBits v 36 16 }
  | 0x180000 => { g with migthr := v.setWidth 16 }
  | 0x180008 => { g with mhqbase := keepBits v 5 47 }
  | 0x180018 => { g with mhqtail := v.setWidth 10 }
  | 0x180020 => { g with mhqlost := w1c g.mhqlost v }
  | 0x180048 => { g with migctx := bits v.toNat 0 6 }
  | 0x1A0000 => { g with tlbase := keepBits v 12 40 }
  | 0x1A0008 => { g with tlctl := keepBits v 16 4 ||| keepBits v 0 9 }
  | 0x1A0018 => { g with tltail := v.setWidth 32 }
  | 0x1A0020 => { g with tllost := w1c g.tllost v }
  | 0x1C0008 => { g with faqtail := v.setWidth 32 }
  | 0x1C0010 => { g with faqlost := w1c g.faqlost v }
  | 0x1C0018 => { g with faqctl := keepBits v 16 16 ||| keepBits v 0 9 }
  | 0x1C0020 => { g with cewin := if 20 ≤ bits v.toNat 0 6 ∧ bits v.toNat 0 6 ≤ 40 then bits v.toNat 0 6 else g.cewin }
  | 0x1C0118 => { g with bplidx := v.setWidth 10 }
  | _ => g

/-- A write of 64 bits to a register of BAR0, those with steps of their own included. -/
def State.writeReg (s : State) (off : Nat) (v : Word) : State :=
  if off = 0x000008 then s.invalidate v
  else if 0x080000 ≤ off && off < 0x081000 then s.writeSlot ((off - 0x080000) / 0x40) (off % 0x40) v
  else if off = 0x180040 then s.migreq v
  else if off = 0x1C0108 then s.bplAdd v
  else if off = 0x1F0008 then s.writeScrctl v
  else if 0x1E0000 ≤ off && off < 0x1E0000 + 12 * 0x20 && off % 0x20 = 0x10 then s.writeLnkctl ((off - 0x1E0000) / 0x20) v
  else { s with regs := s.regs.write off v }

/-! ## Register reads (R2, R276, R324, R332, R333, R368, R400, R402, R410, R439, R456) -/

/-- A Bool as a field of one bit. -/
def fieldBit (b : Bool) (lo : Nat) : Nat := b.toNat * 2 ^ lo

/-- GSTATE's code of a slot's state. -/
def SlotState.code : SlotState → Nat
  | .idle => 0
  | .ready => 1
  | .running => 2
  | .saved => 3
  | .faulted => 4

/-- LNKSTAT's code of a link's state. -/
def LinkState.code : LinkState → Nat
  | .untrained => 0
  | .up => 1
  | .retraining => 2
  | .dead => 3

/-- What a register of a slot reads as. -/
def GraphSlot.read (g : GraphSlot) : Nat → Nat
  | 0x00 => g.prog.toNat
  | 0x08 => g.rtab.toNat
  | 0x10 => g.root.toNat
  | 0x18 => g.seed.toNat
  | 0x20 => g.args.toNat
  | 0x28 => g.daddr.toNat
  | 0x30 => g.pasid.toNat * 2 ^ 20 + fieldBit g.valid 16 + g.vec.toNat
  | 0x38 => g.discarded.toNat * 2 ^ 32 + g.prio * 2 ^ 8 + g.st.code
  | _ => 0

/-- What a register of a link reads as; FCRC errors and retrains saturate (R439). -/
def Link.read (l : Link) : Nat → Nat
  | 0x00 => min l.fcrcErrors (2 ^ 32 - 1) * 2 ^ 32 + min l.retrains (2 ^ 16 - 1) * 2 ^ 16 + fieldBit l.failover 2 + l.state.code
  | 0x08 => l.replays % 2 ^ 32 * 2 ^ 32 + l.naks % 2 ^ 32
  | 0x10 => fieldBit l.en 16 + l.vec.toNat * 2 ^ 8
  | _ => 0

/-- What the driver's plain registers read as; an offset that names none reads as zero. -/
def HostRegs.read (g : HostRegs) : Nat → Nat
  | 0x000020 => g.b2win.toNat
  | 0x180000 => g.migthr.toNat
  | 0x180008 => g.mhqbase.toNat
  | 0x180010 => g.mhqhead.toNat
  | 0x180018 => g.mhqtail.toNat
  | 0x180020 => g.mhqlost.toNat
  | 0x180050 => g.migstat
  | 0x1A0000 => g.tlbase.toNat
  | 0x1A0008 => g.tlctl.toNat
  | 0x1A0010 => g.tlhead.toNat
  | 0x1A0018 => g.tltail.toNat
  | 0x1A0020 => g.tllost.toNat
  | 0x1C0000 => g.faqhead.toNat
  | 0x1C0008 => g.faqtail.toNat
  | 0x1C0010 => g.faqlost.toNat
  | 0x1C0018 => g.faqctl.toNat
  | 0x1C0020 => g.cewin
  | 0x1C0110 => g.bplstat
  | 0x1C0118 => g.bplidx.toNat
  | _ => 0

/-- DEVINFO: the device id, the service level and silicon revision 0x01. -/
def State.devinfo (s : State) : Nat := 2 ^ 24 + s.level * 2 ^ 16 + s.deviceId.toNat

/-- BPLDATA: the entry at BPLIDX, zero at or above BPLCNT. -/
def State.bpldata (s : State) : Nat := (s.nv.bpl.getD s.regs.bplidx.toNat 0).toNat

/-- Word w of a table of entries that registers show. -/
def entryWord {n : Nat} (e : BitVec n) (w : Nat) : Nat := bits e.toNat (64 * w) 64

/-- SCRCTL: SST and FROZEN; FREEZE is written only. -/
def Scribe.ctl (r : Scribe) : Nat := fieldBit r.sst 16 + fieldBit r.frozen 0

/-- The registers that are written only. -/
def writeOnly (off : Nat) : Bool :=
  off == 0x000008 || off == 0x000018 || off == 0x180040 || off == 0x180048 || off == 0x1C0108 || (decide (0x100000 ≤ off) && decide (off < 0x100200))

/-- What a read of 64 bits of a register of BAR0 gives: none where it is written only. No read of a register changes anything. XLSTAT and
RVKSTAT read zero, since an invalidation and a revocation are each one step. -/
def State.readReg (s : State) (off : Nat) : Option Word :=
  let v : Nat :=
    if off = 0x000000 then s.devinfo
    else if 0x080000 ≤ off && off < 0x081000 then (s.slot ((off - 0x080000) / 0x40)).read (off % 0x40)
    else if 0x1E0000 ≤ off && off < 0x1E0000 + 12 * 0x20 then ((s.links[(off - 0x1E0000) / 0x20]?).getD ({} : Link)).read (off % 0x20)
    else if 0x1C1000 ≤ off && off < 0x1C2000 then entryWord (Sparse.get 0 s.regs.faq ((off - 0x1C1000) / 16)) (off % 16 / 8)
    else if off = 0x1C0100 then s.nv.bpl.length
    else if off = 0x1C0120 then s.bpldata
    else if off = 0x1F0000 then s.scribe.head.toNat
    else if off = 0x1F0008 then s.scribe.ctl
    else if off = 0x1F0010 then s.scribe.missed.toNat
    else if 0x200000 ≤ off && off < 0x240000 then entryWord (s.scribe.record ((off - 0x200000) / 32)) (off % 32 / 8)
    else s.regs.read off
  if writeOnly off then none else some (BitVec.ofNat 64 v)

/-- REGISTER_WRITE. -/
def execRegisterWrite (off : Nat) (v : Word) (s : State) : Host.Outcome State Fault Refusal :=
  if off = 0x000018 then
    let slot := bits v.toNat 52 6
    let index := bits v.toNat 0 10
    if !keyOk (s.rangeKey slot index) 64 then .fault (.noSuchAddress (s.rangeKey slot index))
    else .next (if (s.rangeEntry slot index).gen = bits v.toNat 32 20 then s else s.revoke slot index (bits v.toNat 32 20))
  else .next (s.writeReg off v)

end Sys2Proof.Machine
end

