-- ==== Sys2Proof/Machine/Spdm.lean ====
section
/-! DEFINITION. Attestation: the SPDM responder, its measurement blocks and signatures, and the boot ROM (R335, R336, R456). -/

namespace Sys2Proof.Machine

def State.answer (s : State) (r : SpdmReply) : State := s.post (.spdm r)

/-! ## Sessions (R335) -/

/-- GET_VERSION begins a session. -/
def execGetVersion (s : State) : Host.Outcome State Fault Refusal :=
  .next ({ s with spdm := { versioned := true } }.answer .version)

/-- GET_CAPABILITIES follows GET_VERSION. -/
def execGetCapabilities (s : State) : Host.Outcome State Fault Refusal :=
  .next (if s.spdm.versioned then ({ s with spdm := { s.spdm with capable := true } }).answer .capabilities else s.answer .error)

/-- NEGOTIATE_ALGORITHMS follows GET_CAPABILITIES: SHA-256 is the hash. -/
def execNegotiateAlgorithms (sha256Offered : Bool) (s : State) : Host.Outcome State Fault Refusal :=
  .next (if s.spdm.capable && sha256Offered then ({ s with spdm := { s.spdm with negotiated := true } }).answer .algorithms else s.answer .error)

/-- A request that needs a negotiated session. -/
def State.inSession (s : State) (f : State → State) : State := if s.spdm.negotiated then f s else s.answer .error

/-! ## Signatures (R335) -/

/-- The leaves of two levels of trees of height 20. -/
def lmsLeaves : Nat := 2 ^ 40

/-- A signature: its leaf index is committed to non-volatile storage before anything leaves. None when every leaf has been used. -/
def State.sign (s : State) (message : List Byte) : Option (List Byte × State) :=
  if lmsLeaves ≤ s.nv.leaf then none
  else some (Config.lmsSignature s.nv.leaf (leNat (sha256 message)), { s with nv := { s.nv with leaf := s.nv.leaf + 1 } })

/-! ## Certificates (R335) -/

/-- GET_DIGESTS. -/
def execGetDigests (s : State) : Host.Outcome State Fault Refusal :=
  .next (s.inSession fun s => s.answer (.digest (sha256 Config.certificateChain)))

/-- GET_CERTIFICATE: part of the chain in slot 0. -/
def State.certificate (s : State) (slot off len : Nat) : State :=
  let chain := Config.certificateChain
  if slot ≠ 0 || chain.length ≤ off then s.answer .error
  else s.answer (.certificate ((chain.drop off).take len) (chain.length - (off + len)))
def execGetCertificate (slot off len : Nat) (s : State) : Host.Outcome State Fault Refusal := .next (s.inSession (·.certificate slot off len))

/-- CHALLENGE: answered with a signature over the nonce and the chain. -/
def State.challenge (s : State) (slot : Nat) (nonce : List Byte) : State :=
  let digest := sha256 Config.certificateChain
  if slot ≠ 0 then s.answer .error
  else
    match s.sign (digest ++ nonce) with
    | some (sig, t) => t.answer (.challenge digest nonce sig)
    | none => s.answer .error
def execChallenge (slot : Nat) (nonce : List Byte) (s : State) : Host.Outcome State Fault Refusal := .next (s.inSession (·.challenge slot nonce))

/-! ## Measurements (R336, R456) -/

/-- The places in the ring of the records in block i of the scribe's eight, which run from the oldest on. -/
def Scribe.blockPlaces (r : Scribe) (i : Nat) : List Nat :=
  let n := min 8192 r.ring.length
  (((List.range n).map fun k => (r.head.toNat + 2 ^ 32 - n + k) % 8192).drop (1024 * i)).take 1024

/-- A measurement block: a firmware digest, the last closed run manifest of a slot, or 1,024 records of the scribe. -/
def State.block (s : State) (b : Nat) : Option (List Byte) :=
  if 1 ≤ b && b ≤ 15 then (s.firmware[b - 1]?).map fun d => leBytes 32 d.toNat
  else if 0x80 ≤ b && b ≤ 0xBF then some (s.slot (b - 0x80)).closed
  else if 0xC0 ≤ b && b ≤ 0xC7 then some ((s.scribe.blockPlaces (b - 0xC0)).flatMap fun p => leBytes 32 (s.scribe.record p).toNat)
  else none

/-- The blocks that carry the DMTF raw bit-stream type: the run manifests. -/
def rawBlock (b : Nat) : Bool := decide (0x80 ≤ b) && decide (b ≤ 0xBF)

/-- A block as an answer holds it. -/
def State.blockAt (s : State) (b : Nat) : Option (Nat × Bool × List Byte) := (s.block b).map (b, rawBlock b, ·)

/-- Every block that there is. -/
def State.allBlocks (s : State) : List (Nat × Bool × List Byte) := (List.range 256).filterMap s.blockAt

/-- The blocks that a request names: one, or with 0xFF all of them. -/
def State.blocksOf (s : State) (b : Nat) : Option (List (Nat × Bool × List Byte)) :=
  if b = 0xFF then some s.allBlocks else (s.blockAt b).map fun l => [l]

/-- Blocks have been read; a BAD record among them starts the scribe's freeze (R455). -/
def State.blocksRead (s : State) (l : List (Nat × Bool × List Byte)) : State :=
  if l.any fun x => decide (0xC0 ≤ x.1) && (s.scribe.blockPlaces (x.1 - 0xC0)).any s.scribe.bad.contains then { s with scribe := s.scribe.findBad } else s

/-- GET_MEASUREMENTS; block 0 asks for their number. -/
def State.measure (s : State) (b : Nat) (signed : Bool) (nonce : List Byte) : State :=
  match (if b = 0 then some [] else s.blocksOf b) with
  | none => s.answer .error
  | some l =>
    let s := s.blocksRead l
    if !signed then s.answer (if b = 0 then .blockCount s.allBlocks.length else .measurements l none)
    else
      match s.sign (l.flatMap (·.2.2) ++ nonce) with
      | some (sig, t) => t.answer (.measurements l (some sig))
      | none => s.answer .error
def execGetMeasurements (block : Nat) (signed : Bool) (nonce : List Byte) (s : State) : Host.Outcome State Fault Refusal :=
  .next (s.inSession (·.measure block signed nonce))

/-! ## The boot ROM (R336) -/

/-- BOOT_FIRMWARE_VERIFY: an image that verifies is run and measured in load order; after one that fails the device stays at L0. -/
def State.bootVerify (s : State) (index : Nat) (image : List Byte) : State :=
  if s.level ≠ 0 || s.bootFailed || index ≠ s.firmware.length + 1 || 15 < index then s
  else if Config.firmwareVerifies index image then { s with firmware := s.firmware ++ [BitVec.ofNat 256 (leNat (sha256 image))] }
  else { s with bootFailed := true }
def execBootFirmwareVerify (index : Nat) (image : List Byte) (s : State) : Host.Outcome State Fault Refusal := .next (s.bootVerify index image)

end Sys2Proof.Machine
end

