-- ==== Sys2Proof/Machine/Dispatch.lean ====
section
/-! DEFINITION. The meaning of each operation: one arm for each constructor of `Instr`. -/

namespace Sys2Proof.Machine

def exec (i : Instr) (s : State) : Host.Outcome State Fault Refusal :=
  match i with
  | .nop => Sys2Proof.Machine.execNop s
  | .br off => Sys2Proof.Machine.execBr off s
  | .call off => Sys2Proof.Machine.execCall off s
  | .bri a => Sys2Proof.Machine.execBri a s
  | .ret => Sys2Proof.Machine.execRet s
  | .loop a body => Sys2Proof.Machine.execLoop a body s
  | .endt => Sys2Proof.Machine.execEndt s
  | .align => Sys2Proof.Machine.execAlign s
  | .sstep exchange => Sys2Proof.Machine.execSstep exchange s
  | .fence kind sco => Sys2Proof.Machine.execFence kind sco s
  | .qmark => Sys2Proof.Machine.execQmark s
  | .waitcImm ch imm => Sys2Proof.Machine.execWaitcImm ch imm s
  | .waitcReg ch a => Sys2Proof.Machine.execWaitcReg ch a s
  | .trap code => Sys2Proof.Machine.execTrap code s
  | .rft => Sys2Proof.Machine.execRft s
  | .rewind => Sys2Proof.Machine.execRewind s
  | .csrr d csr => Sys2Proof.Machine.execCsrr d csr s
  | .csrw csr a => Sys2Proof.Machine.execCsrw csr a s
  | .lcrd d => Sys2Proof.Machine.execLcrd d s
  | .plog pd pa pb fn => Sys2Proof.Machine.execPlog pd pa pb fn s
  | .movps d mask => Sys2Proof.Machine.execMovps d mask s
  | .movsp a mask => Sys2Proof.Machine.execMovsp a mask s
  | .launch a b node => Sys2Proof.Machine.execLaunch a b node s
  | .nodew d => Sys2Proof.Machine.execNodew d s
  | .sigh a b vec => Sys2Proof.Machine.execSigh a b vec s
  | .yield => Sys2Proof.Machine.execYield s
  | .gdone => Sys2Proof.Machine.execGdone s
  | .add d a b => Sys2Proof.Machine.execAdd d a b s
  | .sub d a b => Sys2Proof.Machine.execSub d a b s
  | .addi d a imm => Sys2Proof.Machine.execAddi d a imm s
  | .mul d a b => Sys2Proof.Machine.execMul d a b s
  | .mulh d a b => Sys2Proof.Machine.execMulh d a b s
  | .mulhn d a b => Sys2Proof.Machine.execMulhn d a b s
  | .div d a b => Sys2Proof.Machine.execDiv d a b s
  | .divn d a b => Sys2Proof.Machine.execDivn d a b s
  | .rem d a b => Sys2Proof.Machine.execRem d a b s
  | .remn d a b => Sys2Proof.Machine.execRemn d a b s
  | .and d a b => Sys2Proof.Machine.execAnd d a b s
  | .or d a b => Sys2Proof.Machine.execOr d a b s
  | .xor d a b => Sys2Proof.Machine.execXor d a b s
  | .andi d a imm => Sys2Proof.Machine.execAndi d a imm s
  | .ori d a imm => Sys2Proof.Machine.execOri d a imm s
  | .xori d a imm => Sys2Proof.Machine.execXori d a imm s
  | .shl d a b => Sys2Proof.Machine.execShl d a b s
  | .shr d a b => Sys2Proof.Machine.execShr d a b s
  | .sha d a b => Sys2Proof.Machine.execSha d a b s
  | .shli d a n => Sys2Proof.Machine.execShli d a n s
  | .shri d a n => Sys2Proof.Machine.execShri d a n s
  | .shai d a n => Sys2Proof.Machine.execShai d a n s
  | .min d a b => Sys2Proof.Machine.execMin d a b s
  | .max d a b => Sys2Proof.Machine.execMax d a b s
  | .minn d a b => Sys2Proof.Machine.execMinn d a b s
  | .maxn d a b => Sys2Proof.Machine.execMaxn d a b s
  | .li d imm => Sys2Proof.Machine.execLi d imm s
  | .lih d imm => Sys2Proof.Machine.execLih d imm s
  | .cmp pd a b cc => Sys2Proof.Machine.execCmp pd a b cc s
  | .cmpi pd a cc imm => Sys2Proof.Machine.execCmpi pd a cc imm s
  | .sel d a b p => Sys2Proof.Machine.execSel d a b p s
  | .clz d a => Sys2Proof.Machine.execClz d a s
  | .popc d a => Sys2Proof.Machine.execPopc d a s
  | .bfx d a pos len => Sys2Proof.Machine.execBfx d a pos len s
  | .bfi d a b pos len => Sys2Proof.Machine.execBfi d a b pos len s
  | .addr d a b x => Sys2Proof.Machine.execAddr d a b x s
  | .chkeq a b => Sys2Proof.Machine.execChkeq a b s
  | .sfadd d a b rm => Sys2Proof.Machine.execSfadd d a b rm s
  | .sfmul d a b rm => Sys2Proof.Machine.execSfmul d a b rm s
  | .sffma d a b c rm => Sys2Proof.Machine.execSffma d a b c rm s
  | .sfcmp pd a b cc => Sys2Proof.Machine.execSfcmp pd a b cc s
  | .scvt d a sf df rm ov => Sys2Proof.Machine.execScvt d a sf df rm ov s
  | .vadd vd va vb m ty => Sys2Proof.Machine.execVadd vd va vb m ty s
  | .vsub vd va vb m ty => Sys2Proof.Machine.execVsub vd va vb m ty s
  | .vmul vd va vb m ty => Sys2Proof.Machine.execVmul vd va vb m ty s
  | .vmulh vd va vb m ty => Sys2Proof.Machine.execVmulh vd va vb m ty s
  | .vmin vd va vb m ty => Sys2Proof.Machine.execVmin vd va vb m ty s
  | .vmax vd va vb m ty => Sys2Proof.Machine.execVmax vd va vb m ty s
  | .vand vd va vb m ty => Sys2Proof.Machine.execVand vd va vb m ty s
  | .vor vd va vb m ty => Sys2Proof.Machine.execVor vd va vb m ty s
  | .vxor vd va vb m ty => Sys2Proof.Machine.execVxor vd va vb m ty s
  | .vshl vd va vb m ty => Sys2Proof.Machine.execVshl vd va vb m ty s
  | .vshr vd va vb m ty => Sys2Proof.Machine.execVshr vd va vb m ty s
  | .vsha vd va vb m ty => Sys2Proof.Machine.execVsha vd va vb m ty s
  | .vabs vd va m ty => Sys2Proof.Machine.execVabs vd va m ty s
  | .vfadd vd va vb m sm rm => Sys2Proof.Machine.execVfadd vd va vb m sm rm s
  | .vfsub vd va vb m sm rm => Sys2Proof.Machine.execVfsub vd va vb m sm rm s
  | .vfmul vd va vb m sm rm => Sys2Proof.Machine.execVfmul vd va vb m sm rm s
  | .vfma vd va vb vc m sm rm => Sys2Proof.Machine.execVfma vd va vb vc m sm rm s
  | .vfmin vd va vb m sm => Sys2Proof.Machine.execVfmin vd va vb m sm s
  | .vfmax vd va vb m sm => Sys2Proof.Machine.execVfmax vd va vb m sm s
  | .vfun vd va m fn sm rm => Sys2Proof.Machine.execVfun vd va m fn sm rm s
  | .vadds vd va sa m ty => Sys2Proof.Machine.execVadds vd va sa m ty s
  | .vmuls vd va sa m ty => Sys2Proof.Machine.execVmuls vd va sa m ty s
  | .vfadds vd va sa m sm rm => Sys2Proof.Machine.execVfadds vd va sa m sm rm s
  | .vfmuls vd va sa m sm rm => Sys2Proof.Machine.execVfmuls vd va sa m sm rm s
  | .vfmas vd va sa m sm rm => Sys2Proof.Machine.execVfmas vd va sa m sm rm s
  | .vcmp md va vb m cc w => Sys2Proof.Machine.execVcmp md va vb m cc w s
  | .vfcmp md va vb m cc w => Sys2Proof.Machine.execVfcmp md va vb m cc w s
  | .vtcmp md va vb m ty cc w => Sys2Proof.Machine.execVtcmp md va vb m ty cc w s
  | .vsel vd va vb m => Sys2Proof.Machine.execVsel vd va vb m s
  | .mlog md ma mb fn => Sys2Proof.Machine.execMlog md ma mb fn s
  | .mpop d ma => Sys2Proof.Machine.execMpop d ma s
  | .viota vd m => Sys2Proof.Machine.execViota vd m s
  | .vcvt vd va sf df rm ov m => Sys2Proof.Machine.execVcvt vd va sf df rm ov m s
  | .vpack vd va sf df rm ov part => Sys2Proof.Machine.execVpack vd va sf df rm ov part s
  | .vunpk vd va sf df rm ov part => Sys2Proof.Machine.execVunpk vd va sf df rm ov part s
  | .vperm vd va vb m => Sys2Proof.Machine.execVperm vd va vb m s
  | .vshuf vd va vb fn k m => Sys2Proof.Machine.execVshuf vd va vb fn k m s
  | .vbcast vd sa m ty => Sys2Proof.Machine.execVbcast vd sa m ty s
  | .vext d va ln => Sys2Proof.Machine.execVext d va ln s
  | .vins vd sa ln => Sys2Proof.Machine.execVins vd sa ln s
  | .vred d va m isUnsigned fn => Sys2Proof.Machine.execVred d va m isUnsigned fn s
  | .vfred d va m fn rm => Sys2Proof.Machine.execVfred d va m fn rm s
  | .vpop vd q => Sys2Proof.Machine.execVpop vd q s
  | .vmov vd va m => Sys2Proof.Machine.execVmov vd va m s
  | .movtc t a => Sys2Proof.Machine.execMovtc t a s
  | .movfc d t => Sys2Proof.Machine.execMovfc d t s
  | .tld t bs tr tc tagx => Sys2Proof.Machine.execTld t bs tr tc tagx s
  | .tzero t => Sys2Proof.Machine.execTzero t s
  | .mma aw ta tb neg clr sum => Sys2Proof.Machine.execMma aw ta tb neg clr sum s
  | .mmt aw ta tb neg clr sum => Sys2Proof.Machine.execMmt aw ta tb neg clr sum s
  | .aclr aw => Sys2Proof.Machine.execAclr aw s
  | .ald row col ncol nrow bs => Sys2Proof.Machine.execAld row col ncol nrow bs s
  | .acpy row col ncol nrow bs => Sys2Proof.Machine.execAcpy row col ncol nrow bs s
  | .drain aw q nrow df rm ov scl a => Sys2Proof.Machine.execDrain aw q nrow df rm ov scl a s
  | .agive aw => Sys2Proof.Machine.execAgive aw s
  | .qclr q => Sys2Proof.Machine.execQclr q s
  | .qcnt d q => Sys2Proof.Machine.execQcnt d q s
  | .ld d bs off sz sg sp tc tagx ord sco => Sys2Proof.Machine.execLd d bs off sz sg sp tc tagx ord sco s
  | .st d bs off sz sp tc tagx ord sco => Sys2Proof.Machine.execSt d bs off sz sp tc tagx ord sco s
  | .vld vd bs off str m sp tc tagx => Sys2Proof.Machine.execVld vd bs off str m sp tc tagx s
  | .vst vd bs off str m sp tc tagx => Sys2Proof.Machine.execVst vd bs off str m sp tc tagx s
  | .vldg vd vi bs m sp sc => Sys2Proof.Machine.execVldg vd vi bs m sp sc s
  | .vsts vd vi bs m sp sc => Sys2Proof.Machine.execVsts vd vi bs m sp sc s
  | .ldw d w off sz sg => Sys2Proof.Machine.execLdw d w off sz sg s
  | .vldw vd w off => Sys2Proof.Machine.execVldw vd w off s
  | .give tile out cnt => Sys2Proof.Machine.execGive tile out cnt s
  | .tagrd d tile => Sys2Proof.Machine.execTagrd d tile s
  | .tfmt tile fmt => Sys2Proof.Machine.execTfmt tile fmt s
  | .sbind f a => Sys2Proof.Machine.execSbind f a s
  | .sfree f => Sys2Proof.Machine.execSfree f s
  | .copygo ch a => Sys2Proof.Machine.execCopygo ch a s
  | .qst q bs off => Sys2Proof.Machine.execQst q bs off s
  | .atom d bs b c opk wide sp sco => Sys2Proof.Machine.execAtom d bs b c opk wide sp sco s
  | .atomd bs b opk wide sco => Sys2Proof.Machine.execAtomd bs b opk wide sco s
  | .casw d bs x y four sco => Sys2Proof.Machine.execCasw d bs x y four sco s
  | .enq d bs b => Sys2Proof.Machine.execEnq d bs b s
  | .chase d bs cnt off => Sys2Proof.Machine.execChase d bs cnt off s
  | .rst bs b chip wide => Sys2Proof.Machine.execRst bs b chip wide s
  | .ratom d bs b chip opk wide => Sys2Proof.Machine.execRatom d bs b chip opk wide s
  | .rld d bs chip wide => Sys2Proof.Machine.execRld d bs chip wide s
  | .flusha chip => Sys2Proof.Machine.execFlusha chip s
  | .flushaAll => Sys2Proof.Machine.execFlushaAll s
  | .send v circ lanes => Sys2Proof.Machine.execSend v circ lanes s
  | .recv v circ delta lanes => Sys2Proof.Machine.execRecv v circ delta lanes s
  | .sendt tile circ => Sys2Proof.Machine.execSendt tile circ s
  | .recvt tile circ delta => Sys2Proof.Machine.execRecvt tile circ delta s
  | .qsend q circ nrow => Sys2Proof.Machine.execQsend q circ nrow s
  | .coll tmpl a ch inc => Sys2Proof.Machine.execColl tmpl a ch inc s
  | .ksrch a stk ch inc => Sys2Proof.Machine.execKsrch a stk ch inc s
  | .kred a stk ch inc => Sys2Proof.Machine.execKred a stk ch inc s
  | .kop a stk ch inc => Sys2Proof.Machine.execKop a stk ch inc s
  | .bundleNullified core => Sys2Proof.Machine.execBundleNullified core s
  | .fixedLatencyResult core => Sys2Proof.Machine.execFixedLatencyResult core s
  | .heldBundleIssue core => Sys2Proof.Machine.execHeldBundleIssue core s
  | .variableLatencyReply id => Sys2Proof.Machine.execVariableLatencyReply id s
  | .timingTrap core => Sys2Proof.Machine.execTimingTrap core s
  | .segmentExpansion core => Sys2Proof.Machine.execSegmentExpansion core s
  | .alignComplete => Sys2Proof.Machine.execAlignComplete s
  | .clusterAccessPerformed id => Sys2Proof.Machine.execClusterAccessPerformed id s
  | .tileUnitArrival core tile => Sys2Proof.Machine.execTileUnitArrival core tile s
  | .deferredReport core => Sys2Proof.Machine.execDeferredReport core s
  | .nodeEnd => Sys2Proof.Machine.execNodeEnd s
  | .storeEntersPort id => Sys2Proof.Machine.execStoreEntersPort id s
  | .storePerformed id => Sys2Proof.Machine.execStorePerformed id s
  | .wqAtomicPerformed id => Sys2Proof.Machine.execWqAtomicPerformed id s
  | .mergeEntryClose line => Sys2Proof.Machine.execMergeEntryClose line s
  | .chaseHopForward id => Sys2Proof.Machine.execChaseHopForward id s
  | .accessCountWindow => Sys2Proof.Machine.execAccessCountWindow s
  | .aggElementEntry id => Sys2Proof.Machine.execAggElementEntry id s
  | .aggBufferAgeTimeout dst => Sys2Proof.Machine.execAggBufferAgeTimeout dst s
  | .aggPacketApply src => Sys2Proof.Machine.execAggPacketApply src s
  | .aggAckReceived dst => Sys2Proof.Machine.execAggAckReceived dst s
  | .operationPacketReceived src task => Sys2Proof.Machine.execOperationPacketReceived src task s
  | .opPacketResendTimeout id => Sys2Proof.Machine.execOpPacketResendTimeout id s
  | .aggPacketResendTimeout dst => Sys2Proof.Machine.execAggPacketResendTimeout dst s
  | .missingSeqHoldTimeout agg src task => Sys2Proof.Machine.execMissingSeqHoldTimeout agg src task s
  | .migreq v => Sys2Proof.Machine.execMigreq v s
  | .migrationHold => Sys2Proof.Machine.execMigrationHold s
  | .migrationComplete => Sys2Proof.Machine.execMigrationComplete s
  | .routerSlot router expect => Sys2Proof.Machine.execRouterSlot router expect s
  | .wireFlitReceived link flit via => Sys2Proof.Machine.execWireFlitReceived link flit via s
  | .nakReceived link => Sys2Proof.Machine.execNakReceived link s
  | .ackReceived link => Sys2Proof.Machine.execAckReceived link s
  | .ackTimer link => Sys2Proof.Machine.execAckTimer link s
  | .replayTimer link => Sys2Proof.Machine.execReplayTimer link s
  | .linkTrainingComplete link => Sys2Proof.Machine.execLinkTrainingComplete link s
  | .retrainTimeout link => Sys2Proof.Machine.execRetrainTimeout link s
  | .deadNotifyTimer link => Sys2Proof.Machine.execDeadNotifyTimer link s
  | .alignFlitReceived link => Sys2Proof.Machine.execAlignFlitReceived link s
  | .messageTagCheck circ => Sys2Proof.Machine.execMessageTagCheck circ s
  | .reRequestTimer circ => Sys2Proof.Machine.execReRequestTimer circ s
  | .reRequestReceived circ dst => Sys2Proof.Machine.execReRequestReceived circ dst s
  | .repairCopyReceived circ => Sys2Proof.Machine.execRepairCopyReceived circ s
  | .deliveryConfirmationReceived circ => Sys2Proof.Machine.execDeliveryConfirmationReceived circ s
  | .abortFlitReceived => Sys2Proof.Machine.execAbortFlitReceived s
  | .collAccept core => Sys2Proof.Machine.execCollAccept core s
  | .collMessageReceived => Sys2Proof.Machine.execCollMessageReceived s
  | .collPatienceExpiry => Sys2Proof.Machine.execCollPatienceExpiry s
  | .copyCommandAccept core => Sys2Proof.Machine.execCopyCommandAccept core s
  | .copyChunk cluster => Sys2Proof.Machine.execCopyChunk cluster s
  | .followOn cluster => Sys2Proof.Machine.execFollowOn cluster s
  | .kredAccept core => Sys2Proof.Machine.execKredAccept core s
  | .kredChunk id => Sys2Proof.Machine.execKredChunk id s
  | .kopAccept core => Sys2Proof.Machine.execKopAccept core s
  | .kopBankRun id => Sys2Proof.Machine.execKopBankRun id s
  | .ksrchAccept core => Sys2Proof.Machine.execKsrchAccept core s
  | .distanceRequest id node => Sys2Proof.Machine.execDistanceRequest id node s
  | .distanceReply id node => Sys2Proof.Machine.execDistanceReply id node s
  | .rvk v => Sys2Proof.Machine.execRvk v s
  | .xlinv v => Sys2Proof.Machine.execXlinv v s
  | .graphStartStore slot v => Sys2Proof.Machine.execGraphStartStore slot v s
  | .gctl slot v => Sys2Proof.Machine.execGctl slot v s
  | .hostAtomicop off wide op v => Sys2Proof.Machine.execHostAtomicop off wide op v s
  | .hostBar2Read off len => Sys2Proof.Machine.execHostBar2Read off len s
  | .hostBar2Write off data => Sys2Proof.Machine.execHostBar2Write off data s
  | .prgResponse index status => Sys2Proof.Machine.execPrgResponse index status s
  | .atsInvalidation pasid va => Sys2Proof.Machine.execAtsInvalidation pasid va s
  | .negotiateAlgorithms sha256Offered => Sys2Proof.Machine.execNegotiateAlgorithms sha256Offered s
  | .getCertificate slot off len => Sys2Proof.Machine.execGetCertificate slot off len s
  | .challenge slot nonce => Sys2Proof.Machine.execChallenge slot nonce s
  | .getMeasurements block signed nonce => Sys2Proof.Machine.execGetMeasurements block signed nonce s
  | .bootFirmwareVerify index image => Sys2Proof.Machine.execBootFirmwareVerify index image s
  | .serviceLevelChange level => Sys2Proof.Machine.execServiceLevelChange level s
  | .clockChange code mhz => Sys2Proof.Machine.execClockChange code mhz s
  | .patrolScrub tier pa uncorrectable => Sys2Proof.Machine.execPatrolScrub tier pa uncorrectable s
  | .ceWindow ctrl => Sys2Proof.Machine.execCeWindow ctrl s
  | .bpladd v => Sys2Proof.Machine.execBpladd v s
  | .lnkctlRetrain link => Sys2Proof.Machine.execLnkctlRetrain link s
  | .lnkctlDown link => Sys2Proof.Machine.execLnkctlDown link s
  | .registerWrite off v => Sys2Proof.Machine.execRegisterWrite off v s
  | .pageWalkComplete cluster slot va grant => Sys2Proof.Machine.execPageWalkComplete cluster slot va grant s
  | .graphStart => Sys2Proof.Machine.execGraphStart s
  | .saveComplete => Sys2Proof.Machine.execSaveComplete s
  | .restoreComplete => Sys2Proof.Machine.execRestoreComplete s
  | .getVersion => Sys2Proof.Machine.execGetVersion s
  | .getCapabilities => Sys2Proof.Machine.execGetCapabilities s
  | .getDigests => Sys2Proof.Machine.execGetDigests s
  | .coldReset => Sys2Proof.Machine.execColdReset s
  | .warmReset => Sys2Proof.Machine.execWarmReset s
  | .bplCommit => Sys2Proof.Machine.execBplCommit s
  | .scrctlFreeze => Sys2Proof.Machine.execScrctlFreeze s
  | .scrctlFrozen => Sys2Proof.Machine.execScrctlFrozen s

end Sys2Proof.Machine
end

