-- ==== Sys2Proof/Machine/Step.lean ====
section
/-! DEFINITION. One step of the device: the next step that the agenda has decided, and otherwise the next bundle of the core `cur`. -/

namespace Sys2Proof.Machine

/-- One step. An operation of a slot class has no place in the agenda: cores alone issue those. -/
def step (s : State) : Host.Outcome State Fault Refusal :=
  match s.agenda with
  | [] => .next (s.bundleStep s.cur)
  | (dt, i) :: rest =>
    let s := { s with agenda := rest }.elapse dt
    if (slotOp i).isSome then .next s else exec i s

/-- The image of the node, or the graph program, that `withFetchWord` places. -/
def probeImage : Image := { base := 0x400000000000, dir := [0], entries := some 16 :: List.replicate 383 none }

/-- The expanded bundle of code words whose bits are w, the first word lowest, under an empty dictionary. -/
def probeItem (w : Nat) : BufItem :=
  let pc := probeImage.base + 16
  match codeWord (w % 2 ^ 16) with
  | .escape => { pc := pc, len := 50, what := .bundle (BitVec.ofNat 384 (literalBundle (wordsOf 24 (w / 2 ^ 16)))) }
  | .dict i => { pc := pc, len := 2, what := .bad 2 i 0 pc }
  | .unassigned => { pc := pc, len := 2, what := .bad 1 (w % 2 ^ 16) 0 pc }

/-- A task that is about to issue the bundle. -/
def probeCore (w : Nat) : Core :=
  { Core.idle with
    phase := .running
    pc := BitVec.ofNat 64 (probeImage.base + 16)
    first := isAlignBits (literalBundle (wordsOf 24 (w / 2 ^ 16)))
    half0 := some { head := probeImage.base, next := 0, rep := false, items := [probeItem w] } }

/-- The bundle is one of the command core alone (R128). -/
def probeCmd (w : Nat) : Bool :=
  let b := literalBundle (wordsOf 24 (w / 2 ^ 16))
  slotValid b .c && isCmdOp (fld (slotBits b .c) 48 7)

/-- `s` with the code words placed where the next step fetches: a running node whose task 0, or for the command core's own operations a
graph program, has them as its next expanded bundle. -/
def State.withFetchWord (s : State) (_nbits w : Nat) : State :=
  let s := { s with agenda := [] }
  if probeCmd w then
    { s.setCore cmdKey (probeCore w) with cur := cmdKey, graph := some 0, graphImage := some probeImage }
  else
    { s.setCore 0 (probeCore w) with
      cur := 0
      node := some { slot := 0, index := 0, seed := 0, image := probeImage, place := List.replicate 384 (0, 0), digest := 0, manifestAt := 0, aligned := true } }

end Sys2Proof.Machine
end

