-- ==== Sys2Proof/Safety.lean ====
section
/-! DEFINITION. The forms that states keep and the conditions under which a bundle issues: what statements take as their hypotheses. -/

namespace Sys2Proof.Machine

/-! ## Forms -/

/-- The canonical form of a memory: keys rise strictly and no entry equals the byte that an unlisted key reads as. -/
def Memory.wf (m : Sparse Byte) : Bool := Sparse.wf 0 m

/-- A core keeps the canonical form of its scratchpad, and its hard-wired registers as they read (R136, R177), in the restart shadow that REWIND restores
too (R44). -/
structure Core.Wf (c : Core) : Prop where
  scratch : Memory.wf c.scratch = true
  s0 : c.s[0] = 0
  p0 : c.p.getLsbD 0 = true
  m0 : c.m[0] = BitVec.allOnes 64
  shadow : c.shadow.pc ≠ 0 → c.shadow.s[0] = 0 ∧ c.shadow.p.getLsbD 0 = true

/-! ## What lets a bundle of one operation issue -/

/-- Nothing stands against the registers that the bundle at issue reads and writes: none awaits a variable-latency or late cluster
result (R29; the latter where it is read), none that is read holds the fault of a remote operation (R417) or bad parity (R386), nor, with SBCHK on, a
result that is not visible yet (R360); and no check of a coverage level is about to find a soft error (R366). -/
structure State.Clear (s : State) (reads writes : List Reg) : Prop where
  failed : ∀ p ∈ s.me.regFaults, p.1 ∉ reads
  late : ∀ a ∈ s.accs, a.core = s.cur → a.owes = true → ∀ r ∈ reads ++ writes, r.wired = true ∨ r ∉ a.op.dests
  lateCl : ∀ a ∈ s.clAccs, a.core = s.cur → a.vis ≤ s.me.lc.toNat → ∀ r ∈ reads, r.wired = true ∨ a.dest ≠ some r
  sound : ∀ r ∈ .p 0 :: reads, .reg r ∉ s.me.bad
  board : s.me.sbchk = true → ∀ r ∈ reads, r.wired = true ∨ s.visAt s.cur r ≤ s.me.lc.toNat
  steady : s.cov = 0 ∨ s.me.upsets = []

/-- The core's own tiles, in the list, belong to it and have no overrun to report (R84, R363). -/
def State.TilesFree (s : State) (ts : List Nat) : Prop :=
  ∀ t ∈ ts, (s.me.tile t).engine = false ∧ (s.me.tile t).overrun = false

/-- No vector register of the list is bound to a stream. -/
def State.Unbound (s : State) (l : List Reg) : Prop := ∀ n, .v n ∈ l → s.me.boundAt n = none

/-- No local stream still owes the bytes lanes of a cluster access that its target has not performed (R29, R179). -/
def State.Settled (s : State) (l : List (Nat × Nat)) : Prop := ∀ h ∈ s.me.heldGroups, ∀ x ∈ h.2, ∀ y ∈ l, spansMeet x y = false

/-- The streams that an operation reads and writes: their groups are there or have room, no byte that it reads of the scratchpad awaits lanes of a cluster
access, they are used in their own direction, and their groups pass the checks (R29, R179, R374). -/
structure State.StreamsGo (s : State) (op : SlotOp) : Prop where
  misuse : s.me.streamMisuse op = none
  waits : s.streamWaits s.cur [op] = []
  settled : s.Settled (s.issueLooks s.cur [op])
  tiles : s.TilesFree (s.me.streamTiles [op])
  check : s.streamCheck s.cur [op] op = none

/-- The state in which an operation acts: the input streams that it reads have given their group (R92). -/
def State.popped (s : State) (op : SlotOp) : State := (bundlePops s.me [op]).foldl (fun t f => t.pop s.cur op.lat op.slot f) s

/-- An operation as its operands alone show it. -/
def operands (slot lat : Nat) (reads writes : List Reg) : SlotOp :=
  { slot := slot, reads := reads.map fun r => (r, 0), writes := writes, lat := lat, act := id }

/-- Nothing stands against the registers of an operation, those bound to streams included. -/
structure State.Ready (s : State) (slot lat : Nat) (reads writes : List Reg) : Prop where
  clear : s.Clear reads writes
  streams : s.StreamsGo (operands slot lat reads writes)

/-- The state in which an operation acts that reads these registers: a bound input stream among them has given its next group. -/
def State.fed (s : State) (slot lat : Nat) (reads : List Reg) : State := s.popped (operands slot lat reads [])

/-- Results that the bundle at issue leaves in flight: each with twice the logical cycle at which it takes effect, one more for the end
of that cycle. -/
def Core.flight (c : Core) (slot : Nat) (l : List (Nat × Commit)) : Core :=
  { c with pend := c.pend ++ l.map fun p => { key := p.1, slot := slot, lc := c.lc.toNat, pc := c.pc, what := p.2 } }

/-- No follow-on command of a lend that meets accumulator groups g to h is open (R89). -/
def State.GroupsFree (s : State) (g h : Nat) : Prop :=
  ∀ l ∈ s.me.lent, l.1 ≤ h → g ≤ l.1 + 7 → ∀ id ∈ l.2, ∀ c ∈ s.cmds, c.id = id → c.st = .done ∨ c.st = .failed ∨ c.st = .cancelled

/-- tile_access lets an access to the tiles pass: they are the core's own (R84), a tagged access names their tag, an untagged read finds
them VERIFIED (R85). -/
structure State.TilesPass (s : State) (ts : List Nat) (isRead tc : Bool) (tag : Nat) : Prop where
  free : s.TilesFree ts
  tagged : tc = true → ∀ t ∈ ts, (s.me.tile t).tag.toNat = tag
  verified : isRead = true → tc = false → ∀ t ∈ ts, (s.me.tile t).verified = true

/-- n local bytes at a may be read, or written, without a fault or a wait: they exist (R394), tile_access passes, the words read are good (R386), and
no stream still owes them lanes. -/
structure State.LocalBytes (s : State) (a n : Nat) (isRead tc : Bool) (tag : Nat) : Prop where
  inside : a + n ≤ scratchTop
  tiles : s.TilesPass (tilesTouched a n) isRead tc tag
  good : isRead = true → ∀ w ∈ wordsTouched a n, .scratch w ∉ s.me.bad
  settled : isRead = true → s.Settled [(a, n)]

/-- A match of the tag sets VERIFIED (R85). -/
def Core.tagged (c : Core) (ts : List Nat) (tc : Bool) : Core :=
  if tc then ts.foldl (fun c t => c.setTile t { c.tile t with verified := true }) c else c

/-- The bytes of a cluster access lie in a populated scratchpad of a core that has a task (R78). -/
def State.ClusterBytes (s : State) (a n : Nat) : Prop :=
  a < 2 ^ 26 ∧ a % 2 ^ 21 + n ≤ scratchTop ∧ s.hasTask (clusterOf s.cur * 32 + a / 2 ^ 21) = true

/-- The target has not yet read any of the bytes at a place in the order of R80 after that of a cluster store made now. -/
def State.InTime (s : State) (a n : Nat) : Prop := s.tooLate [(a, n)] = false

/-- One of the core's 64 places in flight is free (R202). -/
def State.PlaceFree (s : State) : Prop := s.inFlight s.cur < 64

/-- The bundle issues: it acts, LC advances by 1 and the PC goes on (R25, R34, R136). `writes` are the predicates that it writes. -/
def State.issues (s : State) (act : State → State) (writes : BitVec 16 := 0) : State :=
  (act s).advance s.cur (s.nextPc s.cur) 0 1 writes

end Sys2Proof.Machine
end

