-- ==== Sys2Proof/Certificates/Slice0/Obligations.lean ====
section
/-! DEFINITION. The statements for the provers. -/

open Sys2Proof Sys2Proof.Machine

/-! ## A slot: scalar integers and floating point -/

/-- R166: each three-register operation completes, with the value of the rule's table and its latency of R131, from every state in which
nothing stands against its registers. The values are written in Lean's own bit-vector arithmetic. -/
def Obligations.ScalarThreeRegisterResults : Prop :=
  ∀ (s : State) (d a b : SReg), s.Clear [.s a.val, .s b.val] [.s d.val] →
    let x := s.me.rdS a
    let y := s.me.rdS b
    let n := y.toNat % 64
    let done (lat : Nat) (v : Word) : Host.Outcome State Fault Refusal := .next (s.issues fun t => t.putS 1 d v lat)
    exec (.add d a b) s = done 1 (x + y)
    ∧ exec (.sub d a b) s = done 1 (x - y)
    ∧ exec (.mul d a b) s = done 3 (x * y)
    ∧ exec (.mulh d a b) s = done 3 (((x.signExtend 128 * y.signExtend 128) >>> 64).setWidth 64)
    ∧ exec (.mulhn d a b) s = done 3 (((x.setWidth 128 * y.setWidth 128) >>> 64).setWidth 64)
    ∧ exec (.div d a b) s = done 18 (if y = 0 then BitVec.allOnes 64 else x.sdiv y)
    ∧ exec (.divn d a b) s = done 18 (if y = 0 then BitVec.allOnes 64 else x.udiv y)
    ∧ exec (.rem d a b) s = done 18 (if y = 0 then x else x.srem y)
    ∧ exec (.remn d a b) s = done 18 (if y = 0 then x else x.umod y)
    ∧ exec (.and d a b) s = done 1 (x &&& y)
    ∧ exec (.or d a b) s = done 1 (x ||| y)
    ∧ exec (.xor d a b) s = done 1 (x ^^^ y)
    ∧ exec (.shl d a b) s = done 1 (x <<< n)
    ∧ exec (.shr d a b) s = done 1 (x >>> n)
    ∧ exec (.sha d a b) s = done 1 (x.sshiftRight n)
    ∧ exec (.min d a b) s = done 1 (if x.sle y then x else y)
    ∧ exec (.max d a b) s = done 1 (if x.sle y then y else x)
    ∧ exec (.minn d a b) s = done 1 (if x.ule y then x else y)
    ∧ exec (.maxn d a b) s = done 1 (if x.ule y then y else x)
    ∧ (∀ k : Fin 64, exec (.addr d a b k) s = done 1 (x + (y <<< k.val)))
    ∧ (∀ p : PReg, s.Clear [.s a.val, .s b.val, .p p.val] [.s d.val] → exec (.sel d a b p) s = done 1 (if s.me.rdP p then x else y))

/-- R166, R167, R168, R170: the operations of one register and an immediate, the constants and the bit fields complete with their values.
A field's length LEN = 0 stands for 64; of BFX and BFI the fields that fit in 64 bits are stated. -/
def Obligations.ScalarImmediateResults : Prop :=
  ∀ (s : State) (d a : SReg), s.Clear [.s a.val] [.s d.val] →
    let x := s.me.rdS a
    let done (v : Word) : Host.Outcome State Fault Refusal := .next (s.issues fun t => t.putS 1 d v 1)
    (∀ imm : BitVec 36,
      exec (.addi d a imm) s = done (x + imm.signExtend 64)
      ∧ exec (.andi d a imm) s = done (x &&& imm.signExtend 64)
      ∧ exec (.ori d a imm) s = done (x ||| imm.signExtend 64)
      ∧ exec (.xori d a imm) s = done (x ^^^ imm.signExtend 64))
    ∧ (∀ n : Fin 64,
      exec (.shli d a n) s = done (x <<< n.val)
      ∧ exec (.shri d a n) s = done (x >>> n.val)
      ∧ exec (.shai d a n) s = done (x.sshiftRight n.val))
    ∧ (∀ imm : BitVec 42, s.Clear [] [.s d.val] → exec (.li d imm) s = done (imm.signExtend 64))
    ∧ (∀ imm : BitVec 22, s.Clear [.s d.val] [.s d.val] →
      exec (.lih d imm) s = done ((imm.setWidth 64 <<< 42) ||| (s.me.rdS d &&& 0x3FFFFFFFFFF#64)))
    ∧ (∃ n : Nat, exec (.clz d a) s = done (BitVec.ofNat 64 n) ∧ n ≤ 64
        ∧ (∀ i, 64 - n ≤ i → x.getLsbD i = false) ∧ (n < 64 → x.getLsbD (63 - n) = true))
    ∧ exec (.popc d a) s = done (BitVec.ofNat 64 ((List.range 64).countP fun i => x.getLsbD i))
    ∧ (∀ pos len : Fin 64,
      let n := if len.val = 0 then 64 else len.val
      pos.val + n ≤ 64 →
      (∃ v : Word, exec (.bfx d a pos len) s = done v ∧ ∀ i, v.getLsbD i = (decide (i < n) && x.getLsbD (pos.val + i)))
      ∧ ∀ b : SReg, s.Clear [.s a.val, .s b.val] [.s d.val] →
        ∃ v : Word, exec (.bfi d a b pos len) s = done v
          ∧ ∀ i, v.getLsbD i = if pos.val ≤ i ∧ i < pos.val + n then (s.me.rdS b).getLsbD (i - pos.val) else x.getLsbD i)

/-- R169, R173: the scalar compares complete and write the predicate that the rules' tables give, with latency 1 and 4. -/
def Obligations.ScalarCompareResults : Prop :=
  ∀ (s : State) (pd : PReg) (a : SReg), s.Clear [.s a.val] [.p pd.val] →
    let x := s.me.rdS a
    let done (lat : Nat) (r : Bool) : Host.Outcome State Fault Refusal :=
      .next (s.issues (fun t => t.putP 1 pd r lat) (BitVec.ofNat 16 (2 ^ pd.val)))
    let holds (cc : ICC) (y : Word) : Bool :=
      match cc with
      | .eq => x == y
      | .ne => x != y
      | .lt => x.slt y
      | .le => x.sle y
      | .gt => y.slt x
      | .ge => y.sle x
      | .ltn => x.ult y
      | .len => x.ule y
      | .gtn => y.ult x
      | .gen => y.ule x
    (∀ (cc : ICC) (imm : BitVec 34), exec (.cmpi pd a cc imm) s = done 1 (holds cc (imm.signExtend 64)))
    ∧ ∀ b : SReg, s.Clear [.s a.val, .s b.val] [.p pd.val] →
      let y := s.me.rdS b
      let o := (fp32 (x.setWidth 32)).cmp (fp32 (y.setWidth 32))
      (∀ cc : ICC, exec (.cmp pd a b cc) s = done 1 (holds cc y))
      ∧ exec (.sfcmp pd a b .eq) s = done 4 (o == some .eq)
      ∧ exec (.sfcmp pd a b .ne) s = done 4 (o != some .eq)
      ∧ exec (.sfcmp pd a b .lt) s = done 4 (o == some .lt)
      ∧ exec (.sfcmp pd a b .le) s = done 4 (o == some .lt || o == some .eq)
      ∧ exec (.sfcmp pd a b .gt) s = done 4 (o == some .gt)
      ∧ exec (.sfcmp pd a b .ge) s = done 4 (o == some .gt || o == some .eq)
      ∧ exec (.sfcmp pd a b .un) s = done 4 o.isNone
      ∧ exec (.sfcmp pd a b .ord) s = done 4 o.isSome

/-- R68, R172: SFADD, SFMUL and SFFMA complete with latency 4; the exact value is rounded once, and the high half of S[D] is cleared. -/
def scalarFloatResults : Prop :=
  ∀ (s : State) (d a b : SReg) (rm : RM), s.Clear [.s a.val, .s b.val] [.s d.val] →
    let x := fp32 ((s.me.rdS a).setWidth 32)
    let y := fp32 ((s.me.rdS b).setWidth 32)
    let done (v : W32) : Host.Outcome State Fault Refusal := .next (s.issues fun t => t.putS 1 d (v.setWidth 64) 4)
    exec (.sfadd d a b rm) s = done (roundFp32 rm (x.add rm y))
    ∧ exec (.sfmul d a b rm) s = done (roundFp32 rm (x.mul y))
    ∧ ∀ c : SReg, s.Clear [.s a.val, .s b.val, .s c.val] [.s d.val] →
      exec (.sffma d a b c rm) s = done (roundFp32 rm ((x.mul y).add rm (fp32 ((s.me.rdS c).setWidth 32))))

/-- R174, R59, R376: SCVT converts the low bits of S[A], as many as SF has; what the conversion refuses traps with its sub-cause and the
source code and writes nothing; a reserved ternary code sets STICKY.RSVD when the result commits. -/
def scalarConversion : Prop :=
  ∀ (s : State) (d a : SReg) (sf df : Fmt) (rm : RM) (ov : OV), s.Clear [.s a.val] [.s d.val] →
    let x := (s.me.rdS a).toNat % 2 ^ Fmt.width sf
    match convert sf df x rm ov with
    | .ok y =>
      let wide : W32 := match df with
        | .i8 => (BitVec.ofNat 8 y).signExtend 32
        | .i16 => (BitVec.ofNat 16 y).signExtend 32
        | _ => BitVec.ofNat 32 y
      exec (.scvt d a sf df rm ov) s = .next (s.issues fun t =>
        let u := t.putS 1 d (wide.setWidth 64) 4
        if reservedCode sf x then u.updMe (·.later 4 1 (.sticky 1)) else u)
    | .error sub =>
      exec (.scvt d a sf df rm ov) s
        = .next (s.trap s.cur { cause := 0x20, sub := sub, slot := 1, info1 := BitVec.ofNat 64 x } s.me.pc s.me.lc)

/-- R59, R68, R172, R174, R376: SFADD, SFMUL, SFFMA and SCVT complete, and a conversion that is refused traps. -/
def Obligations.ScalarFloatResults : Prop := scalarFloatResults ∧ scalarConversion

/-- R171: CHKEQ has OP 0x25 with D and X zero. Of equal registers it completes and does nothing else; of unequal ones it traps in place
of the bundle. -/
def Obligations.CheckEqual : Prop :=
  ∀ (s : State) (a b : SReg),
    encodeOp (.chkeq a b) = some (.a, 0x25, a.val * 2 ^ 36 + b.val * 2 ^ 30)
    ∧ (s.Clear [.s a.val, .s b.val] [] →
      let x := s.me.rdS a
      let y := s.me.rdS b
      exec (.chkeq a b) s =
        if x = y then .next (s.issues id)
        else .next (s.trap s.cur { cause := 0x21, sub := 1, slot := 1, info0 := x, info1 := y } s.me.pc s.me.lc))
/-! ## C slot: branches, loops, task boundaries, fences, waits, traps, CSRs, predicates -/

/-- R137, R141: the four branches complete. The next bundle is the one at the target; CALL writes S63 with next_pc, visible 1 lc later;
a taken BR or BRI whose target lies within the innermost active body leaves the loops, every other one ends them. -/
def branchResults : Prop :=
  ∀ s : State,
    let pc := s.me.pc
    let inside (t : Word) : Bool := (s.me.loops.getLast?).any fun l => decide (l.first.toNat ≤ t.toNat) && decide (t.toNat ≤ l.last.toNat)
    let go (t : Word) (keep : Bool) (u : State) : State :=
      u.updMe fun c => { c with jump := some t, branchFrom := some pc, loops := if keep && inside t then c.loops else [] }
    (s.Clear [] [] → ∀ off : BitVec 32,
      exec (.br off) s = .next (s.issues (go (pc + 2 * off.signExtend 64) true)))
    ∧ (s.Clear [] [.s 63] → ∀ off : BitVec 32,
      exec (.call off) s = .next (s.issues fun u => go (pc + 2 * off.signExtend 64) false (u.putS 0 63 (s.nextPc s.cur) 1)))
    ∧ (∀ a : SReg, s.Clear [.s a.val] [] → exec (.bri a) s = .next (s.issues (go (s.me.rdS a) true)))
    ∧ (s.Clear [.s 63] [] → exec .ret s = .next (s.issues (go (s.me.rdS 63) false)))

/-- R140, R141: a LOOP whose body fits and that is at most the fourth completes: with S[A] = 0 execution goes to what follows the
body's last bundle, otherwise a loop is pushed with its first and last bundle and its count. A LOOP that does not fit, or a fifth,
traps as an illegal instruction. -/
def loopResult : Prop :=
  ∀ (s : State) (a : SReg) (n : Fin 1024), s.Clear [.s a.val] [] →
    let c := s.me
    if n.val ≤ c.bundlesLeft ∧ c.loops.length < 4 then
      let last : Word := BitVec.ofNat 64 ((c.here[n.val]?.map (·.pc)).getD 0)
      exec (.loop a n) s = .next (s.issues fun t => t.updMe fun d =>
        if c.rdS a = 0 then { d with jump := some (s.nextPcAt s.cur n.val), branchFrom := none, fellFrom := some last }
        else { d with loops := d.loops ++ [{ first := s.nextPc s.cur, last := last, left := (c.rdS a).toNat }] })
    else
      exec (.loop a n) s = .next (s.trap s.cur
        { cause := 3, sub := 7, info0 := BitVec.ofNat 64 (opWord (.loop a n)),
          info1 := BitVec.ofNat 64 (c.loops.length * 2 ^ 32 + c.bundlesLeft) } c.pc c.lc)

/-- R137, R140, R141: the branches and LOOP complete, and a LOOP that does not fit traps. -/
def Obligations.BranchAndLoopResults : Prop := branchResults ∧ loopResult

/-- R25, R34, R136, R140, R141: when a bundle has issued and no older result is in flight, LC has advanced by 1 + STALL and the next
PC is the branch's target, else the first bundle of the innermost loop where this was its last bundle and it has passes left, else next_pc. A loop that
has none left ends, and the one around it is looked at in the same way. No register, no memory and no other core changes.
The model's own choices in it: log entry 100 (that the enclosing loop is looked at in the same issue). -/
def Obligations.AdvanceMovesOn : Prop :=
  ∀ (s : State) (k : Nat) (next : Word) (stall clks : Nat) (writes : BitVec 16), (s.core k).pend = [] →
    let c := s.core k
    let t := s.advance k next stall clks writes
    let d := t.core k
    d.lc = (if c.phase = .aligning then c.lc else c.lc + BitVec.ofNat 64 (1 + stall))
    ∧ (∀ target, c.jump = some target → d.pc = target ∧ d.jump = none)
    ∧ (c.jump = none → c.loops = [] → d.pc = next ∧ d.loops = [])
    ∧ (c.jump = none → ∀ (l : Loop) (r : List Loop), c.loops = r ++ [l] → l.last = c.pc → 1 < l.left →
        d.pc = l.first ∧ d.loops = r ++ [{ l with left := l.left - 1 }])
    ∧ (c.jump = none → ∀ (l : Loop) (r : List Loop), c.loops = r ++ [l] → l.last ≠ c.pc → d.pc = next ∧ d.loops = c.loops)
    ∧ (c.jump = none → ∀ (l : Loop) (r : List Loop), c.loops = r ++ [l] → l.last = c.pc → l.left ≤ 1 →
        let e := ((s.updCore k fun x => { x with loops := r }).advance k next stall clks writes).core k
        d.pc = e.pc ∧ d.loops = e.loops)
    ∧ d.s = c.s ∧ d.p = c.p ∧ d.v = c.v ∧ d.m = c.m ∧ d.t = c.t ∧ d.tcfg = c.tcfg ∧ d.acc = c.acc ∧ d.q = c.q ∧ d.scratch = c.scratch
    ∧ d.tiles = c.tiles ∧ d.streams = c.streams ∧ d.sticky = c.sticky ∧ d.trap = c.trap ∧ d.trapvec = c.trapvec ∧ d.shadow = c.shadow
    ∧ d.chcnt = c.chcnt ∧ d.inh = c.inh ∧ d.sbchk = c.sbchk
    ∧ t.mem = s.mem ∧ ∀ j, j ≠ k → t.core j = s.core j

/-- R26, R41, R142-R146, R260, R264, R273: ALIGN, SSTEP, ENDT, FENCE, QMARK and NOP complete. ALIGN begins the wait for the node's
tasks and links; SSTEP and ENDT make the task's aggregation buffers leave and then hold it; ENDT does so when no deferred report of the
task is left, and otherwise takes the oldest in its place (R352). NOP has no effect.
The model's own choices in it: log entries 29, 53. -/
def Obligations.BoundaryAndFenceResults : Prop :=
  ∀ s : State, s.Clear [] [] →
    exec .nop s = .next (s.issues id)
    ∧ exec .align s = .next (s.issues fun t => (t.updMe fun c => { c with phase := .aligning, opSeq := 0 }).sendAlign)
    ∧ (∀ exchange : Bool, exec (.sstep exchange) s = .next (s.issues fun t =>
        let u := t.flushTask s.cur
        let u := if u.scribe.sst then u.scribe1 0xA (if exchange then 1 else 0) u.cur u.me.lc 0 else u
        u.updMe fun c => { c with phase := .sstep, sstepLc := c.lc.toNat }))
    ∧ (∀ t, oldestTrap s.me.allReports = some t → exec .endt s = .next ((s.spendAddr s.cur t).trap s.cur t s.me.pc s.me.lc))
    ∧ (s.me.allReports = [] → exec .endt s = .next (s.issues fun t => (t.flushTask s.cur).updMe fun c => { c with phase := .ending }))
    ∧ (∀ (kind : FenceKind) (sco : Scope), exec (.fence kind sco) s = .next (s.issues fun t => t.fence s.cur kind sco))
    ∧ exec .qmark s = .next (s.issues fun t => t.qmark s.cur)

/-- R145, R146, R253, R257, R260, R261, R264: what FENCE and QMARK order. After them the core's younger loads, stores and messages wait for the
older accesses that the kind and the scope name: a load until it is performed, a store, at DEVICE scope or wider, until it is at the
coherence point, at CLUSTER scope until it is in the cluster's memory port. The groups that a device stream has still to ask for are loads, those that
bundles have pushed and that are still in the pipelines are stores. At DOMAIN and SYSTEM scope the task's aggregation buffers leave, and a full or rel
fence puts its aggregated elements before what comes after it. -/
def fenceOrders : Prop :=
  ∀ (s : State) (k : Nat),
    let older (a : Access) : Prop := a ∈ s.accs ∧ a.core = k ∧ a.place ≠ .performed ∧ a.isAgg = false
    (∀ (kind : FenceKind) (sco : Scope) (a : Access), older a → a.inLoad = true →
      (kind ≠ .rel → ⟨a.id, .performed⟩ ∈ ((s.fence k kind sco).core k).ordLoads)
      ∧ ⟨a.id, .performed⟩ ∈ ((s.fence k kind sco).core k).ordStores
      ∧ ⟨a.id, .performed⟩ ∈ ((s.fence k kind sco).core k).ordMsgs)
    ∧ (∀ (sco : Scope) (a : Access), sco = .dev ∨ sco = .dom ∨ sco = .sys → older a → a.inStore = true →
      ⟨a.id, .ctl⟩ ∈ ((s.fence k .full sco).core k).ordLoads
      ∧ ⟨a.id, .ctl⟩ ∈ ((s.fence k .full sco).core k).ordStores
      ∧ ⟨a.id, .ctl⟩ ∈ ((s.fence k .rel sco).core k).ordStores
      ∧ ⟨a.id, .ctl⟩ ∈ ((s.fence k .rel sco).core k).ordMsgs)
    ∧ (∀ a : Access, older a → a.inStore = true →
      ⟨a.id, .port⟩ ∈ ((s.fence k .full .cl).core k).ordLoads ∧ ⟨a.id, .port⟩ ∈ ((s.fence k .full .cl).core k).ordStores
      ∧ ⟨a.id, .port⟩ ∈ ((s.fence k .full .cl).core k).ordMsgs
      ∧ ⟨a.id, .port⟩ ∈ ((s.fence k .rel .cl).core k).ordStores ∧ ⟨a.id, .port⟩ ∈ ((s.fence k .rel .cl).core k).ordMsgs)
    ∧ (∀ (f : Fin 8) (st : Stream), (s.core k).streams[f] = some st → st.device = true →
      (st.output = false → st.moved < st.total → ∀ (kind : FenceKind) (sco : Scope),
        ⟨st.order, .groups k st.total .performed⟩ ∈ ((s.fence k kind sco).core k).ordStores
        ∧ (kind ≠ .rel → ⟨st.order, .groups k st.total .performed⟩ ∈ ((s.fence k kind sco).core k).ordLoads))
      ∧ (st.output = true → st.moved < min st.total st.done →
        let n := min st.total st.done
        ⟨st.order, .groups k n .ctl⟩ ∈ ((s.fence k .full .dev).core k).ordLoads ∧ ⟨st.order, .groups k n .ctl⟩ ∈ ((s.fence k .rel .dev).core k).ordStores
        ∧ ⟨st.order, .groups k n .port⟩ ∈ ((s.fence k .rel .cl).core k).ordMsgs ∧ ⟨st.order, .groups k n .ctl⟩ ∈ ((s.qmark k).core k).ordLoads))
    ∧ (∀ (kind : FenceKind) (sco : Scope), sco = .dom ∨ sco = .sys →
      (∀ b ∈ (s.fence k kind sco).aggBufs, ∀ e ∈ b.elems, e.task ≠ k)
      ∧ ∀ a ∈ s.accs, a.core = k → a.isAgg = true → kind ≠ .acq →
        ⟨a.id, .performed⟩ ∈ ((s.fence k kind sco).core k).ordStores ∧ ⟨a.id, .performed⟩ ∈ ((s.fence k kind sco).core k).ordMsgs
        ∧ (kind = .full → ⟨a.id, .performed⟩ ∈ ((s.fence k kind sco).core k).ordLoads))
    ∧ (∀ a : Access, older a → a.inStore = true → ⟨a.id, .ctl⟩ ∈ ((s.qmark k).core k).ordLoads)
    ∧ ∀ a : Access, older a → a.inLoad = true → ⟨a.id, .performed⟩ ∈ ((s.qmark k).core k).ordStores

/-- R29, R32, R147: a WAITC whose counter has reached the threshold in modulo-2^48 order completes; one whose counter has not holds its
bundle, and no register changes. -/
def Obligations.ChannelWait : Prop :=
  ∀ (s : State) (ch : Chan),
    let cnt := s.me.chcnt[ch]
    let waits (thr : BitVec 48) : State :=
      s.hold s.cur 0 { sub := 9, info0 := thr.setWidth 64, info1 := cnt.setWidth 64, addr := BitVec.ofNat 64 ch.val }
    (∀ imm : BitVec 38, s.Clear [] [] →
      let thr := imm.setWidth 48
      ((cnt - thr).toNat < 2 ^ 47 → exec (.waitcImm ch imm) s = .next (s.issues id))
      ∧ (2 ^ 47 ≤ (cnt - thr).toNat → s.me.chanErr = [] → exec (.waitcImm ch imm) s = .next (waits thr)))
    ∧ ∀ a : SReg, s.Clear [.s a.val] [] →
      let thr := (s.me.rdS a).setWidth 48
      ((cnt - thr).toNat < 2 ^ 47 → exec (.waitcReg ch a) s = .next (s.issues id))
      ∧ (2 ^ 47 ≤ (cnt - thr).toNat → s.me.chanErr = [] → exec (.waitcReg ch a) s = .next (waits thr))

/-- R148, R149, R150: TRAP completes by taking trap(0x22, code) after its bundle has issued, with next_pc and the next LC. RFT in a
handler goes to TRAPPC and ends INH; REWIND in a handler with a restart point goes to RESTPC at RESTLC with the shadow's S and P, once no late
write to S or P is under way. Outside a handler both trap.
The model's own choices in it: log entry 54. -/
def Obligations.TrapAndReturnResults : Prop :=
  ∀ s : State, s.Clear [] [] →
    let c := s.me
    (∀ code : BitVec 8, exec (.trap code) s =
      let t := s.issues id
      .next (t.trap t.cur { cause := 0x22, sub := code.toNat } ((t.setMe { t.me with pc := c.pc }).nextPc t.cur) t.me.lc))
    ∧ (c.inh = true → exec .rft s = .next (s.issues fun t => t.updMe fun d =>
        { d with jump := some d.trap.pc, branchFrom := some d.pc, loops := [], inh := false }))
    ∧ (c.inh = false → exec .rft s = .next (s.trap s.cur
        { cause := 3, sub := 1, info0 := BitVec.ofNat 64 (opWord .rft) } c.pc c.lc))
    ∧ (s.Clear [] allSP → c.inh = true → c.shadow.pc ≠ 0 → ∃ t u, s.issues id 0xFFFF = t ∧ exec .rewind s = .next u
        ∧ let d := (t.commitAll t.cur).me
          let e := u.me
          e.s = d.shadow.s ∧ e.p = d.shadow.p ∧ e.pc = d.shadow.pc ∧ e.lc = d.shadow.lc ∧ e.inh = false ∧ e.loops = []
          ∧ e.v = d.v ∧ e.m = d.m ∧ e.t = d.t ∧ e.tcfg = d.tcfg ∧ e.acc = d.acc ∧ e.q = d.q ∧ e.scratch = d.scratch
          ∧ u.mem = (t.commitAll t.cur).mem)
    ∧ (s.Clear [] allSP → c.inh = false ∨ c.shadow.pc = 0 → exec .rewind s = .next (s.trap s.cur
        { cause := 3, sub := 2, info0 := BitVec.ofNat 64 (opWord .rewind), info1 := c.shadow.pc } c.pc c.lc))

/-- R151, R153, R155: CSRR and LCRD complete and write S[D] with the register's value; the CSR map is stated row by row. -/
def csrReadResults : Prop :=
  ∀ (s : State) (d : SReg), s.Clear [] [.s d.val] →
    let c := s.me
    let done (v : Word) : Host.Outcome State Fault Refusal := .next (s.issues fun t => t.putS 0 d v 1)
    let place := ((s.node.bind fun n => n.place[s.cur]?).getD (0, 0))
    exec (.lcrd d) s = done c.lc
    ∧ exec (.csrr d 0x000) s = done (BitVec.ofNat 64 s.cur)
    ∧ exec (.csrr d 0x001) s = done (BitVec.ofNat 64 (place.1 * 256 + place.2))
    ∧ exec (.csrr d 0x002) s = done (s.deviceId.setWidth 64)
    ∧ (∀ n, s.cur ≠ 384 → s.node = some n →
        exec (.csrr d 0x003) s = done (BitVec.ofNat 64 (n.slot * 2 ^ 32 + n.index.toNat))
        ∧ exec (.csrr d 0x004) s = done n.seed
        ∧ exec (.csrr d 0x030) s = done (BitVec.ofNat 64 (c.sbchk.toNat + 2 * c.inh.toNat + 16 * n.image.cov)))
    ∧ exec (.csrr d 0x005) s = done c.lc
    ∧ exec (.csrr d 0x010) s = done c.trapvec
    ∧ exec (.csrr d 0x011) s = done c.trap.cause
    ∧ exec (.csrr d 0x012) s = done c.trap.pc
    ∧ exec (.csrr d 0x013) s = done c.trap.lc
    ∧ exec (.csrr d 0x014) s = done c.trap.addr
    ∧ exec (.csrr d 0x015) s = done c.trap.info0
    ∧ exec (.csrr d 0x016) s = done c.trap.info1
    ∧ exec (.csrr d 0x017) s = done c.trap.opc
    ∧ exec (.csrr d 0x020) s = done c.shadow.pc
    ∧ exec (.csrr d 0x021) s = done c.shadow.lc
    ∧ exec (.csrr d 0x031) s = done (c.sticky.setWidth 64)
    ∧ (∀ n : Fin 8, exec (.csrr d (Fin.ofNat 4096 (0x40 + n.val))) s = done ((c.chcnt[n]).setWidth 64))
    ∧ ∀ n : Fin 16, s.Clear [.tcfg n.val] [.s d.val] → exec (.csrr d (Fin.ofNat 4096 (0x80 + n.val))) s = done c.tcfg[n]

/-- R151-R156: CSRW completes: TRAPVEC, CORECTL and TCFG change 1 lc later, each keeping what it does not let be written; a clear of
STICKY acts before any set of the same logical cycle. -/
def csrWriteResults : Prop :=
  ∀ (s : State) (a : SReg), s.Clear [.s a.val] [] →
    let x := s.me.rdS a
    let done (n : Nat) : Host.Outcome State Fault Refusal := .next (s.issues fun t => t.updMe (·.later 1 0 (.csr n x)))
    exec (.csrw 0x010 a) s = done 0x010
    ∧ exec (.csrw 0x030 a) s = done 0x030
    ∧ (∀ n : Fin 16, s.Clear [.s a.val] [.tcfg n.val] → exec (.csrw (Fin.ofNat 4096 (0x80 + n.val)) a) s = done (0x80 + n.val))
    ∧ exec (.csrw 0x031 a) s = .next (s.issues fun t => t.updMe fun c =>
        let setNow := if c.stickyNow.1 = c.lc.toNat then c.stickyNow.2 else 0
        { c with sticky := (c.sticky &&& ~~~(x.setWidth 2)) ||| (c.sticky &&& setNow) })
    ∧ (∀ c : Core, (c.commitCsr 0x010 x).trapvec = x &&& 0x01FFFFFFFFFFFFFF)
    ∧ (∀ c : Core, (c.commitCsr 0x030 x).sbchk = x.getLsbD 0 ∧ (c.commitCsr 0x030 x).inh = c.inh)
    ∧ (∀ (c : Core) (n : Fin 16), (c.commitCsr (0x80 + n.val) x).tcfg[n] = x &&& 0x3FFFFF3)

/-- R151-R156: CSRR, CSRW and LCRD complete, register by register. -/
def Obligations.CsrResults : Prop := csrReadResults ∧ csrWriteResults

/-- R136, R158, R159: PLOG, MOVPS and MOVSP complete. FN names any function of two predicates; MOVPS reads P0 as 1; of MOVSP's result
P0 is not written. -/
def Obligations.PredicateResults : Prop :=
  ∀ s : State,
    (∀ (pd pa pb : PReg) (fn : BitVec 4), s.Clear [.p pa.val, .p pb.val] [.p pd.val] →
      exec (.plog pd pa pb fn) s =
        .next (s.issues (fun t => t.putP 0 pd (fn.getLsbD (2 * (s.me.rdP pa).toNat + (s.me.rdP pb).toNat)) 1) (BitVec.ofNat 16 (2 ^ pd.val))))
    ∧ (∀ (d : SReg) (mask : BitVec 16), s.Clear ((maskPregs mask).map fun i => .p i.val) [.s d.val] →
      ∃ v : Word, exec (.movps d mask) s = .next (s.issues fun t => t.putS 0 d v 1)
        ∧ ∀ i : Fin 16, v.getLsbD i.val = (mask.getLsbD i.val && s.me.rdP i) ∧ ∀ j, 16 ≤ j → v.getLsbD j = false)
    ∧ ∀ (a : SReg) (mask : BitVec 16), s.Clear [.s a.val] ((maskPregs mask).map fun i => .p i.val) →
      exec (.movsp a mask) s =
        .next (s.issues (fun t => (maskPregs mask).foldl (fun u i => u.putP 0 i ((s.me.rdS a).getLsbD i.val) 1) t) mask)
/-! ## V slot -/

/-- Element j, w bits wide, of lane i (R176). -/
def vectorElem (w : Nat) (v : BitVec 2048) (i j : Nat) : BitVec w := BitVec.ofNat w ((lane v i).toNat / 2 ^ (w * j))

/-- R176-R179, R181: each integer operation of two vectors, and VABS, completes with latency 1, every element of every lane as the
rule's table gives; a source bound to an input stream gives its next group, a destination bound to an output stream takes one. -/
def Obligations.VectorIntegerResults : Prop :=
  ∀ (s : State) (vd va vb : VReg) (m : MReg) (ty : ITy),
    let w := ITy.width ty
    let signed := ITy.signed ty
    (s.Ready 2 1 [.v va.val, .v vb.val, .m m.val] [.v vd.val] →
      let u := s.fed 2 1 [.v va.val, .v vb.val, .m m.val]
      let gives (i : Instr) (f : BitVec w → BitVec w → BitVec w) : Prop :=
        ∃ r : BitVec 2048, exec i s = .next (s.issues fun _ => u.putV 2 vd (s.me.rdM m) r 1)
          ∧ ∀ i j, i < 64 → j < 32 / w → vectorElem w r i j = f (vectorElem w (u.me.rdV va) i j) (vectorElem w (u.me.rdV vb) i j)
      gives (.vadd vd va vb m ty) (fun a b => a + b)
      ∧ gives (.vsub vd va vb m ty) (fun a b => a - b)
      ∧ gives (.vmul vd va vb m ty) (fun a b => a * b)
      ∧ gives (.vmulh vd va vb m ty) (fun a b =>
          if signed then ((a.signExtend 64 * b.signExtend 64) >>> w).setWidth w else ((a.setWidth 64 * b.setWidth 64) >>> w).setWidth w)
      ∧ gives (.vmin vd va vb m ty) (fun a b => if signed then (if a.sle b then a else b) else (if a.ule b then a else b))
      ∧ gives (.vmax vd va vb m ty) (fun a b => if signed then (if a.sle b then b else a) else (if a.ule b then b else a))
      ∧ gives (.vand vd va vb m ty) (fun a b => a &&& b)
      ∧ gives (.vor vd va vb m ty) (fun a b => a ||| b)
      ∧ gives (.vxor vd va vb m ty) (fun a b => a ^^^ b)
      ∧ gives (.vshl vd va vb m ty) (fun a b => a <<< (b.toNat % w))
      ∧ gives (.vshr vd va vb m ty) (fun a b => a >>> (b.toNat % w))
      ∧ gives (.vsha vd va vb m ty) (fun a b => a.sshiftRight (b.toNat % w)))
    ∧ (s.Ready 2 1 [.v va.val, .m m.val] [.v vd.val] →
      let u := s.fed 2 1 [.v va.val, .m m.val]
      ∃ r : BitVec 2048, exec (.vabs vd va m ty) s = .next (s.issues fun _ => u.putV 2 vd (s.me.rdM m) r 1)
        ∧ ∀ i j, i < 64 → j < 32 / w →
          let a := vectorElem w (u.me.rdV va) i j
          vectorElem w r i j = if signed && a.msb then -a else a)

/-- R182, R183: the FP32 operations complete with latency 4; each lane's exact value, the modifiers applied to its operands, is rounded
once; VFMIN and VFMAX give the canonical NaN where an operand is a NaN. -/
def Obligations.VectorFloatResults : Prop :=
  ∀ (s : State) (vd va vb : VReg) (m : MReg) (rm : RM),
    let neg (b : Bool) (x : Val) : Val := if b then x.neg else x
    (s.Ready 2 4 [.v va.val, .v vb.val, .m m.val] [.v vd.val] → ∀ sm : BitVec 3,
      let u := s.fed 2 4 [.v va.val, .v vb.val, .m m.val]
      let a (i : Nat) : Val := neg (sm.getLsbD 0) (if sm.getLsbD 1 then (fp32 (lane (u.me.rdV va) i)).abs else fp32 (lane (u.me.rdV va) i))
      let b (i : Nat) : Val := neg (sm.getLsbD 2) (fp32 (lane (u.me.rdV vb) i))
      let gives (i : Instr) (f : Val → Val → W32) : Prop :=
        ∃ r : BitVec 2048, exec i s = .next (s.issues fun _ => u.putV 2 vd (s.me.rdM m) r 4) ∧ ∀ i, i < 64 → lane r i = f (a i) (b i)
      gives (.vfadd vd va vb m sm rm) (fun x y => roundFp32 rm (x.add rm y))
      ∧ gives (.vfsub vd va vb m sm rm) (fun x y => roundFp32 rm (x.add rm y.neg))
      ∧ gives (.vfmul vd va vb m sm rm) (fun x y => roundFp32 rm (x.mul y))
      ∧ gives (.vfmin vd va vb m sm) (fun x y =>
          if x.isNan || y.isNan then 0x7FC00000 else if fpBelow y x then roundFp32 .rne y else roundFp32 .rne x)
      ∧ gives (.vfmax vd va vb m sm) (fun x y =>
          if x.isNan || y.isNan then 0x7FC00000 else if fpBelow x y then roundFp32 .rne y else roundFp32 .rne x))
    ∧ ∀ (vc : VReg) (sm : BitVec 4), s.Ready 2 4 [.v va.val, .v vb.val, .v vc.val, .m m.val] [.v vd.val] →
      let u := s.fed 2 4 [.v va.val, .v vb.val, .v vc.val, .m m.val]
      ∃ r : BitVec 2048, exec (.vfma vd va vb vc m sm rm) s = .next (s.issues fun _ => u.putV 2 vd (s.me.rdM m) r 4)
        ∧ ∀ i, i < 64 →
          let x := fp32 (lane (u.me.rdV va) i)
          let a := neg (sm.getLsbD 0) (if sm.getLsbD 1 then x.abs else x)
          let b := neg (sm.getLsbD 2) (fp32 (lane (u.me.rdV vb) i))
          let c := neg (sm.getLsbD 3) (fp32 (lane (u.me.rdV vc) i))
          lane r i = roundFp32 rm ((a.mul b).add rm c)

/-- R184, R185: VFUN completes with latency 8 and each lane's value of the function unit; the vector-scalar forms complete, the scalar's
low element taken for every element.
The model's own choices in it: log entry 71. -/
def Obligations.VectorScalarResults : Prop :=
  ∀ (s : State) (vd va : VReg) (sa : SReg) (m : MReg) (rm : RM),
    let neg (b : Bool) (x : Val) : Val := if b then x.neg else x
    let first (n a : Bool) (x : W32) : Val := neg n (if a then (fp32 x).abs else fp32 x)
    (s.Ready 2 8 [.v va.val, .m m.val] [.v vd.val] → ∀ (fn : FunCode) (sm : BitVec 2),
      let u := s.fed 2 8 [.v va.val, .m m.val]
      ∃ r : BitVec 2048, exec (.vfun vd va m fn sm rm) s = .next (s.issues fun _ => u.putV 2 vd (s.me.rdM m) r 8)
        ∧ ∀ i, i < 64 → lane r i = vfun fn rm (first (sm.getLsbD 0) (sm.getLsbD 1) (lane (u.me.rdV va) i)))
    ∧ (s.Ready 2 1 [.v va.val, .s sa.val, .m m.val] [.v vd.val] → ∀ ty : STy,
      let u := s.fed 2 1 [.v va.val, .s sa.val, .m m.val]
      let w := STy.width ty
      let x : BitVec w := (s.me.rdS sa).setWidth w
      let gives (i : Instr) (f : BitVec w → BitVec w) : Prop :=
        ∃ r : BitVec 2048, exec i s = .next (s.issues fun _ => u.putV 2 vd (s.me.rdM m) r 1)
          ∧ ∀ i j, i < 64 → j < 32 / w → vectorElem w r i j = f (vectorElem w (u.me.rdV va) i j)
      gives (.vadds vd va sa m ty) (fun a => a + x) ∧ gives (.vmuls vd va sa m ty) (fun a => a * x))
    ∧ (s.Ready 2 4 [.v va.val, .s sa.val, .m m.val] [.v vd.val] → ∀ sm : BitVec 3,
      let u := s.fed 2 4 [.v va.val, .s sa.val, .m m.val]
      let y := neg (sm.getLsbD 2) (fp32 ((s.me.rdS sa).setWidth 32))
      let gives (i : Instr) (f : Val → Val) : Prop :=
        ∃ r : BitVec 2048, exec i s = .next (s.issues fun _ => u.putV 2 vd (s.me.rdM m) r 4)
          ∧ ∀ i, i < 64 → lane r i = roundFp32 rm (f (first (sm.getLsbD 0) (sm.getLsbD 1) (lane (u.me.rdV va) i)))
      gives (.vfadds vd va sa m sm rm) (fun x => x.add rm y) ∧ gives (.vfmuls vd va sa m sm rm) (fun x => x.mul y))
    ∧ (s.Ready 2 4 [.v va.val, .s sa.val, .v vd.val, .m m.val] [.v vd.val] → ∀ sm : BitVec 4,
      let u := s.fed 2 4 [.v va.val, .s sa.val, .v vd.val, .m m.val]
      let y := neg (sm.getLsbD 2) (fp32 ((s.me.rdS sa).setWidth 32))
      ∃ r : BitVec 2048, exec (.vfmas vd va sa m sm rm) s = .next (s.issues fun _ => u.putV 2 vd (s.me.rdM m) r 4)
        ∧ ∀ i, i < 64 → lane r i = roundFp32 rm
          (((first (sm.getLsbD 0) (sm.getLsbD 1) (lane (u.me.rdV va) i)).mul y).add rm (neg (sm.getLsbD 3) (fp32 (lane (u.me.rdV vd) i)))))

/-- R54, R177, R186, R187: the compares into masks, VSEL, MLOG, MPOP and VIOTA complete. A compare writes the active lanes alone and
combines with the old bit as W says; tapered codes compare as signed integers. -/
def Obligations.VectorMaskResults : Prop :=
  ∀ (s : State) (vd va vb : VReg) (md ma mb m : MReg),
    (∀ (lat : Nat) (w : MaskOp),
      let reads := [.v va.val, .v vb.val, .m m.val] ++ (if w = .set then [] else [.m md.val])
      s.Ready 2 lat reads [.m md.val] →
      let u := s.fed 2 lat reads
      let a := u.me.rdV va
      let b := u.me.rdV vb
      let gives (i : Instr) (c : W32 → W32 → Bool) : Prop :=
        ∃ r : BitVec 64, exec i s = .next (s.issues fun _ => u.putM 2 md (s.me.rdM m) r lat)
          ∧ ∀ i, i < 64 →
            let x := c (lane a i) (lane b i)
            let old := (s.me.rdM md).getLsbD i
            r.getLsbD i = (match w with
              | .set => x
              | .and => old && x
              | .or => old || x)
      (lat = 1 → ∀ cc : ICC, gives (.vcmp md va vb m cc w) (fun x y =>
        match cc with
        | .eq => x == y
        | .ne => x != y
        | .lt => x.slt y
        | .le => x.sle y
        | .gt => y.slt x
        | .ge => y.sle x
        | .ltn => x.ult y
        | .len => x.ule y
        | .gtn => y.ult x
        | .gen => y.ule x))
      ∧ (lat = 4 → ∀ cc : FCC, gives (.vfcmp md va vb m cc w) (fun x y => compareFp cc (fp32 x) (fp32 y)))
      ∧ (lat = 1 → ∀ (ty : TTy) (cc : TCC), gives (.vtcmp md va vb m ty cc w) (fun x y =>
        let p : BitVec (TTy.width ty) := x.setWidth _
        let q : BitVec (TTy.width ty) := y.setWidth _
        match cc with
        | .eq => p == q
        | .ne => p != q
        | .lt => p.slt q
        | .le => p.sle q
        | .gt => q.slt p
        | .ge => q.sle p)))
    ∧ (s.Ready 2 1 [.v va.val, .v vb.val, .m m.val] [.v vd.val] →
      let u := s.fed 2 1 [.v va.val, .v vb.val, .m m.val]
      ∃ r : BitVec 2048, exec (.vsel vd va vb m) s = .next (s.issues fun _ => u.putV 2 vd (BitVec.allOnes 64) r 1)
        ∧ ∀ i, i < 64 → lane r i = if (s.me.rdM m).getLsbD i then lane (u.me.rdV va) i else lane (u.me.rdV vb) i)
    ∧ (s.Ready 2 1 [.m ma.val, .m mb.val] [.m md.val] → ∀ fn : BitVec 4,
      ∃ r : BitVec 64, exec (.mlog md ma mb fn) s = .next (s.issues fun t => t.putM 2 md (BitVec.allOnes 64) r 1)
        ∧ ∀ i, i < 64 → r.getLsbD i = fn.getLsbD (2 * ((s.me.rdM ma).getLsbD i).toNat + ((s.me.rdM mb).getLsbD i).toNat))
    ∧ (∀ d : SReg, s.Ready 2 1 [.m ma.val] [.s d.val] →
      exec (.mpop d ma) s =
        .next (s.issues fun t => t.putS 2 d (BitVec.ofNat 64 ((List.range 64).countP fun i => (s.me.rdM ma).getLsbD i)) 1))
    ∧ (s.Ready 2 1 [.m m.val] [.v vd.val] →
      ∃ r : BitVec 2048, exec (.viota vd m) s = .next (s.issues fun t => t.putV 2 vd (BitVec.allOnes 64) r 1)
        ∧ ∀ i, i < 64 → (lane r i).toNat = (List.range i).countP fun j => (s.me.rdM m).getLsbD j)

/-- R188-R192: the vector conversions complete when no lane that they judge is refused: VCVT lane by lane, VPACK into a part of packed
elements, VUNPK out of one. The first lane that one of them refuses traps with its place and its code. -/
def Obligations.VectorConversionResults : Prop :=
  ∀ (s : State) (vd va : VReg) (sf df : Fmt) (rm : RM) (ov : OV) (m : MReg) (part : Fin 4),
    let conv (x : Nat) : Except Nat Nat := convert sf df x rm ov
    let good (x : Nat) : Prop := ∃ y, conv x = .ok y
    (s.Ready 2 3 [.v va.val, .m m.val] [.v vd.val] →
      let u := s.fed 2 3 [.v va.val, .m m.val]
      let code (i : Nat) : Nat := (lane (s.me.peekV va) i).toNat % 2 ^ Fmt.width sf
      (∀ i, i < 64 → (s.me.rdM m).getLsbD i = true → good (code i)) →
      ∃ r : BitVec 2048, exec (.vcvt vd va sf df rm ov m) s = .next (s.issues fun _ =>
          let t := u.putV 2 vd (s.me.rdM m) r 3
          if (activeLanes (s.me.rdM m)).any fun i => reservedCode sf (code i) then t.updMe (·.later 3 2 (.sticky 1)) else t)
        ∧ ∀ i, i < 64 → ∀ y, conv (code i) = .ok y → lane r i = (match df with
            | .i8 => (BitVec.ofNat 8 y).signExtend 32
            | .i16 => (BitVec.ofNat 16 y).signExtend 32
            | _ => BitVec.ofNat 32 y))
    ∧ (s.Ready 2 3 [.v va.val] [.v vd.val] →
      let u := s.fed 2 3 [.v va.val]
      (∀ i, i < 64 → good ((lane (s.me.peekV va) i).toNat % 2 ^ Fmt.width sf)) → Fmt.width sf = 32 → Fmt.width df = 8 ∨ Fmt.width df = 16 →
      ∃ (mask : BitVec 64) (r : BitVec 2048), exec (.vpack vd va sf df rm ov part) s = .next (s.issues fun _ => u.putV 2 vd mask r 3)
        ∧ (∀ i, i < 64 → (mask.getLsbD i = true ↔ 2 * Fmt.width df * part.val ≤ i ∧ i < 2 * Fmt.width df * (part.val + 1)))
        ∧ ∀ i, i < 64 → 64 * Fmt.width df * (part.val + 1) ≤ 2048 → ∀ y, conv (lane (s.me.peekV va) i).toNat = .ok y →
          bits r.toNat (Fmt.width df * (64 * part.val + i)) (Fmt.width df) = y % 2 ^ Fmt.width df)
    ∧ (s.Ready 2 3 [.v va.val] [.v vd.val] →
      let u := s.fed 2 3 [.v va.val]
      let elem (i : Nat) : Nat := bits (s.me.peekV va).toNat (Fmt.width sf * (64 * part.val + i)) (Fmt.width sf)
      (∀ i, i < 64 → good (elem i)) → Fmt.width sf = 8 ∨ Fmt.width sf = 16 →
      ∃ r : BitVec 2048, exec (.vunpk vd va sf df rm ov part) s = .next (s.issues fun _ => u.putV 2 vd (BitVec.allOnes 64) r 3)
        ∧ ∀ i, i < 64 → ∀ y, conv (elem i) = .ok y → lane r i = BitVec.ofNat 32 y)
    ∧ (s.Ready 2 3 [.v va.val, .m m.val] [.v vd.val] → ∀ (i sub : Nat), i < 64 →
      let code (i : Nat) : Nat := (lane (s.me.peekV va) i).toNat % 2 ^ Fmt.width sf
      (s.me.rdM m).getLsbD i = true → conv (code i) = .error sub →
      (∀ j, j < i → (s.me.rdM m).getLsbD j = true → good (code j)) →
      exec (.vcvt vd va sf df rm ov m) s = .next (s.trap s.cur
        { cause := 0x20, sub := sub, slot := 2, info0 := BitVec.ofNat 64 i, info1 := BitVec.ofNat 64 (code i) } s.me.pc s.me.lc))
    ∧ (s.Ready 2 3 [.v va.val] [.v vd.val] → ∀ (i sub : Nat), i < 64 →
      let refuses (code : Nat → Nat) (op : Instr) : Prop :=
        conv (code i) = .error sub → (∀ j, j < i → good (code j)) →
        exec op s = .next (s.trap s.cur
          { cause := 0x20, sub := sub, slot := 2, info0 := BitVec.ofNat 64 i, info1 := BitVec.ofNat 64 (code i) } s.me.pc s.me.lc)
      refuses (fun j => (lane (s.me.peekV va) j).toNat % 2 ^ Fmt.width sf) (.vpack vd va sf df rm ov part)
      ∧ (Fmt.width sf = 8 ∨ Fmt.width sf = 16 →
        refuses (fun j => bits (s.me.peekV va).toNat (Fmt.width sf * (64 * part.val + j)) (Fmt.width sf)) (.vunpk vd va sf df rm ov part)))

/-- R193-R195, R198: the permutes, the broadcast, the insert and extract, VMOV and VPOP complete with the lanes of their tables; VPOP
takes the oldest row of its queue, and of an empty queue traps with nothing popped. -/
def Obligations.VectorMoveResults : Prop :=
  ∀ (s : State) (vd va vb : VReg) (m : MReg) (sa d : SReg) (ln : Fin 64),
    (s.Ready 2 2 [.v va.val, .v vb.val, .m m.val] [.v vd.val] →
      let u := s.fed 2 2 [.v va.val, .v vb.val, .m m.val]
      ∃ r : BitVec 2048, exec (.vperm vd va vb m) s = .next (s.issues fun _ => u.putV 2 vd (s.me.rdM m) r 2)
        ∧ ∀ i, i < 64 →
          let x := lane (u.me.rdV vb) i
          lane r i = if x.getLsbD 6 then 0 else lane (u.me.rdV va) (x.toNat % 64))
    ∧ (∀ (fn : ShufFn) (k : Fin 64),
      let reads := [.v va.val, .m m.val] ++ (if ShufFn.readsB fn then [.v vb.val] else [])
      s.Ready 2 2 reads [.v vd.val] →
      let u := s.fed 2 2 reads
      let a := u.me.rdV va
      let b := u.me.rdV vb
      ∃ r : BitVec 2048, exec (.vshuf vd va vb fn k m) s = .next (s.issues fun _ => u.putV 2 vd (s.me.rdM m) r 2)
        ∧ ∀ i, i < 64 → lane r i = (match fn with
            | .rot => lane a ((i + k.val) % 64)
            | .slidedn => if i + k.val < 64 then lane a (i + k.val) else lane b (i + k.val - 64)
            | .slideup => if k.val ≤ i then lane a (i - k.val) else lane b (64 - k.val + i)
            | .bcastl => lane a k.val
            | .xorsw => lane a (Nat.xor i k.val)
            | .ziplo => if i % 2 = 0 then lane a (i / 2) else lane b ((i - 1) / 2)
            | .ziphi => if i % 2 = 0 then lane a (32 + i / 2) else lane b (32 + (i - 1) / 2)
            | .unzipe => if i < 32 then lane a (2 * i) else lane b (2 * (i - 32))
            | .unzipo => if i < 32 then lane a (2 * i + 1) else lane b (2 * (i - 32) + 1)
            | .rev => lane a (63 - i)))
    ∧ (s.Ready 2 2 [.s sa.val, .m m.val] [.v vd.val] → ∀ ty : BTy,
      ∃ r : BitVec 2048, exec (.vbcast vd sa m ty) s = .next (s.issues fun t => t.putV 2 vd (s.me.rdM m) r 2)
        ∧ ∀ i j, i < 64 → j < 32 / BTy.width ty → vectorElem (BTy.width ty) r i j = (s.me.rdS sa).setWidth (BTy.width ty))
    ∧ (s.Ready 2 2 [.s sa.val] [.v vd.val] →
      ∃ r : BitVec 2048, exec (.vins vd sa ln) s = .next (s.issues fun t => t.putV 2 vd (BitVec.ofNat 64 (2 ^ ln.val)) r 2)
        ∧ lane r ln.val = (s.me.rdS sa).setWidth 32)
    ∧ (s.Ready 2 2 [.v va.val] [.s d.val] →
      let u := s.fed 2 2 [.v va.val]
      exec (.vext d va ln) s = .next (s.issues fun _ => u.putS 2 d ((lane (u.me.rdV va) ln.val).setWidth 64) 2))
    ∧ (s.Ready 2 1 [.v va.val, .m m.val] [.v vd.val] →
      let u := s.fed 2 1 [.v va.val, .m m.val]
      ∃ r : BitVec 2048, exec (.vmov vd va m) s = .next (s.issues fun _ => u.putV 2 vd (s.me.rdM m) r 1)
        ∧ ∀ i, i < 64 → lane r i = lane (u.me.rdV va) i)
    ∧ (s.Ready 2 1 [] [.v vd.val] → ∀ q : QReg,
      (∀ (row : QRow) (rest : List QRow), s.me.queue q = row :: rest → row.bad = false →
        exec (.vpop vd q) s = .next (s.issues fun t => (t.putV 2 vd (BitVec.allOnes 64) row.words 1).popQueue q 1))
      ∧ (s.me.queue q = [] →
        exec (.vpop vd q) s = .next (s.trap s.cur
          { cause := 0x14, sub := 1, slot := 2, info0 := 1, info1 := 0, addr := BitVec.ofNat 64 q.val } s.me.pc s.me.lc)))

/-- R71, R196, R197: VRED and VFRED complete with latency 6 and the value of the fixed tree over the active lanes: an absent lane lets
its neighbour pass. With one active lane the result is that lane; with none it is the rule's table's value. -/
def Obligations.VectorReductionResults : Prop :=
  ∀ (s : State) (d : SReg) (va : VReg) (m : MReg), s.Ready 2 6 [.v va.val, .m m.val] [.s d.val] →
    let u := s.fed 2 6 [.v va.val, .m m.val]
    let x (i : Nat) : Option W32 := if (s.me.rdM m).getLsbD i then some (lane (u.me.rdV va) i) else none
    let pair (op : W32 → W32 → W32) (p q : Option W32) : Option W32 :=
      match p, q with
      | some a, some b => some (op a b)
      | some a, none => some a
      | none, b => b
    let level (op : W32 → W32 → W32) (y : Nat → Option W32) (i : Nat) : Option W32 := pair op (y (2 * i)) (y (2 * i + 1))
    let tree (op : W32 → W32 → W32) : Option W32 := level op (level op (level op (level op (level op (level op x))))) 0
    let done (v : Word) : Host.Outcome State Fault Refusal := .next (s.issues fun _ => u.putS 2 d v 6)
    let red (isUnsigned : Bool) (fn : RedFn) (op : W32 → W32 → W32) (e : W32) : Prop :=
      let r := (tree op).getD e
      exec (.vred d va m isUnsigned fn) s = done (if isUnsigned then r.setWidth 64 else r.signExtend 64)
    let fred (fn : FRedFn) (rm : RM) (op : W32 → W32 → W32) (e : W32) : Prop :=
      exec (.vfred d va m fn rm) s = done (((tree op).getD e).setWidth 64)
    (∀ n : Bool, red n .add (fun a b => a + b) 0)
    ∧ red false .min (fun a b => if a.sle b then a else b) 0x7FFFFFFF
    ∧ red true .min (fun a b => if a.ule b then a else b) 0xFFFFFFFF
    ∧ red false .max (fun a b => if a.sle b then b else a) 0x80000000
    ∧ red true .max (fun a b => if a.ule b then b else a) 0
    ∧ (∀ n : Bool, red n .and (fun a b => a &&& b) 0xFFFFFFFF)
    ∧ (∀ n : Bool, red n .or (fun a b => a ||| b) 0)
    ∧ (∀ n : Bool, red n .xor (fun a b => a ^^^ b) 0)
    ∧ (∀ rm : RM, fred .add rm (fun a b => roundFp32 rm ((fp32 a).add rm (fp32 b))) 0)
    ∧ (∀ rm : RM, fred .min rm (fun a b => fpMin (fp32 a) (fp32 b)) 0x7F800000)
    ∧ (∀ rm : RM, fred .max rm (fun a b => fpMax (fp32 a) (fp32 b)) 0xFF800000)
/-! ## X slot -/

/-- R86, R87, R203, R204: MOVTC of a shape that R87 allows, MOVFC, TZERO and TLD complete. TLD takes ceil(ROWS × COLS × WIDTH / 8) bytes
and delivers element (i, j) from place i × COLS + j, or j × ROWS + i when transposed. -/
def tileRegisterResults : Prop :=
  ∀ (s : State) (t : TReg),
    (∀ a : SReg, s.Clear [.s a.val] [.tcfg t.val] →
      let x := s.me.rdS a
      (cfgRows x ≤ 64 → cfgPairs x = true → cfgRows x * cfgCols x * cfgWidth x ≤ 65536 →
        exec (.movtc t a) s = .next (s.issues fun u => u.updMe (·.later 1 3 (.tcfg t x))))
      ∧ (¬(cfgRows x ≤ 64 ∧ cfgPairs x = true ∧ cfgRows x * cfgCols x * cfgWidth x ≤ 65536) →
        exec (.movtc t a) s = .next (s.trap s.cur { cause := 4, sub := 3, slot := 3, info1 := x } s.me.pc s.me.lc)))
    ∧ (∀ d : SReg, s.Clear [.tcfg t.val] [.s d.val] → exec (.movfc d t) s = .next (s.issues fun u => u.putS 3 d s.me.tcfg[t] 1))
    ∧ (s.Clear [] [.t t.val] → exec (.tzero t) s = .next (s.issues fun u => u.updMe (·.later 1 3 (.t t 65536 0))))
    ∧ ∀ (bs : SReg) (tr tc : Bool) (tag : Fin 16), s.Clear [.s bs.val, .tcfg t.val] [.t t.val] →
      let cfg := s.me.tcfg[t]
      let a := (s.me.rdS bs).toNat
      let nb := (cfgRows cfg * cfgCols cfg * cfgWidth cfg + 7) / 8
      cfgOk cfg = true → (tr = true → cfgWidth cfg ≠ 2 ∧ cfgFmt cfg ≠ 10) → a % 64 = 0 → s.LocalBytes a nb true tc tag.val →
      (∀ x ∈ tilesTouched a nb, (s.me.tile x).fmt = 0 ∨ (s.me.tile x).fmt = cfgFmt cfg) →
      ∃ v : BitVec 65536,
        exec (.tld t bs tr tc tag) s = .next (s.issues fun u => (u.look s.cur [(a, nb)]).updMe fun c =>
          (c.tagged (tilesTouched a nb) tc).later 16 3
            (.t t (cfgRows cfg * cfgCols cfg * cfgWidth cfg) v))
        ∧ ∀ i j, i < cfgRows cfg → j < cfgCols cfg →
          tileElem v (cfgCols cfg) (cfgWidth cfg) i j
            = bits (s.me.readNat a nb) ((if tr then j * cfgRows cfg + i else i * cfgCols cfg + j) * cfgWidth cfg) (cfgWidth cfg)

/-- R89, R131, R205, R207, R208: MMA and MMT of operands that R205 accepts complete: the operands are those visible at issue, the result
is in flight for the latency of the rule's table, and the arrays are occupied for L − 6 lc. Another within them traps.
The model's own choices in it: log entry 55. -/
def matrixIssueResults : Prop :=
  ∀ (s : State) (mmt : Bool) (aw : Window) (ta tb : TReg) (neg clr : Bool) (sum : Shape),
    s.Clear [.t ta.val, .tcfg ta.val, .t tb.val, .tcfg tb.val] [] → s.GroupsFree aw.val (aw.val + 7) →
    let c := s.me
    let ca := c.tcfg[ta]
    let cb := c.tcfg[tb]
    let fa := fmtOfCode (cfgFmt ca)
    let k := cfgCols ca
    let i : Instr := if mmt then .mmt aw ta tb neg clr sum else .mma aw ta tb neg clr sum
    let lat := if mmt then (k + 7) / 8 + 6 else if fa = .fp32 ∨ sum = .exact then 4 * k + 6 else if fa = .tap8 then (k + 1) / 2 + 6 else k + 6
    matOk mmt ca cb = true →
    (c.busyUntil ≤ c.lc.toNat → (∀ g ∈ c.groupPoison, g.group < aw.val ∨ aw.val + 7 < g.group) →
      exec i s = .next (s.issues fun u => u.updMe fun d =>
        let d := ((d.takeBack aw.val (aw.val + 7)).touchUntil aw.val (aw.val + (cfgRows ca - 1) / 8) (d.lc.toNat + lat)).later lat 3
          (.mat { mmt := mmt, row0 := 8 * aw.val, m := cfgRows ca, n := cfgRows cb, k := k, fa := fa, fb := fmtOfCode (cfgFmt cb),
                  a := c.t[ta], b := c.t[tb], neg := neg, clr := clr, sum := sum } (c.badWords ta) (c.badWords tb))
        { d with busyUntil := d.lc.toNat + lat - 6 }))
    ∧ (c.lc.toNat < c.busyUntil →
      exec i s = .next (s.trap s.cur
        { cause := 0x11, sub := 4, slot := 3, info0 := BitVec.ofNat 64 (c.busyUntil - 1), info1 := c.lc } c.pc c.lc))

/-- R73, R75, R206, R207: what a matrix operation on good operands leaves: word (row0 + i, j) for i < M and j < N is that of the rule, and
every other word of the accumulator store is unchanged. MMT's word is the wrapping sum; MMA's is the shape's sum rounded once. -/
def matrixCommit : Prop :=
  ∀ (s : State) (k cycle : Nat) (pc : Word) (o : MatOp),
    let c := s.core k
    let word (r j : Nat) : W32 := lane (c.accRow r) j
    o.m ≤ 64 → o.n ≤ 64 → (∀ r j, .acc r j ∉ c.bad) →
    let d := (s.commitMat k cycle pc o [] []).core k
    (∀ i j, i < o.m → j < o.n →
      lane (d.accRow (o.row0 + i)) j =
        if o.mmt then
          let p := (List.range o.k).map fun x => (if o.neg then -1 else 1) * (o.aInt i x * (o.bInt j x).1)
          BitVec.ofInt 32 (p.foldl (· + ·) (if o.clr then 0 else (word (o.row0 + i) j).toInt))
        else
          let p := (List.range o.k).map fun x => let y := (o.aVal i x).mul (o.bVal j x); if o.neg then y.neg else y
          roundFp32 .rne (sumShape o.sum (if o.clr then Val.zero else fp32 (word (o.row0 + i) j)) p))
    ∧ (∀ r j, j < 64 → (r < o.row0 ∨ o.row0 + o.m ≤ r ∨ o.n ≤ j) → lane (d.accRow r) j = word r j)
    ∧ d.s = c.s ∧ d.p = c.p ∧ d.v = c.v ∧ d.m = c.m ∧ d.t = c.t ∧ d.tcfg = c.tcfg ∧ d.q = c.q ∧ d.scratch = c.scratch
    ∧ (s.commitMat k cycle pc o [] []).mem = s.mem

/-- R73, R75, R89, R131, R205-R208: MMA and MMT complete, and their result is in the accumulator store. -/
def Obligations.MatrixResults : Prop := matrixIssueResults ∧ matrixCommit

/-- R89, R209: ACLR, ALD and ACPY complete. ALD takes its rectangle's words at issue for the accumulator 4 lc later; ACPY takes the
rectangle at issue and stores it row by row 4 lc later. -/
def accumulatorMoveResults : Prop :=
  ∀ s : State,
    (∀ aw : Window, s.Clear [] [] → s.GroupsFree aw.val (aw.val + 7) →
      exec (.aclr aw) s = .next (s.issues fun u => u.updMe fun c => (c.takeBack aw.val (aw.val + 7)).later 1 3 (.aclr aw.val)))
    ∧ ∀ (row : Fin 512) (col ncol : Fin 64) (nrow : Fin 128) (bs : SReg),
      let g := row.val / 8
      let h := (row.val + nrow.val) / 8
      let a := (s.me.rdS bs).toNat
      let w := 4 * (ncol.val + 1)
      let n := w * (nrow.val + 1)
      col.val + ncol.val ≤ 63 → row.val + nrow.val ≤ 511 → s.GroupsFree g h → a % 4 = 0 →
      (s.Clear [.s bs.val] [] → s.LocalBytes a n true false 0 →
        ∃ (mask : BitVec 64) (r : Nat → BitVec 2048),
          exec (.ald row col ncol nrow bs) s = .next (s.issues fun u => (u.look s.cur [(a, n)]).updMe fun c =>
            ((c.takeBack g h).touchUntil g h (c.lc.toNat + 4)).flight 3
              ((List.range (nrow.val + 1)).map fun i => (2 * (c.lc.toNat + 4), .acc (row.val + i) mask (r i))))
          ∧ (∀ j, j < 64 → (mask.getLsbD j = true ↔ col.val ≤ j ∧ j ≤ col.val + ncol.val))
          ∧ ∀ i j, i ≤ nrow.val → j ≤ ncol.val →
            lane (r i) (col.val + j) = BitVec.ofNat 32 (s.me.readNat (a + w * i + 4 * j) 4))
      ∧ (s.Clear (.s bs.val :: (List.range (nrow.val + 1)).map fun i => .acc (row.val + i) (rectMask col ncol)) [] → s.LocalBytes a n false false 0 →
          (∀ i j, i ≤ nrow.val → j ≤ ncol.val → .acc (row.val + i) (col.val + j) ∉ s.me.bad) →
          (s.me.inh = true ∨ ∀ p ∈ s.me.groupPoison, p.group < g ∨ h < p.group) →
          exec (.acpy row col ncol nrow bs) s = .next (s.issues fun u => u.updMe fun c =>
            (c.takeBack g h).flight 3 ((List.range (nrow.val + 1)).map fun i =>
              (2 * (c.lc.toNat + 4),
                .store (a + w * i) (leBytes w ((s.me.accRow (row.val + i)).toNat / 2 ^ (32 * col.val))) false))))

/-- R35, R80, R86, R87, R203, R204, R209, R212: what a result of the X slot leaves when it takes effect. A tile register takes the bits of the shape and
keeps those beyond it; a shape word takes its assigned bits; an accumulator row takes the lanes of its rectangle; ACLR's window reads as zero; ACPY's bytes
are in the scratchpad as of their own logical cycle; QCLR's queue is empty. Nothing else of its kind changes. -/
def matrixResultCommits : Prop :=
  ∀ (s : State) (k : Nat) (p : Pending),
    let c := s.core k
    let d := (s.commit k p).core k
    let cycle := min (p.key / 2) c.lc.toNat
    let others : Prop := d.s = c.s ∧ d.p = c.p ∧ d.v = c.v ∧ d.m = c.m ∧ (s.commit k p).mem = s.mem
    (∀ (t : TReg) (nb : Nat) (v : BitVec 65536), p.what = .t t nb v →
      (∀ j, j < 65536 → d.t[t].getLsbD j = if j < nb then v.getLsbD j else c.t[t].getLsbD j)
      ∧ (∀ x : TReg, x ≠ t → d.t[x] = c.t[x]) ∧ others)
    ∧ (∀ (t : TReg) (v : Word), p.what = .tcfg t v →
      d.tcfg[t] = v &&& 0x3FFFFF3 ∧ (∀ x : TReg, x ≠ t → d.tcfg[x] = c.tcfg[x]) ∧ others)
    ∧ (∀ (row : Nat) (mask : BitVec 64) (v : BitVec 2048), p.what = .acc row mask v →
      (∀ r j, j < 64 → lane (d.accRow r) j = if r = row ∧ mask.getLsbD j = true then lane v j else lane (c.accRow r) j) ∧ others)
    ∧ (∀ aw : Nat, p.what = .aclr aw →
      (∀ r, d.accRow r = if 8 * aw ≤ r ∧ r < 8 * aw + 64 then 0 else c.accRow r) ∧ others)
    ∧ (∀ (a : Nat) (bytes : List Byte), p.what = .store a bytes false →
      (∀ i, i < bytes.length → (d.asOf cycle 0).byteAt (a + i) = bytes.getD i 0)
      ∧ ((∀ u ∈ c.undo, u.after cycle 0 = false) → ∀ i, i < bytes.length → d.byteAt (a + i) = bytes.getD i 0)
      ∧ (∀ j, j < a ∨ a + bytes.length ≤ j → d.byteAt j = c.byteAt j) ∧ others)
    ∧ ∀ q : QReg, p.what = .qclr q → d.queue q = [] ∧ (∀ r : QReg, r ≠ q → d.queue r = c.queue r) ∧ others

/-- R35, R80, R86, R87, R89, R203, R204, R209, R212: MOVTC, MOVFC, TZERO, TLD, ACLR, ALD and ACPY complete, and what their results leave. -/
def Obligations.TileAndAccumulatorResults : Prop := tileRegisterResults ∧ accumulatorMoveResults ∧ matrixResultCommits

/-- R89, R210, R211, R212: DRAIN completes with a read and push of row i at t + 4 + i and its judgement at the end of that cycle; AGIVE
of a window whose accesses are all past, QCLR and QCNT complete, the window lent one cycle later; an AGIVE too early traps.
The model's own choices in it: log entry 56. -/
def drainAndQueueResults : Prop :=
  ∀ (s : State) (aw : Window) (q : QReg) (nrow : Fin 128) (df : Fmt) (rm : RM) (ov : OV) (scl : BitVec 3) (a d : SReg),
    let base := (s.me.rdS a).toNat
    let scaledBy : Bool := scl.getLsbD 1 || scl.getLsbD 2
    (s.GroupsFree aw.val (aw.val + 7) → (∀ g ∈ s.me.groupPoison, g.group < aw.val ∨ aw.val + 7 < g.group) →
      let lo := if scl.getLsbD 1 then base else base + 256
      let hi := if scl.getLsbD 2 then base + 256 + 4 * (nrow.val + 1) else base + 256
      let scales : List Reg := if scaledBy then .s a.val :: (List.range ((hi - lo) / 4)).map fun i => .scale (lo + 4 * i) else []
      s.Clear (scales ++ (List.range (nrow.val + 1)).map fun i => .acc (8 * aw.val + i) (BitVec.allOnes 64)) [] →
      (scaledBy = true → base % 4 = 0 ∧ s.LocalBytes lo (hi - lo) true false 0) →
      let o : DrainOp :=
        { row0 := 8 * aw.val, nrow := nrow.val, q := q, df := df, rm := rm, ov := ov, i32 := scl.getLsbD 0,
          cols := if scl.getLsbD 1 then some (BitVec.ofNat 2048 (s.me.readNat base 256)) else none
          rows := if scl.getLsbD 2 then some (BitVec.ofNat 2048 (s.me.readNat (base + 256) (4 * (nrow.val + 1)))) else none }
      exec (.drain aw q nrow df rm ov scl a) s = .next (s.issues fun u => (u.look s.cur (if scaledBy then [(lo, hi - lo)] else [])).updMe fun c =>
        ((List.range (nrow.val / 8 + 1)).foldl (fun d g => d.touchUntil (aw.val + g) (aw.val + g) (c.lc.toNat + 4 + min nrow.val (8 * g + 7)))
          (c.takeBack aw.val (aw.val + 7))).flight 3
          ((List.range (nrow.val + 1)).flatMap fun i =>
            [(2 * (c.lc.toNat + (4 + i)), .drain o i), (2 * (c.lc.toNat + (4 + i)) + 1, .room o i)])))
    ∧ (s.Clear [] [] → s.me.windowAfter aw.val ≤ s.me.lc.toNat → s.GroupsFree aw.val (aw.val + 7) →
      exec (.agive aw) s = .next (s.issues fun u => u.updMe fun c =>
        ({ c with lent := c.lent.filter fun l => !(decide (l.1 ≤ aw.val + 7) && decide (aw.val ≤ l.1 + 7)) }).later 1 3 (.lend aw.val)))
    ∧ (∀ (k : Nat) (p : Pending), p.what = .lend aw.val → ((s.commit k p).core k).lent = (s.core k).lent ++ [(aw.val, [])])
    ∧ (s.Clear [] [] → s.me.lc.toNat < s.me.windowAfter aw.val →
      exec (.agive aw) s = .next (s.trap s.cur
        { cause := 0x11, sub := 5, slot := 3, info0 := s.me.lc, info1 := BitVec.ofNat 64 (s.me.windowAfter aw.val - 1) } s.me.pc s.me.lc))
    ∧ (s.Clear [] [] → exec (.qclr q) s = .next (s.issues fun u => u.updMe (·.atEnd 0 3 (.qclr q))))
    ∧ (s.Clear [] [.s d.val] → exec (.qcnt d q) s = .next (s.issues fun u => u.putS 3 d (BitVec.ofNat 64 (s.me.queue q).length) 1))

/-- Of the results in flight, those of a DRAIN's rows from i on are gone, and no other. -/
def drainEnds (after before : List Pending) (p : Pending) (o : DrainOp) (i : Nat) : Prop :=
  let mine (x : Pending) : Prop := x.lc = p.lc ∧ x.pc = p.pc ∧ ∃ j, i ≤ j ∧ (x.what = .drain o j ∨ x.what = .room o j)
  ∀ x, x ∈ after ↔ x ∈ before ∧ ¬mine x

/-- R210, R211: what each row of a DRAIN leaves when its groups are good: the row converted word by word goes behind the rows of its
queue; the first word that DF cannot take ends the DRAIN with a deferred report: this row is not pushed, and of its rows still to come none stays in
flight. -/
def drainRow : Prop :=
  ∀ (s : State) (k : Nat) (p : Pending) (o : DrainOp) (i : Nat),
    let c := s.core k
    (∀ g ∈ c.groupPoison, g.group ≠ (o.row0 + i) / 8) → (∀ j, j < 64 → .acc (o.row0 + i) j ∉ c.bad) →
    let word (j : Nat) : Except Nat Nat :=
      let w := lane (c.accRow (o.row0 + i)) j
      let v := if o.i32 then Val.ofInt w.toInt else fp32 w
      let v := match o.cols with
        | some x => v.mul (fp32 (lane x j))
        | none => v
      let v := match o.rows with
        | some x => v.mul (fp32 (lane x i))
        | none => v
      encodeVal o.df o.rm o.ov v
    ((∀ j, j < 64 → ∃ y, word j = .ok y) →
      ∃ row : QRow, (s.commitDrain k p o i) = s.setCore k (c.setQueue o.q (c.queue o.q ++ [row])) ∧ row.bad = false
        ∧ ∀ j, j < 64 → Fmt.width o.df ≤ 32 → ∀ y, word j = .ok y →
          bits row.words.toNat (Fmt.width o.df * j) (Fmt.width o.df) = y % 2 ^ Fmt.width o.df)
    ∧ ∀ (j sub : Nat), j < 64 → word j = .error sub → (∀ x, x < j → ∃ y, word x = .ok y) →
      let t := s.commitDrain k p o i
      (t.core k).q = c.q
      ∧ ∃ r, (t.core k).reports = c.reports ++ [r] ∧ r.due = p.key / 2 ∧ r.trap.cause = 0x20 ∧ r.trap.sub = sub ∧ r.trap.defer = true
        ∧ r.trap.opc = p.pc ∧ r.trap.info0 = BitVec.ofNat 64 (j + 64 * i)
      ∧ drainEnds (t.core k).pend c.pend p o i

/-- R211: a row that has been pushed is judged with the pops of its cycle: with at most 32 rows left nothing happens; otherwise the row is taken back, a
report with the row's index and the count is due at its cycle, and the DRAIN ends. -/
def rowRoom : Prop :=
  ∀ (s : State) (k : Nat) (p : Pending) (o : DrainOp) (i pops : Nat),
    let c := s.core k
    let rows := (c.queue o.q).length - pops
    let t := s.judgeRoom k p o i pops
    (rows ≤ 32 → t = s)
    ∧ (32 < rows →
      (t.core k).reports = c.reports ++ [{ due := p.key / 2, trap := {
        cause := 0x14, sub := 3, slot := p.slot, info0 := BitVec.ofNat 64 i, info1 := BitVec.ofNat 64 rows, addr := BitVec.ofNat 64 o.q.val, opc := p.pc,
        defer := true, origin := p.lc } }]
      ∧ (∀ r : QReg, r ≠ o.q → (t.core k).queue r = c.queue r)
      ∧ ((∀ x ∈ c.pend, ∀ o2 j, x.key = p.key → x.what = .room o2 j → o2.q = o.q → x.lc = p.lc ∧ x.pc = p.pc) →
          (t.core k).queue o.q = (c.queue o.q).dropLast)
      ∧ drainEnds (t.core k).pend c.pend p o i)

/-- R89, R210-R212: DRAIN, AGIVE, QCLR and QCNT complete, and what a row of a DRAIN leaves. -/
def Obligations.DrainAndQueueResults : Prop := drainAndQueueResults ∧ drainRow ∧ rowRoom
/-! ## L slot -/

/-- R30, R78, R80, R200, R201, R202, R213: LD and ST complete in the three address spaces. A local LD delivers its bytes, sign- or
zero-extended, 4 lc later; a local ST has its bytes in the scratchpad as of its own logical cycle, which is at once unless a cluster access
has written them at a later place in the order of R80; a cluster access is performed at its target's cycle t + 7, a store among them while the target
has not read its bytes at a later place; a device access enters the core's queues.
The model's own choices in it: log entry 25. -/
def Obligations.LoadStoreResults : Prop :=
  ∀ (s : State) (d bs : SReg) (off : BitVec 20) (sz : Size) (tc : Bool) (tag : Fin 16) (ord : Ord) (sco : Scope),
    let c := s.me
    let a := (c.rdS bs + off.signExtend 64).toNat
    let n := match sz with
      | .b1 => 1
      | .b2 => 2
      | .b4 => 4
      | .b8 => 8
    let v := (c.rdS d).toNat % 2 ^ (8 * n)
    a % n = 0 →
    (∀ sg : Bool, s.Clear [.s bs.val] [.s d.val] →
      (s.LocalBytes a n true tc tag.val →
        ∃ x : Word, exec (.ld d bs off sz sg .localS tc tag ord sco) s =
            .next (s.issues fun t => ((t.look s.cur [(a, n)]).updMe (·.tagged (tilesTouched a n) tc)).putS 4 d x 4)
          ∧ x.toNat % 2 ^ (8 * n) = s.me.readNat a n
          ∧ ∀ j, 8 * n ≤ j → j < 64 → x.getLsbD j = (sg && (s.me.readNat a n).testBit (8 * n - 1)))
      ∧ (s.ClusterBytes a n →
        exec (.ld d bs off sz sg .cluster tc tag ord sco) s = .next (s.issues fun t =>
          { t with
            clAccs := t.clAccs ++ [{ id := s.nextId, core := s.cur, target := clusterOf s.cur * 32 + a / 2 ^ 21, addr := a,
                                     perform := c.lc.toNat + 7, vis := c.lc.toNat + 14, slotIx := 4, pc := c.pc, op := .ld d sz sg,
                                     first := a, ended := (s.core (clusterOf s.cur * 32 + a / 2 ^ 21)).over }]
            nextId := s.nextId + 1 }))
      ∧ (a < 2 ^ 57 → s.PlaceFree →
        exec (.ld d bs off sz sg .device tc tag ord sco) s =
          .next (s.issues fun t => t.access s.cur (.ld d sz sg) (BitVec.ofNat 64 a) [{ va := a, n := n }] true false ord sco)))
    ∧ (s.Clear [.s bs.val, .s d.val] [] →
      (s.LocalBytes a n false tc tag.val →
        ∃ t, exec (.st d bs off sz .localS tc tag ord sco) s = .next (s.issues fun _ => t)
          ∧ t = s.setMe { c with tiles := t.me.tiles, scratch := t.me.scratch, bad := t.me.bad, undo := t.me.undo }
          ∧ (∀ i, i < n → ((t.me.asOf c.lc.toNat 0).byteAt (a + i)).toNat = v / 2 ^ (8 * i) % 2 ^ 8)
          ∧ ((∀ u ∈ c.undo, u.after c.lc.toNat 0 = false) → ∀ i, i < n → (t.me.byteAt (a + i)).toNat = v / 2 ^ (8 * i) % 2 ^ 8)
          ∧ (∀ j, j < a ∨ a + n ≤ j → t.me.byteAt j = c.byteAt j)
          ∧ (tc = false → t.me.tiles = c.tiles) ∧ ∀ b ∈ t.me.bad, b ∈ c.bad)
      ∧ (s.ClusterBytes a n → s.InTime a n →
        exec (.st d bs off sz .cluster tc tag ord sco) s = .next (s.issues fun t =>
          { t with
            clAccs := t.clAccs ++ [{ id := s.nextId, core := s.cur, target := clusterOf s.cur * 32 + a / 2 ^ 21, addr := a,
                                     perform := c.lc.toNat + 7, vis := c.lc.toNat + 14, slotIx := 4, pc := c.pc, op := .st n v,
                                     first := a, ended := (s.core (clusterOf s.cur * 32 + a / 2 ^ 21)).over }]
            nextId := s.nextId + 1 }))
      ∧ (a < 2 ^ 57 → s.PlaceFree →
        exec (.st d bs off sz .device tc tag ord sco) s =
          .next (s.issues fun t => t.access s.cur .st (BitVec.ofNat 64 a) [{ va := a, n := n, data := v }] false true ord sco)))

/-- What a scalar access of n bytes at a answers when it does not complete (R84, R85, R202, R394, R397). -/
def scalarStops (s : State) (i : Instr) (sp : Space) (a n : Nat) (isRead tc : Bool) (tag : Fin 16) : Prop :=
    let c := s.me
    let traps (t : Trap) : Prop := exec i s = .next (s.trap s.cur { t with slot := 4, addr := BitVec.ofNat 64 a } c.pc c.lc)
    let go : Prop := (sp = .localS → s.TilesFree (tilesTouched a n) ∧ (isRead = true → s.Settled [(a, n)])) ∧ (sp = .device → s.PlaceFree)
    (go → a % n ≠ 0 → traps { cause := 0x33, sub := 1, info0 := BitVec.ofNat 64 n })
    ∧ (go → a % n = 0 →
        (sp = .localS → scratchTop < a + n → traps { cause := 0x30, sub := 7, info1 := BitVec.ofNat 64 a })
        ∧ (sp = .cluster → 2 ^ 26 ≤ a ∨ scratchTop < a % 2 ^ 21 + n ∨ s.hasTask (clusterOf s.cur * 32 + a / 2 ^ 21) = false →
            traps { cause := 0x30, sub := 7, info0 := 1, info1 := BitVec.ofNat 64 a })
        ∧ (sp = .device → 2 ^ 57 ≤ a → traps { cause := 0x30, sub := 1, info1 := BitVec.ofNat 64 a })
        ∧ (sp = .localS → a + n ≤ scratchTop →
            let x := c.tile (a / 4096)
            let tileTraps (t : Trap) : Prop :=
              exec i s = .next (s.trap s.cur { t with cause := 0x11, slot := 4, addr := BitVec.ofNat 64 (a / 4096 * 4096) } c.pc c.lc)
            (tc = true → x.tag.toNat ≠ tag.val →
              tileTraps { cause := 0x11, sub := 1, info0 := BitVec.ofNat 64 tag.val, info1 := BitVec.ofNat 64 x.tag.toNat })
            ∧ (isRead = true → tc = false → x.verified = false → tileTraps { cause := 0x11, sub := 2, info1 := x.word })))
    ∧ (c.chanErr = [] →
        (sp = .localS → a % n = 0 → (c.tile (a / 4096)).engine = true → (c.tile (a / 4096)).overrun = false →
          exec i s = .next (s.hold s.cur 4
            { sub := 5, info0 := BitVec.ofNat 64 (a / 4096), info1 := BitVec.ofNat 64 (c.tile (a / 4096)).arrived, addr := BitVec.ofNat 64 (a / 4096 * 4096) }))
        ∧ (sp = .device → 64 ≤ s.inFlight s.cur → exec i s = .next (s.hold s.cur 4 { sub := 7, info0 := 64 })))

/-- What a vector access of these lanes answers when it does not complete (R84, R85, R214, R394, R397): the first lane at a misaligned address, or that its
space does not hold, the first tile whose tag does not match or that is read untagged and not VERIFIED. -/
def vectorStops (s : State) (i : Instr) (sp : Space) (f : Fmt) (l : List (Nat × Nat)) (strided isRead tc : Bool) (tag : Fin 16) : Prop :=
    let c := s.me
    let n := elemBytes f
    let traps (t : Trap) : Prop := exec i s = .next (s.trap s.cur { t with slot := 4 } c.pc c.lc)
    let tern : Prop := f = .tri2 ∨ f = .tri5
    let holds (a : Nat) : Prop := match sp with
      | .localS => a + n ≤ scratchTop
      | .cluster => s.ClusterBytes a n
      | .device => a < 2 ^ 57
    (sp = .localS → s.TilesFree (tilesOf f l) ∧ (isRead = true → s.Settled (l.map fun p => (p.2, n)))) → (sp = .device → s.PlaceFree) →
    ∀ (before : List (Nat × Nat)) (p : Nat × Nat) (rest : List (Nat × Nat)), l = before ++ p :: rest →
      let at_ : Word := BitVec.ofNat 64 p.2
      (tern → strided = true → before = [] → (sp = .cluster → s.ClusterBytes p.2 1) →
        traps { cause := 0x33, sub := 3, info0 := BitVec.ofNat 64 (fmtCode f), info1 := BitVec.ofNat 64 p.1, addr := at_ })
      ∧ (¬(tern ∧ strided = true) → (sp = .cluster → ∀ q ∈ l, s.ClusterBytes q.2 1) → (∀ q ∈ before, q.2 % n = 0) → p.2 % n ≠ 0 →
        traps { cause := 0x33, sub := 1, info0 := BitVec.ofNat 64 n, info1 := BitVec.ofNat 64 p.1, addr := at_ })
      ∧ (¬(tern ∧ strided = true) → (∀ q ∈ l, q.2 % n = 0) →
        ((∀ q ∈ before, holds q.2) → ¬holds p.2 →
          traps (match sp with
            | .localS => { cause := 0x30, sub := 7, info1 := at_, addr := at_ }
            | .cluster => { cause := 0x30, sub := 7, info0 := 1, info1 := at_, addr := at_ }
            | .device => { cause := 0x30, sub := 1, info1 := at_, addr := at_ }))
        ∧ (sp = .localS → (∀ q ∈ l, holds q.2) → (isRead = true ∨ ¬tern) → ∀ (ts : List Nat) (t : Nat) (us : List Nat), tilesOf f l = ts ++ t :: us →
          let x := c.tile t
          let tileTraps (u : Trap) : Prop := traps { u with cause := 0x11, addr := BitVec.ofNat 64 (t * 4096) }
          (tc = true → (∀ u ∈ ts, (c.tile u).tag.toNat = tag.val) → x.tag.toNat ≠ tag.val →
            tileTraps { cause := 0x11, sub := 1, info0 := BitVec.ofNat 64 tag.val, info1 := BitVec.ofNat 64 x.tag.toNat })
          ∧ (isRead = true → tc = false → (∀ u ∈ ts, (c.tile u).verified = true) → x.verified = false →
            tileTraps { cause := 0x11, sub := 2, info1 := x.word })))

/-- What TLD answers when it does not complete (R84, R85, R87, R204, R394, R397): the address, the bytes, and tile by tile the tag, VERIFIED and the format. -/
def tileLoadStops (s : State) (t : TReg) (bs : SReg) (tr tc : Bool) (tag : Fin 16) : Prop :=
    let c := s.me
    let cfg := c.tcfg[t]
    let a := (c.rdS bs).toNat
    let nb := (cfgRows cfg * cfgCols cfg * cfgWidth cfg + 7) / 8
    let traps (u : Trap) : Prop := exec (.tld t bs tr tc tag) s = .next (s.trap s.cur { u with slot := 3 } c.pc c.lc)
    let at_ : Word := BitVec.ofNat 64 a
    cfgOk cfg = true → (tr = true → cfgWidth cfg ≠ 2 ∧ cfgFmt cfg ≠ 10) → s.TilesFree (tilesTouched a nb) → s.Settled [(a, nb)] →
      (a % 64 ≠ 0 → traps { cause := 0x33, sub := 2, info0 := 64, addr := at_ })
      ∧ (a % 64 = 0 → scratchTop < a + nb → traps { cause := 0x30, sub := 7, info1 := at_, addr := at_ })
      ∧ (a % 64 = 0 → a + nb ≤ scratchTop → ∀ (ts : List Nat) (y : Nat) (us : List Nat), tilesTouched a nb = ts ++ y :: us →
        let x := c.tile y
        let fits (z : Tile) : Prop := z.fmt = 0 ∨ z.fmt = cfgFmt cfg
        let passes (z : Tile) : Prop := (if tc then z.tag.toNat = tag.val else z.verified = true)
        let tileTraps (u : Trap) : Prop := traps { u with cause := 0x11, addr := BitVec.ofNat 64 (y * 4096) }
        (∀ u ∈ ts, passes (c.tile u) ∧ fits (c.tile u)) →
        (tc = true → x.tag.toNat ≠ tag.val →
          tileTraps { cause := 0x11, sub := 1, info0 := BitVec.ofNat 64 tag.val, info1 := BitVec.ofNat 64 x.tag.toNat })
        ∧ (tc = false → x.verified = false → tileTraps { cause := 0x11, sub := 2, info1 := x.word })
        ∧ (passes x → ¬fits x →
          tileTraps { cause := 0x11, sub := 3, info0 := BitVec.ofNat 64 (cfgFmt cfg), info1 := BitVec.ofNat 64 x.fmt }))

/-- The lanes that a vector access of a stride makes, each with the address of its element's first byte (R214). -/
def strideLanes (f : Fmt) (a stride : Nat) (m : BitVec 64) : List (Nat × Nat) :=
  ((List.range 64).filter fun i => m.getLsbD i).map fun i => (i, elemAddr f a (i * stride))

/-- The lanes of an indexed access (R216). -/
def indexLanes (base : Word) (vi : BitVec 2048) (sc : Fin 4) (m : BitVec 64) : List (Nat × Nat) :=
  ((List.range 64).filter fun i => m.getLsbD i).map fun i => (i, (base + ((lane vi i).signExtend 64 <<< sc.val)).toNat)

/-- The format of the tile that holds an address of the cluster space, as an access issued now finds it at its performing cycle where the target has passed
it, and as the tile stands otherwise; RAW32 where the space holds no tile there. -/
def targetFmt (s : State) (a : Nat) : Fmt :=
  let k := clusterOf s.cur * 32 + a / 2 ^ 21
  let c := s.core k
  let u := s.me.lc.toNat + 7
  let past := decide (u < c.lc.toNat) && c.phase != .ended && c.phase != .stopped
  if a < 2 ^ 26 && decide (a % 2 ^ 21 + 1 ≤ scratchTop) && s.hasTask k then
    fmtOfCode ((if past then c.asOf u (s.cur + 1) else c).tile (a % 2 ^ 21 / 4096)).fmt
  else .raw32

/-- R84, R85, R87, R202, R204, R214, R215, R394, R395, R397: what LD, ST, ATOM, VLD, VST, VLDG, VSTS and TLD answer when they do not complete: a misaligned
address and an address that the space does not hold trap, so does a tag that does not match and an untagged read of a tile that is not VERIFIED; a tile of
the engines and a full set of places hold a scalar access.
The model's own choices in it: log entries 25, 57, 93 (alignment is judged before the address; the format of a cluster access before its target has come to
it; RAW32 where no tile holds a first element). -/
def Obligations.LoadFaults : Prop :=
  ∀ (s : State) (d bs : SReg) (tc : Bool) (sp : Space) (tag : Fin 16),
    let c := s.me
    (∀ (off : BitVec 20) (sz : Size) (ord : Ord) (sco : Scope),
      let a := (c.rdS bs + off.signExtend 64).toNat
      (∀ sg : Bool, s.Clear [.s bs.val] [.s d.val] → scalarStops s (.ld d bs off sz sg sp tc tag ord sco) sp a (Size.bytes sz) true tc tag)
      ∧ (s.Clear [.s bs.val, .s d.val] [] → scalarStops s (.st d bs off sz sp tc tag ord sco) sp a (Size.bytes sz) false tc tag))
    ∧ (∀ (b x : SReg) (opk : Opk) (wide : Bool) (sco : Scope),
      s.Clear ([.s bs.val, .s b.val] ++ (if opk = .cas then [.s x.val] else [])) [.s d.val] →
      scalarStops s (.atom d bs b x opk wide sp sco) sp (c.rdS bs).toNat (if wide then 8 else 4) true false 0)
    ∧ (∀ (vd : VReg) (off : BitVec 18) (str : Fin 64) (m : MReg),
      let a := (c.rdS bs + off.signExtend 64).toNat
      let f := match sp with
        | .localS => fmtOfCode (c.tile (a / 4096)).fmt
        | .cluster => targetFmt s a
        | .device => fmtOfCode (s.firstXlat s.cur a).fmt
      let l := strideLanes f a (str.val + 1) (c.rdM m)
      let strided := decide (str.val ≠ 0)
      (s.Ready 4 (if sp = .localS then 4 else 14) [.s bs.val, .m m.val] [.v vd.val] → vectorStops s (.vld vd bs off str m sp tc tag) sp f l strided true tc tag)
      ∧ (s.Ready 4 1 [.s bs.val, .v vd.val, .m m.val] [] → vectorStops s (.vst vd bs off str m sp tc tag) sp f l strided false tc tag))
    ∧ (∀ (vd vi : VReg) (m : MReg) (sc : Fin 4),
      let l := indexLanes (c.rdS bs) (c.peekV vi) sc (c.rdM m)
      let a := ((l.head?.map (·.2)).getD 0)
      let f := match sp with
        | .localS => fmtOfCode (c.tile (a / 4096)).fmt
        | .cluster => targetFmt s a
        | .device => fmtOfCode (s.firstXlat s.cur a).fmt
      (s.Ready 4 (if sp = .localS then 4 else 14) [.s bs.val, .v vi.val, .m m.val] [.v vd.val] → vectorStops s (.vldg vd vi bs m sp sc) sp f l true true false 0)
      ∧ (s.Ready 4 1 [.s bs.val, .v vi.val, .v vd.val, .m m.val] [] → vectorStops s (.vsts vd vi bs m sp sc) sp f l true false false 0))
    ∧ ∀ (t : TReg) (tr : Bool), s.Clear [.s bs.val, .tcfg t.val] [.t t.val] → tileLoadStops s t bs tr tc tag

/-- Every lane of the list may be accessed in the core's own scratchpad. -/
structure LocalLanes (s : State) (f : Fmt) (l : List (Nat × Nat)) (isRead tc : Bool) (tag : Nat) : Prop where
  aligned : ∀ p ∈ l, p.2 % elemBytes f = 0
  inside : ∀ p ∈ l, p.2 + elemBytes f ≤ scratchTop
  tiles : s.TilesPass (tilesOf f l) isRead tc tag
  good : isRead = true → ∀ p ∈ l, ∀ w ∈ wordsTouched p.2 (elemBytes f), .scratch w ∉ s.me.bad
  settled : isRead = true → s.Settled (l.map fun p => (p.2, elemBytes f))

/-- The result of a local vector read: each active lane its element, STICKY.RSVD with it when a reserved ternary code was decoded. -/
def localRead (s u : State) (vd : VReg) (mask : BitVec 64) (f : Fmt) (l : List (Nat × Nat)) (tc : Bool) (r : BitVec 2048) : State :=
  let t := ((u.look s.cur (l.map fun p => (p.2, elemBytes f))).updMe (·.tagged (tilesOf f l) tc)).putV 4 vd mask r 4
  if l.any fun p => elemReserved f (s.me.readNat p.2 (elemBytes f)) p.1 then t.updMe (·.later 4 4 (.sticky 1)) else t

/-- R78, R201, R214, R215: VLD and VST complete. Lane i's element lies i × stride elements after the first, in the format of the tile or
range that holds the first byte; only active lanes move.
The model's own choices in it: log entries 25, 26, 93. -/
def Obligations.VectorLoadStoreResults : Prop :=
  ∀ (s : State) (vd : VReg) (bs : SReg) (off : BitVec 18) (str : Fin 64) (m : MReg) (tc : Bool) (tag : Fin 16),
    let c := s.me
    let a := (c.rdS bs + off.signExtend 64).toNat
    let mask := c.rdM m
    let f := fmtOfCode (c.tile (a / 4096)).fmt
    let l := strideLanes f a (str.val + 1) mask
    let x := s.firstXlat s.cur a
    let fd := fmtOfCode x.fmt
    let ld := strideLanes fd a (str.val + 1) mask
    let tern (f : Fmt) : Prop := f = .tri2 ∨ f = .tri5
    let fc := targetFmt s a
    let lc := strideLanes fc a (str.val + 1) mask
    let reached : Prop := (tern fc → str = 0) ∧ ∀ p ∈ lc, p.2 % elemBytes fc = 0 ∧ s.ClusterBytes p.2 (elemBytes fc)
    mask ≠ 0 →
    (s.Ready 4 4 [.s bs.val, .m m.val] [.v vd.val] → (tern f → str = 0) → LocalLanes s f l true tc tag.val →
      ∃ r : BitVec 2048, exec (.vld vd bs off str m .localS tc tag) s = .next (s.issues fun t => localRead s t vd mask f l tc r)
        ∧ ∀ p ∈ l, lane r p.1 = loadLane f (s.me.readNat p.2 (elemBytes f)) p.1)
    ∧ (s.Ready 4 14 [.s bs.val, .m m.val] [.v vd.val] → reached →
      exec (.vld vd bs off str m .cluster tc tag) s = .next (s.issues fun t =>
        let v := t.clusterAccess a a (.vld vd mask (str.val + 1))
        if (s.me.streamOf vd).isSome then v.updMe (·.laterPush 14 4 (Fin.ofNat 8 vd.val) 0 0 [s.nextId]) else v))
    ∧ (s.Ready 4 14 [.s bs.val, .m m.val] [.v vd.val] → s.PlaceFree → (tern fd → str = 0) →
        (∀ p ∈ ld, p.2 % elemBytes fd = 0 ∧ p.2 < 2 ^ 57) →
      exec (.vld vd bs off str m .device tc tag) s = .next (s.issues fun t => (t.updMe (·.announce vd)).access s.cur (.vld vd mask fd)
        (BitVec.ofNat 64 a) (ld.map fun p => { va := p.2, n := elemBytes fd, lane := p.1 }) true false .plain .task 0 true))
    ∧ (s.Ready 4 1 [.s bs.val, .v vd.val, .m m.val] [] →
      let u := s.fed 4 1 [.s bs.val, .v vd.val, .m m.val]
      (¬tern f → LocalLanes s f l false tc tag.val →
        exec (.vst vd bs off str m .localS tc tag) s = .next (s.issues fun _ => u.updMe fun d =>
          l.foldl (fun d p => match storeLane f (lane (u.me.rdV vd) p.1) with
            | some y => (d.clearBadScratch p.2 (elemBytes f)).writeBytes p.2 (leBytes (elemBytes f) y)
            | none => d) (d.tagged (tilesOf f l) tc)))
      ∧ (reached → ¬tern fc → (∀ p ∈ lc, s.InTime p.2 (elemBytes fc)) →
        exec (.vst vd bs off str m .cluster tc tag) s = .next (s.issues fun _ => u.clusterAccess a a (.vst mask (u.me.rdV vd) (str.val + 1))))
      ∧ (s.PlaceFree → ¬tern fd → (∀ p ∈ ld, (s.firstXlat s.cur p.2).blk = 0) → (∀ p ∈ ld, p.2 % elemBytes fd = 0 ∧ p.2 < 2 ^ 57) →
        exec (.vst vd bs off str m .device tc tag) s = .next (s.issues fun _ => u.access s.cur .st (BitVec.ofNat 64 a)
          (ld.map fun p => { va := p.2, n := elemBytes fd, lane := p.1, data := (storeLane fd (lane (u.me.rdV vd) p.1)).getD 0 })
          false true .plain .task 0 true)))

/-- R78, R216: VLDG and VSTS complete. Lane i's address is S[BS] plus its sign-extended index shifted by SC; the format is that of the
tile or range that holds the first active lane's byte; a cluster access becomes one access for each core that its lanes name.
The model's own choices in it: log entries 25, 70. -/
def Obligations.IndexedLoadStoreResults : Prop :=
  ∀ (s : State) (vd vi : VReg) (bs : SReg) (m : MReg) (sc : Fin 4),
    let c := s.me
    let mask := c.rdM m
    let l := indexLanes (c.rdS bs) (c.peekV vi) sc mask
    let first := ((l.head?.map (·.2)).getD 0)
    let f := fmtOfCode (c.tile (first / 4096)).fmt
    let x := s.firstXlat s.cur first
    let fd := fmtOfCode x.fmt
    let tern (f : Fmt) : Prop := f = .tri2 ∨ f = .tri5
    let target (p : Nat × Nat) : Nat := clusterOf s.cur * 32 + p.2 / 2 ^ 21
    let fc := targetFmt s first
    let reached : Prop := ¬tern fc ∧ ∀ p ∈ l, p.2 % elemBytes fc = 0 ∧ s.ClusterBytes p.2 (elemBytes fc)
    mask ≠ 0 →
    (s.Ready 4 4 [.s bs.val, .v vi.val, .m m.val] [.v vd.val] → ¬tern f → LocalLanes s f l true false 0 →
      let u := s.fed 4 4 [.s bs.val, .v vi.val, .m m.val]
      ∃ r : BitVec 2048, exec (.vldg vd vi bs m .localS sc) s = .next (s.issues fun _ => localRead s u vd mask f l false r)
        ∧ ∀ p ∈ l, lane r p.1 = loadLane f (s.me.readNat p.2 (elemBytes f)) p.1)
    ∧ (s.Ready 4 14 [.s bs.val, .v vi.val, .m m.val] [.v vd.val] → reached →
      let u := s.fed 4 14 [.s bs.val, .v vi.val, .m m.val]
      ∃ t, exec (.vldg vd vi bs m .cluster sc) s = .next (s.issues fun _ => t)
        ∧ ∃ new, t.clAccs = s.clAccs ++ new
        ∧ t.me = (if (s.me.streamOf vd).isSome then u.me.laterPush 14 4 (Fin.ofNat 8 vd.val) 0 0 (new.map (·.id)) else u.me) ∧ (∀ p ∈ l, ∃ b ∈ new, b.target = target p)
        ∧ ∀ b ∈ new, b.core = s.cur ∧ b.perform = c.lc.toNat + 7 ∧ b.vis = c.lc.toNat + 14
          ∧ b.op = .vldg vd (maskOf (fun i => l.any fun p => p.1 == i && target p == b.target) 64)
              ((l.filter fun p => target p == b.target).map (·.2)))
    ∧ (s.Ready 4 14 [.s bs.val, .v vi.val, .m m.val] [.v vd.val] → s.PlaceFree → ¬tern fd → (∀ p ∈ l, p.2 % elemBytes fd = 0 ∧ p.2 < 2 ^ 57) →
      let u := s.fed 4 14 [.s bs.val, .v vi.val, .m m.val]
      exec (.vldg vd vi bs m .device sc) s = .next (s.issues fun _ => (u.updMe (·.announce vd)).access s.cur (.vld vd mask fd)
        (BitVec.ofNat 64 first) (l.map fun p => { va := p.2, n := elemBytes fd, lane := p.1 }) true false))
    ∧ (s.Ready 4 1 [.s bs.val, .v vi.val, .v vd.val, .m m.val] [] →
      let u := s.fed 4 1 [.s bs.val, .v vi.val, .v vd.val, .m m.val]
      (¬tern f → LocalLanes s f l false false 0 →
        exec (.vsts vd vi bs m .localS sc) s = .next (s.issues fun _ => u.updMe fun d =>
          l.foldl (fun d p => match storeLane f (lane (u.me.rdV vd) p.1) with
            | some y => (d.clearBadScratch p.2 (elemBytes f)).writeBytes p.2 (leBytes (elemBytes f) y)
            | none => d) d))
      ∧ (reached → (∀ p ∈ l, s.InTime p.2 (elemBytes fc)) →
        ∃ t, exec (.vsts vd vi bs m .cluster sc) s = .next (s.issues fun _ => t)
          ∧ t.me = u.me ∧ ∃ new, t.clAccs = s.clAccs ++ new ∧ (∀ p ∈ l, ∃ b ∈ new, b.target = target p)
          ∧ ∀ b ∈ new, b.core = s.cur ∧ b.perform = c.lc.toNat + 7 ∧ b.vis = c.lc.toNat + 14
            ∧ b.op = .vsts (maskOf (fun i => l.any fun p => p.1 == i && target p == b.target) 64) (u.me.rdV vd)
                ((l.filter fun p => target p == b.target).map (·.2)))
      ∧ (s.PlaceFree → ¬tern fd → (∀ p ∈ l, (s.firstXlat s.cur p.2).blk = 0) → (∀ p ∈ l, p.2 % elemBytes fd = 0 ∧ p.2 < 2 ^ 57) →
        exec (.vsts vd vi bs m .device sc) s = .next (s.issues fun _ => u.access s.cur .st (BitVec.ofNat 64 first)
          (l.map fun p => { va := p.2, n := elemBytes fd, lane := p.1, data := (storeLane fd (lane (u.me.rdV vd) p.1)).getD 0 }) false true)))

/-- R94, R217, R398: LDW and VLDW complete: bytes of the cached 4 KiB below the window's size come from the cache 4 lc later and those
beyond the size read as 0 and set STICKY.WOOB; a read that goes further becomes a device read of the bytes below the size, unless the
window's handle is stale, when it is reported and not made. A window that the image does not bind traps.
The model's own choices in it: log entries 31, 75. -/
def Obligations.WindowReadResults : Prop :=
  ∀ (s : State) (w : WReg) (off : BitVec 32),
    let o := off.toNat
    let bytes (b : BoundWindow) (n : Nat) : Nat := leNat ((b.cache.drop o).take (min n (b.size - o)))
    let range (b : BoundWindow) : Range := s.handleRange (clusterOf s.cur) (s.slotOfCore s.cur) b.handle
    let report (b : BoundWindow) (t : State) : State := t.defer s.cur s.me.lc.toNat s.me.lc.toNat
      { cause := 0x30, sub := 0xA, slot := 4, info0 := b.handle.setWidth 64, info1 := BitVec.ofNat 64 (range b).gen,
        addr := BitVec.ofNat 64 (((range b).base + b.off.toNat + o) % 2 ^ 64), opc := s.me.pc }
    (∀ (d : SReg) (sz : Size) (sg : Bool), s.Clear [] [.s d.val] →
      let n := Size.bytes sz
      o % n = 0 →
      (∀ b, s.boundWindow w = some b →
        let k := min n (b.size - o)
        (k = 0 ∨ o + k ≤ 4096 →
          exec (.ldw d w off sz sg) s = .next (s.issues fun t =>
            let u := t.putS 4 d (loadExtend sz sg (bytes b n)) 4
            if k < n then u.updMe (·.later 4 4 (.sticky 2)) else u))
        ∧ (0 < k → 4096 < o + k → s.PlaceFree →
          let a := s.windowVa b o
          exec (.ldw d w off sz sg) s = .next (s.issues fun t =>
            if (range b).stale b.handle then report b t
            else t.access s.cur (.ldw d sz sg (decide (k < n))) (BitVec.ofNat 64 a) [{ va := a, n := k }] false false .plain .task 0 true)))
      ∧ (s.boundWindow w = none → exec (.ldw d w off sz sg) s = .next (s.trap s.cur
          { cause := 0x32, sub := 1, slot := 4, info0 := BitVec.ofNat 64 w.val, addr := BitVec.ofNat 64 o } s.me.pc s.me.lc)))
    ∧ ∀ vd : VReg, s.Ready 4 4 [] [.v vd.val] → o % 4 = 0 →
      (∀ b, s.boundWindow w = some b →
        let k := min 256 (b.size - o)
        (k = 0 ∨ o + k ≤ 4096 →
          exec (.vldw vd w off) s = .next (s.issues fun t =>
            let u := t.putV 4 vd (BitVec.allOnes 64) (BitVec.ofNat 2048 (bytes b 256)) 4
            if k < 256 then u.updMe (·.later 4 4 (.sticky 2)) else u))
        ∧ (0 < k → 4096 < o + k → s.PlaceFree →
          let a := s.windowVa b o
          exec (.vldw vd w off) s = .next (s.issues fun t =>
            if (range b).stale b.handle then report b t
            else (t.updMe (·.announce vd)).access s.cur (.vldw vd (decide (k < 256))) (BitVec.ofNat 64 a)
              ((List.range ((k + 3) / 4)).map fun i => { va := (a + 4 * i) % 2 ^ 64, n := min 4 (k - 4 * i), lane := i }) false false .plain .task 0
              true)))
      ∧ (s.boundWindow w = none → exec (.vldw vd w off) s = .next (s.trap s.cur
          { cause := 0x32, sub := 1, slot := 4, info0 := BitVec.ofNat 64 w.val, addr := BitVec.ofNat 64 o } s.me.pc s.me.lc))

/-- R81, R82, R84, R218, R219, R362: GIVE, TAGRD and TFMT complete on a tile of the core. GIVE makes the engines its owner with EXPECT
from CNT and ARRIVED 0; one before an older write of the tile has committed, a group of a late vector load among them, is an owner fault.
The model's own choices in it: log entries 56, 76. -/
def Obligations.TileHandoffResults : Prop :=
  ∀ (s : State) (tile : TileIx), s.TilesFree [tile.val] →
    let x := s.me.tile tile.val
    let giveAway (out : Bool) (cnt : Fin 128) : Instr := .give tile out cnt
    (∀ (out : Bool) (cnt : Fin 128), s.Clear [] [] →
      let coming := s.me.pendingTiles ++ s.lateTiles s.cur
      let seen : List (Nat × Nat) := if out then [(4096 * tile.val, 4096)] else []
      s.Settled seen →
      ((∀ p ∈ coming, p.1 ≠ tile.val) →
        exec (giveAway out cnt) s = .next (s.issues fun t => (t.look s.cur seen).updMe fun c =>
          c.setTile tile.val { x with engine := true, dir := out, expect := cnt.val, arrived := 0, offered := 0, overrun := false, givePc := c.pc,
                                      giveLc := c.lc.toNat }))
      ∧ (∀ p ∈ coming, p.1 = tile.val → (∀ r ∈ coming, r.1 = tile.val → r.2 ≤ p.2) →
        exec (giveAway out cnt) s = .next (s.trap s.cur
          { cause := 0x12, sub := 1, slot := 4, info0 := BitVec.ofNat 64 tile.val, info1 := BitVec.ofNat 64 p.2,
            addr := BitVec.ofNat 64 (tile.val * 4096) } s.me.pc s.me.lc)))
    ∧ (∀ d : SReg, s.Clear [] [.s d.val] → x.fmt < 64 → x.expect < 128 → x.arrived < 128 →
      ∃ w : Word, exec (.tagrd d tile) s = .next (s.issues fun t => t.putS 4 d w 1)
        ∧ bits w.toNat 0 4 = x.tag.toNat ∧ bits w.toNat 4 6 = x.fmt ∧ w.getLsbD 10 = x.verified ∧ w.getLsbD 11 = x.engine
        ∧ w.getLsbD 12 = x.dir ∧ bits w.toNat 13 7 = x.expect ∧ bits w.toNat 20 44 = x.arrived)
    ∧ ∀ f : Fmt, s.Clear [] [] →
      exec (.tfmt tile f) s = .next (s.issues fun t => t.updMe fun c => c.setTile tile.val { x with fmt := fmtCode f })

/-- R90, R91, R92, R220, R225, R364: SBIND of a well-formed local pattern and SFREE complete, QST of a row completes, and a QST of an
empty queue traps. A bound register's stream starts at its pattern's first group; SFREE leaves the register zero. -/
def Obligations.StreamAndQueueStoreResults : Prop :=
  ∀ s : State,
    (∀ (f : Fin 8) (a : SReg), s.Clear [.s a.val] [] →
      let at_ := (s.me.rdS a).toNat
      let g (i : Nat) : Nat := s.me.readNat (at_ + 8 * i) 8
      at_ % 64 = 0 → s.LocalBytes at_ 64 true false 0 →
      (s.me.streams[f] = none → g 0 < 256 → bit (g 0) 1 = false → bit (g 0) 3 = false → g 1 = 0 → g 2 < scratchTop → g 3 < 2 ^ 48 →
        bits (g 3) 0 16 ≠ 0 → bits (g 3) 16 16 ≠ 0 → bits (g 3) 32 16 ≠ 0 → g 7 = 0 →
        exec (.sbind f a) s = .next (s.issues fun t => (t.look s.cur [(at_, 64)]).updMe fun c => c.setStream f (some
          { output := bit (g 0) 0, device := false, tc := bit (g 0) 2, tagx := BitVec.ofNat 4 (bits (g 0) 4 4), handle := 0,
            start := BitVec.ofNat 64 (g 2), counts := [bits (g 3) 0 16, bits (g 3) 16 16, bits (g 3) 32 16],
            strides := [toSigned 64 (g 4), toSigned 64 (g 5), toSigned 64 (g 6)], pc := c.pc })))
      ∧ (s.me.streams[f].isSome = true → exec (.sbind f a) s = .next (s.trap s.cur
          { cause := 3, sub := 8, slot := 4, info0 := BitVec.ofNat 64 (opWord (.sbind f a)), info1 := BitVec.ofNat 64 f.val } s.me.pc s.me.lc)))
    ∧ (∀ f : Fin 8, s.Clear [] [] →
      (s.me.streams[f] = none → exec (.sfree f) s = .next (s.issues id))
      ∧ ∀ st, s.me.streams[f] = some st → (∀ b ∈ s.accs, b.core = s.cur → b.owes = true → .v (24 + f.val) ∉ b.op.dests) →
        ∃ t, exec (.sfree f) s = .next (s.issues fun _ => t)
          ∧ t.me.streams[f] = none ∧ t.me.v[24 + f.val] = 0
          ∧ (∀ g : Fin 8, g ≠ f → t.me.streams[g] = s.me.streams[g])
          ∧ (∀ n : VReg, n.val ≠ 24 + f.val → t.me.v[n] = s.me.v[n]) ∧ t.me.s = s.me.s ∧ t.me.scratch = s.me.scratch
          ∧ t.mem = s.mem ∧ ∀ b, b ∈ t.accs ↔ b ∈ s.accs ∧ ¬(b.core = s.cur ∧ b.op = .streamIn f))
    ∧ ∀ (q : QReg) (bs : SReg) (off : BitVec 20), s.Clear [.s bs.val] [] → s.PlaceFree →
      let a := (s.me.rdS bs + off.signExtend 64).toNat
      (∀ (row : QRow) (rest : List QRow), s.me.queue q = row :: rest → row.bad = false → a % 256 = 0 → a < 2 ^ 57 →
        exec (.qst q bs off) s = .next (s.issues fun t => (t.updMe fun c => c.setQueue q rest).access s.cur .st (BitVec.ofNat 64 a)
          ((List.range 64).map fun i => { va := a + 4 * i, n := 4, lane := i, data := (lane row.words i).toNat })
          false true .plain .task 0 true))
      ∧ (s.me.queue q = [] → exec (.qst q bs off) s = .next (s.trap s.cur
          { cause := 0x14, sub := 1, slot := 4, info0 := 1, addr := BitVec.ofNat 64 q.val } s.me.pc s.me.lc))

/-- R226: the word that each atomic operation leaves for its old word and its operands, 32 or 64 bits wide. FADDBF adds each 16-bit half as BF16: the
exact sum rounded to FP32, that rounded to BF16; a sum beyond BF16 is an infinity (log entry 96). -/
def atomicValues : Prop :=
  ∀ (wide : Bool) (old b c : Nat),
    let w := if wide then 64 else 32
    old < 2 ^ w → b < 2 ^ w → c < 2 ^ w →
    let signed (x : Nat) : Int := if x < 2 ^ (w - 1) then x else (x : Int) - (2 : Int) ^ w
    atomNew .add wide old b c = (old + b) % 2 ^ w
    ∧ atomNew .min wide old b c = (if signed old ≤ signed b then old else b)
    ∧ atomNew .max wide old b c = (if signed old ≤ signed b then b else old)
    ∧ atomNew .minn wide old b c = min old b
    ∧ atomNew .maxn wide old b c = max old b
    ∧ (∀ i, (atomNew .and wide old b c).testBit i = (old.testBit i && b.testBit i))
    ∧ (∀ i, (atomNew .or wide old b c).testBit i = (old.testBit i || b.testBit i))
    ∧ (∀ i, (atomNew .xor wide old b c).testBit i = (old.testBit i).xor (b.testBit i))
    ∧ atomNew .xchg wide old b c = b
    ∧ atomNew .cas wide old b c = (if old = c then b else old)
    ∧ (wide = false →
        let half (x i : Nat) : Nat := x / 2 ^ (16 * i) % 2 ^ 16
        let sum (i : Nat) : W32 := roundFp32 .rne ((fp32 (BitVec.ofNat 32 (half old i * 2 ^ 16))).add .rne (fp32 (BitVec.ofNat 32 (half b i * 2 ^ 16))))
        ∀ i, i < 2 → encodeVal .bf16 .rne .inf (fp32 (sum i)) = .ok (half (atomNew .faddbf false old b c) i))
    ∧ (wide = false → atomNew .fadd32 false old b c = (roundFp32 .rne ((fp32 (BitVec.ofNat 32 old)).add .rne (fp32 (BitVec.ofNat 32 b)))).toNat)

/-- R226-R228, R253: ATOM, ATOMD, CASW, ENQ and CHASE complete. A local ATOM reads and writes its word at once and delivers the old one
4 lc later; the device forms enter the queues with their operands. -/
def atomicResults : Prop :=
  ∀ (s : State) (d bs b x : SReg),
    let c := s.me
    let a := (c.rdS bs).toNat
    let at_ : Word := BitVec.ofNat 64 a
    (∀ (opk : Opk) (wide : Bool) (sco : Scope),
      let n := if wide then 8 else 4
      let arg (r : SReg) : Word := if wide then c.rdS r else (c.rdS r).setWidth 32 |>.setWidth 64
      let reads := [.s bs.val, .s b.val] ++ (if opk = .cas then [.s x.val] else [])
      a % n = 0 →
      (s.Clear reads [.s d.val] →
        (s.LocalBytes a n true false 0 →
          exec (.atom d bs b x opk wide .localS sco) s = .next (s.issues fun t =>
            ((t.look s.cur [(a, n)]).updMe fun k => k.writeBytes a (leBytes n (atomNew opk wide (c.readNat a n) (arg b).toNat (arg x).toNat))).putS 4 d
              (BitVec.ofNat 64 (c.readNat a n)) 4))
        ∧ (s.ClusterBytes a n → s.InTime a n →
          exec (.atom d bs b x opk wide .cluster sco) s = .next (s.issues fun t => t.clusterAccess a a (.atom d opk wide (arg b) (arg x))))
        ∧ (a < 2 ^ 57 → s.PlaceFree →
          exec (.atom d bs b x opk wide .device sco) s = .next (s.issues fun t =>
            t.access s.cur (.atom d opk wide (arg b) (arg x)) at_ [{ va := a, n := n }] (d != 0) true .plain sco 0x10)))
      ∧ (s.Clear [.s bs.val, .s b.val] [] → a < 2 ^ 57 → s.PlaceFree →
          exec (.atomd bs b opk wide sco) s = .next (s.issues fun t =>
            t.access s.cur (.atom 0 opk wide (arg b) 0) at_ [{ va := a, n := n }] false true .plain sco 0x11)))
    ∧ (∀ (y : SReg) (four : Bool) (sco : Scope),
      let n := if four then 4 else 2
      let run (r : SReg) : List SReg := (List.range n).map fun i => Fin.ofNat 64 (r.val + i)
      s.Clear (.s bs.val :: (run x ++ run y).map fun r => .s r.val) ((run d).map fun r => .s r.val) →
      a % (8 * n) = 0 → a < 2 ^ 57 → s.PlaceFree →
        exec (.casw d bs x y four sco) s = .next (s.issues fun t =>
          t.access s.cur (.casw d ((run x).map c.rdS) ((run y).map c.rdS)) at_ [{ va := a, n := 8 * n }] true true .plain sco 0x12))
    ∧ (s.Clear [.s bs.val, .s b.val] [.s d.val] → a % 8 = 0 → a < 2 ^ 57 → s.PlaceFree →
        exec (.enq d bs b) s = .next (s.issues fun t =>
          t.access s.cur (.enq d (c.rdS b)) at_ [{ va := a, n := 8 }] true true .plain .task 0x13))
    ∧ ∀ (cnt : Fin 64) (off : BitVec 16), s.Clear [.s bs.val] [.s d.val] → s.PlaceFree →
        exec (.chase d bs cnt off) s = .next (s.issues fun t =>
          t.access s.cur (.chase d cnt.val off.toInt) (c.rdS bs)
            (if c.rdS bs = 0 ∨ cnt = 0 then [] else [{ va := (c.rdS bs + off.signExtend 64).toNat, n := 8 }]) true false .plain .task 0x14)

/-- R226-R228, R253: ATOM, ATOMD, CASW, ENQ and CHASE complete, each operation with its value.
The model's own choices in it: log entries 25, 96. -/
def Obligations.AtomicResults : Prop := atomicValues ∧ atomicResults

/-- R221, R223, R229, R230, R273, R278-R280: COPYGO, RST, RATOM, RLD and FLUSHA complete. A command takes its place and waits for what a
release at DEVICE scope waits for; a remote operation with a reply takes the task's next SEQ; one without a reply is an aggregated
element, which enters a buffer in its issue clock when nothing that is ordered before it is open.
The model's own choices in it: log entries 27, 37. -/
def Obligations.RemoteAndCommandResults : Prop :=
  ∀ (s : State) (d bs b chip : SReg) (wide : Bool),
    let c := s.me
    let a := (c.rdS bs).toNat
    let at_ : Word := BitVec.ofNat 64 a
    let n := if wide then 8 else 4
    let arg : Word := if wide then c.rdS b else (c.rdS b).setWidth 32 |>.setWidth 64
    let chip13 := (c.rdS chip).setWidth 13
    (a < 2 ^ 57 → s.PlaceFree →
      (s.Clear [.s bs.val, .s b.val, .s chip.val] [] →
        exec (.rst bs b chip wide) s = .next (s.issues fun t =>
          (t.access s.cur (.agg none wide arg chip13) at_ [{ va := a, n := n }] false false).aggEntry s.nextId))
      ∧ (∀ opk : Opk, s.Clear [.s bs.val, .s b.val, .s chip.val] [.s d.val] →
        exec (.ratom d bs b chip opk wide) s = .next (s.issues fun t =>
          if d = 0 then (t.access s.cur (.agg (some opk) wide arg chip13) at_ [{ va := a, n := n }] false false).aggEntry s.nextId
          else (t.updMe fun k => { k with opSeq := k.opSeq + 1 }).access s.cur (.remote d (some opk) wide (c.rdS b) chip13 c.opSeq) at_
            [{ va := a, n := n }] true true))
      ∧ (s.Clear [.s bs.val, .s chip.val] [.s d.val] →
        exec (.rld d bs chip wide) s = .next (s.issues fun t =>
          (t.updMe fun k => { k with opSeq := k.opSeq + 1 }).access s.cur (.remote d none wide 0 chip13 c.opSeq) at_
            [{ va := a, n := n }] true false)))
    ∧ (s.Clear [.s chip.val] [] → exec (.flusha chip) s = .next (s.issues fun t => t.bufferLeaves chip13.toNat))
    ∧ (s.Clear [] [] → exec .flushaAll s = .next (s.issues fun t => t.flushTask s.cur))
    ∧ ∀ ch : Chan, s.Clear [.s bs.val] [] → s.PlaceFree → (∀ k ∈ s.cmds, k.core = s.cur → k.ch = ch → k.st ≠ .failed) →
      let w := (c.rdS bs).toNat
      let tmpl := (s.copyTemplate s.cur (bits w 0 8)).toNat
      ∃ t, exec (.copygo ch bs) s = .next (s.issues fun _ => t)
        ∧ t.cmds = s.cmds ++ [
          { id := s.nextId, core := s.cur, cluster := clusterOf s.cur, ch := ch,
            inc := if bits w 8 8 = 0 then bits tmpl 13 8 else bits w 8 8, kind := .copy (bits w 0 8) (toSigned 48 (bits w 16 48)),
            pc := c.pc, lc := c.lc.toNat, deps := s.releaseDeps s.cur .dev, st := .waiting }]
        ∧ (∃ p, t.accs = s.accs ++ [p] ∧ p.op = .place ∧ p.core = s.cur ∧ p.id = s.nextId)
        ∧ t.me.lent = (if bit tmpl 21 then c.lent.map fun l => if l.1 = bits tmpl 27 6 then (l.1, l.2 ++ [s.nextId]) else l else c.lent)
        ∧ t.me.s = c.s ∧ t.mem = s.mem

/-- R250-R257, R260, R264: what a device access takes with it into the queues: a load waits for the core's older loads, those included that its streams have
still to ask for, a store for the older stores' entry into the port, pushed groups of streams among them, and for older loads of bytes that it overlaps; each
for what fences have put before it; a release, further, for all that a release at its scope waits for, with what it has observed of other tasks from CLUSTER
scope on. At DOMAIN and SYSTEM scope the task's aggregation buffers leave with it, and it waits for their elements. After an acquiring load every younger
access waits until it is performed. -/
def accessEnters : Prop :=
  ∀ (s : State) (k : Nat) (op : AccOp) (addr : Word) (todo : List Elem) (inLoad inStore : Bool) (ord : Ord) (sco : Scope) (opcode : Nat)
    (span : Bool),
    let wide : Prop := sco = .dom ∨ sco = .sys
    let release : Prop := ord = .strong ∨ (ord = .acqRel ∧ inStore = true)
    let t := s.access k op addr todo inLoad inStore ord sco opcode span
    ∃ a, t.accs = s.accs ++ [a] ∧ t.nextId = s.nextId + 1 ∧ a.id = s.nextId ∧ a.core = k ∧ a.op = op ∧ a.todo = todo ∧ a.place = .queue
      ∧ a.inLoad = inLoad ∧ a.inStore = inStore ∧ a.ord = ord ∧ a.sco = sco
      ∧ (∀ b ∈ s.accs, b.core = k → b.place ≠ .performed →
          (inLoad = true → b.inLoad = true → ⟨b.id, .performed⟩ ∈ a.deps)
          ∧ (inStore = true → b.inStore = true → ⟨b.id, .entered⟩ ∈ a.deps)
          ∧ (inStore = true → b.inLoad = true → s.overlaps b k (s.slotOfCore k) todo = true → ⟨b.id, .performed⟩ ∈ a.deps)
          ∧ (release → b.inLoad = true → ⟨b.id, .performed⟩ ∈ a.deps)
          ∧ (release → sco = .dev ∨ wide → b.inStore = true → ⟨b.id, .ctl⟩ ∈ a.deps)
          ∧ (release → sco = .cl → b.inStore = true → ⟨b.id, .port⟩ ∈ a.deps))
      ∧ (release → (sco = .dev ∨ wide → ⟨s.nextId, .observed k true⟩ ∈ a.deps) ∧ (sco = .cl → ⟨s.nextId, .observed k false⟩ ∈ a.deps))
      ∧ (release → wide → (∀ b ∈ s.accs, b.core = k → b.isAgg = true → ⟨b.id, .performed⟩ ∈ a.deps)
          ∧ ∀ b ∈ t.aggBufs, ∀ e ∈ b.elems, e.task ≠ k)
      ∧ (∀ (f : Fin 8) (st : Stream), (s.core k).streams[f] = some st → st.device = true →
          (st.output = false → st.moved < st.total → inLoad = true ∨ release → ⟨st.order, .groups k st.total .performed⟩ ∈ a.deps)
          ∧ (st.output = true → st.moved < min st.total st.done →
              (inStore = true → ⟨st.order, .groups k (min st.total st.done) .entered⟩ ∈ a.deps)
              ∧ (release → sco = .dev ∨ wide → ⟨st.order, .groups k (min st.total st.done) .ctl⟩ ∈ a.deps)))
      ∧ (∀ e ∈ (s.core k).ordLoads, s.depMet e = false → inLoad = true → e ∈ a.deps)
      ∧ (∀ e ∈ (s.core k).ordStores, s.depMet e = false → inStore = true → e ∈ a.deps)
      ∧ (ord = .strong ∨ ord = .acqRel → inLoad = true → inStore = false →
          ⟨a.id, .performed⟩ ∈ (t.core k).ordLoads ∧ ⟨a.id, .performed⟩ ∈ (t.core k).ordStores)
      ∧ t.mem = s.mem ∧ (t.core k).s = (s.core k).s ∧ (t.core k).v = (s.core k).v ∧ (t.core k).scratch = (s.core k).scratch

/-- R145, R146, R250-R257, R260, R261, R264: what fences and the accesses themselves order. -/
def Obligations.OrderingResults : Prop := fenceOrders ∧ accessEnters
/-! ## F slot -/

/-- The message that the running bundle sends (R234, R311). -/
def sentMessage (s : State) (circ : Circ) (kind len fmt : Nat) (payload : List (BitVec 512)) : Message :=
  { circ := circ.val, stamp := s.me.lc, kind := kind, len := len, fmt := fmt, sdev := s.deviceId.toNat, stask := s.cur, cstep := 0,
    payload := payload }

/-- R29, R177, R232, R234-R239, R311: SEND, SENDT and QSEND of the circuit's sending task complete with a message of their words or
units, stamped with LC, behind the flits already queued; SEND holds while the message has no room; a task that does not send on the
circuit traps, and so does a QSEND of more rows than its queue holds.
The model's own choices in it: log entry 50. -/
def Obligations.SendResults : Prop :=
  ∀ (s : State) (circ : Circ) (ci : Circuit), s.circuits.find? (fun c => c.id == circ.val) = some ci →
    let mine : Prop := ci.shere = true ∧ ci.stask = s.cur
    let queues (t : State) (m : Message) : Prop :=
      ∃ x : Circuit, t.circuits.find? (fun c => c.id == circ.val) = some x
        ∧ x.out.map (fun f => (f.1.type, f.1.circ, f.1.data)) =
            ci.out.map (fun f => (f.1.type, f.1.circ, f.1.data)) ++ (messageFlits m).map (fun f => (f.type, f.circ, f.data))
        ∧ x.rx = ci.rx
    (∀ (v : VReg) (ln : Fin 64), s.Ready 5 1 [.v v.val] [] →
      let u := s.fed 5 1 [.v v.val]
      let n := ln.val + 1
      (mine → ci.out.length + (n + 15) / 16 + 2 ≤ 16 →
        ∃ (t : State) (data : List (BitVec 512)), exec (.send v circ ln) s = .next (s.issues fun _ => t)
          ∧ queues t (sentMessage s circ 0 n 0 data) ∧ data.length = (n + 15) / 16
          ∧ (∀ i, i < 16 * data.length →
              bits ((data.getD (i / 16) 0).toNat) (32 * (i % 16)) 32 = if i < n then (lane (u.me.rdV v) i).toNat else 0)
          ∧ t.me = u.me ∧ t.mem = s.mem)
      ∧ (mine → 16 < ci.out.length + (n + 15) / 16 + 2 → s.me.chanErr = [] → exec (.send v circ ln) s = .next (s.hold s.cur 5
          { sub := 8, info0 := BitVec.ofNat 64 circ.val, info1 := BitVec.ofNat 64 ci.out.length }))
      ∧ (¬mine → exec (.send v circ ln) s = .next (s.trap s.cur
          { cause := 3, sub := 3, slot := 5, info0 := BitVec.ofNat 64 (opWord (.send v circ ln)), info1 := BitVec.ofNat 64 circ.val } s.me.pc s.me.lc)))
    ∧ (∀ tile : TileIx, s.Clear [] [] → s.TilesFree [tile.val] → s.Settled [(4096 * tile.val, 4096)] →
        (∀ p ∈ s.me.pendingTiles ++ s.lateTiles s.cur, p.1 ≠ tile.val) → mine →
        ∃ (t : State) (data : List (BitVec 512)), exec (.sendt tile circ) s = .next (s.issues fun _ => t)
          ∧ queues t (sentMessage s circ 1 64 (s.me.tile tile.val).fmt data) ∧ data.length = 64
          ∧ (∀ i, i < 64 → (data.getD i 0).toNat = s.me.readNat (tile.val * 4096 + 64 * i) 64)
          ∧ t.me = (s.me.lookAt s.me.lc.toNat 0 [(4096 * tile.val, 4096)]).setTile tile.val { s.me.tile tile.val with
              engine := true, dir := true, expect := 64, arrived := 0, offered := 0, overrun := false, givePc := s.me.pc,
              giveLc := s.me.lc.toNat }
          ∧ t.tileIo = s.tileIo ++ [{
              core := s.cur, tile := tile.val, out := true, fmt := (s.me.tile tile.val).fmt, unit := 0, data := data, order := s.nextId }]
          ∧ t.mem = s.mem)
    ∧ ∀ (q : QReg) (nrow : Fin 128), s.Clear [] [] → mine →
      let n := nrow.val + 1
      let rows := s.me.queue q
      (n ≤ rows.length → (∀ r ∈ rows.take n, r.bad = false) →
        ∃ (t : State) (data : List (BitVec 512)), exec (.qsend q circ nrow) s = .next (s.issues fun _ => t)
          ∧ queues t (sentMessage s circ 1 (4 * n) 0 data) ∧ data.length = 4 * n
          ∧ (∀ i, i < 4 * n → (data.getD i 0).toNat = bits ((rows.getD (i / 4) { words := 0 }).words.toNat) (512 * (i % 4)) 512)
          ∧ t.me = s.me.setQueue q (rows.drop n) ∧ t.mem = s.mem)
      ∧ (rows.length < n → exec (.qsend q circ nrow) s = .next (s.trap s.cur
          { cause := 0x14, sub := 2, slot := 5, info0 := BitVec.ofNat 64 n, info1 := BitVec.ofNat 64 rows.length,
            addr := BitVec.ofNat 64 q.val } s.me.pc s.me.lc))

/-- R29, R83, R232, R235, R237, R238: RECV and RECVT of the circuit's receiving task complete when the oldest message has checked and its
stamp, kind and length are the expected ones: RECV's words are visible 1 lc later in lanes 0 to LANES, RECVT hands its tile over; a wrong
stamp traps with the message unconsumed; with no checked message the bundle waits.
The model's own choices in it: log entry 49. -/
def Obligations.ReceiveResults : Prop :=
  ∀ (s : State) (circ : Circ) (delta : BitVec 24) (ci : Circuit), s.circuits.find? (fun c => c.id == circ.val) = some ci →
    ci.rhere = true → ci.rtask = s.cur →
    let expect := s.me.lc - delta.signExtend 64
    let consumed (t : State) : Prop :=
      ∃ x : Circuit, t.circuits.find? (fun c => c.id == circ.val) = some x ∧ x.rx = ci.rx.tail ∧ x.out = ci.out
    (∀ (v : VReg) (ln : Fin 64), s.Ready 5 1 [] [.v v.val] →
      (∀ (m : Message) (rest : List RxPlace), ci.rx = .ready m :: rest →
        (m.stamp = expect → m.kind = 0 → m.len = ln.val + 1 →
          ∃ (t : State) (mask : BitVec 64) (r : BitVec 2048), exec (.recv v circ delta ln) s = .next (s.issues fun _ => t.putV 5 v mask r 1)
            ∧ consumed t ∧ t.me = { s.me with seen := t.me.seen } ∧ t.mem = s.mem
            ∧ (∀ i, i < 64 → (mask.getLsbD i = true ↔ i ≤ ln.val))
            ∧ ∀ i, i ≤ ln.val → lane r i = BitVec.ofNat 32 (bits ((m.payload.getD (i / 16) 0).toNat) (32 * (i % 16)) 32))
        ∧ (m.stamp ≠ expect → exec (.recv v circ delta ln) s = .next (s.trap s.cur
            { cause := 0x15, sub := 1, slot := 5, info0 := expect, info1 := m.stamp, addr := BitVec.ofNat 64 circ.val } s.me.pc s.me.lc))
        ∧ (m.stamp = expect → m.kind ≠ 0 ∨ m.len ≠ ln.val + 1 → exec (.recv v circ delta ln) s = .next (s.trap s.cur
            { cause := 0x15, sub := 2, slot := 5, info0 := BitVec.ofNat 64 (ln.val + 1), info1 := BitVec.ofNat 64 m.len,
              addr := BitVec.ofNat 64 circ.val } s.me.pc s.me.lc)))
      ∧ (ci.rx = [] → s.me.chanErr = [] → exec (.recv v circ delta ln) s = .next (s.hold s.cur 5
          { sub := 2, info0 := expect, addr := BitVec.ofNat 64 circ.val })))
    ∧ ∀ tile : TileIx, s.Clear [] [] → s.TilesFree [tile.val] → (∀ p ∈ s.me.pendingTiles ++ s.lateTiles s.cur, p.1 ≠ tile.val) →
      ∀ (m : Message) (rest : List RxPlace), ci.rx = .ready m :: rest →
        (m.stamp = expect → m.kind = 1 →
          ∃ t : State, exec (.recvt tile circ delta) s = .next (s.issues fun _ => t) ∧ consumed t ∧ t.mem = s.mem
            ∧ t.me = { s.me.setTile tile.val { s.me.tile tile.val with
                engine := true, dir := false, expect := m.len, arrived := 0, offered := 0, overrun := false, givePc := s.me.pc,
                giveLc := s.me.lc.toNat } with seen := t.me.seen }
            ∧ ∃ io : TileIo, t.tileIo = s.tileIo ++ [io] ∧ io.core = s.cur ∧ io.tile = tile.val ∧ io.out = false ∧ io.fmt = m.fmt
                ∧ io.unit = 0 ∧ io.data = m.payload)
        ∧ (m.stamp ≠ expect → exec (.recvt tile circ delta) s = .next (s.trap s.cur
            { cause := 0x15, sub := 1, slot := 5, info0 := expect, info1 := m.stamp, addr := BitVec.ofNat 64 circ.val } s.me.pc s.me.lc))

/-- R202, R240, R242-R245, R262: COLL of a template that names the task as its issuer, KSRCH, KRED and KOP of an aligned descriptor
complete: the command waits for its engine with what a release at DEVICE scope waits for. COLL by another task, and a descriptor not at a
multiple of 64, trap. -/
def Obligations.EngineCommandResults : Prop :=
  ∀ (s : State) (a : SReg) (ch : Chan) (inc : Fin 256), s.Clear [.s a.val] [] → s.PlaceFree →
    let x := s.me.rdS a
    let enters (i : Instr) (kind : CmdKind) (n : Nat) : Prop :=
      (∀ k ∈ s.cmds, k.core = s.cur → k.ch = ch → k.st ≠ .failed) →
      ∃ t, exec i s = .next (s.issues fun _ => t)
        ∧ t.cmds = s.cmds ++ [
          { id := s.nextId, core := s.cur, cluster := clusterOf s.cur, ch := ch, inc := n, kind := kind, pc := s.me.pc, lc := s.me.lc.toNat,
            deps := s.releaseDeps s.cur .dev, st := .waiting }]
        ∧ (∃ p, t.accs = s.accs ++ [p] ∧ p.op = .place ∧ p.core = s.cur ∧ p.id = s.nextId) ∧ t.me = s.me ∧ t.mem = s.mem
    (∀ tmpl : Fin 256,
      let t := s.collTemplate s.cur tmpl.val
      (bits t.toNat 48 9 = s.cur →
        enters (.coll tmpl a ch inc) (.coll tmpl.val (toSigned 48 (bits x.toNat 0 48))) (if inc.val = 0 then bits t.toNat 16 8 else inc.val))
      ∧ (bits t.toNat 48 9 ≠ s.cur → exec (.coll tmpl a ch inc) s = .next (s.trap s.cur
          { cause := 3, sub := 3, slot := 5, info0 := BitVec.ofNat 64 (opWord (.coll tmpl a ch inc)), info1 := BitVec.ofNat 64 tmpl.val }
          s.me.pc s.me.lc)))
    ∧ ∀ stk : Fin 8,
      (x.toNat % 64 = 0 →
        enters (.ksrch a stk ch inc) (.ksrch x stk.val) inc.val ∧ enters (.kred a stk ch inc) (.kred x stk.val) inc.val
        ∧ enters (.kop a stk ch inc) (.kop x stk.val) inc.val)
      ∧ (x.toNat % 64 ≠ 0 → ∀ i : Instr, i = .ksrch a stk ch inc ∨ i = .kred a stk ch inc ∨ i = .kop a stk ch inc →
          exec i s = .next (s.trap s.cur { cause := 0x33, sub := 2, slot := 5, info0 := 64, addr := BitVec.ofNat 64 x.toNat } s.me.pc s.me.lc))
/-! ## The command core -/

/-- R163-R165: NODEW of a slot whose last node has ended, YIELD of the slot that is chosen and GDONE complete. NODEW writes the end
status; such a YIELD changes nothing; after GDONE the slot is idle, the host has its vector and the command core runs no graph.
The model's own choices in it: log entry 16. -/
def commandCoreResults : Prop :=
  ∀ (s : State) (n : Nat), s.graph = some n →
    (∀ (d : SReg) (st : Word), s.Clear [] [.s d.val] → (s.slot n).status = some st →
      exec (.nodew d) s = .next (s.issues fun t => t.putS 0 d st 1))
    ∧ (∀ d : SReg, s.Clear [] [.s d.val] → (s.slot n).status = none → s.me.chanErr = [] →
      exec (.nodew d) s = .next (s.hold s.cur 0 { sub := 0 }))
    ∧ (s.Clear [] [] → s.choose = some n → (s.issues id).choose = some n → (s.issues id).graph = some n →
      exec .yield s = .next (s.issues id))
    ∧ (s.Clear [] [] → s.cur = 384 → s.me.pend = [] → s.me.phase ≠ .aligning →
      ∃ t, exec .gdone s = .next t ∧ (t.slot n).st = .idle ∧ t.graph = none ∧ t.graphImage = none
        ∧ (t.core 384).phase = .absent ∧ (t.core 384).lc = s.me.lc + 1
        ∧ t.host = s.host
            ++ (if (s.slot n).daddr = 0 then [] else
                [.write (s.slot n).daddr.toNat (leBytes 8 ((s.slot n).launched * 2 ^ 32))])
            ++ [.msix (s.slot n).vec.toNat]
        ∧ t.mem = s.mem)

/-- R164: SIGH completes: with B not S0 the write of S[A] to host address S[B] is posted first and the vector after it; with B = S0 the
vector alone. -/
def Obligations.SignalHost : Prop :=
  ∀ (s : State) (a b : SReg) (vec : BitVec 8), s.Clear [.s a.val, .s b.val] [] →
    (b ≠ 0 → (s.me.rdS b).toNat % 8 = 0 → exec (.sigh a b vec) s = .next (s.issues fun t =>
      { t with host := s.host ++ [.write (s.me.rdS b).toNat (leBytes 8 (s.me.rdS a).toNat), .msix vec.toNat] }))
    ∧ (b = 0 → exec (.sigh a b vec) s = .next (s.issues fun t => { t with host := s.host ++ [.msix vec.toNat] }))

/-- R19, R162, R326, R330: LAUNCH by the chosen slot, while no node runs, of an image that loads, completes: the node of that image runs
with the slot's seed and the given index, and every task begins at its entry with LC 0, its registers at their start values; while
a node runs LAUNCH waits.
The model's own choices in it: log entries 16, 46, 48. -/
def launchResults : Prop :=
  ∀ (s : State) (a b : SReg) (node : BitVec 32) (n : Nat), s.graph = some n → s.cur = 384 → s.Clear [.s a.val, .s b.val] [] →
    (s.node.isSome = true → s.me.chanErr = [] → exec (.launch a b node) s = .next (s.hold s.cur 0 { sub := 0 }))
    ∧ ∀ ld : Loaded, s.node = none → s.choose = some n →
      s.loadNode n (s.me.rdS a).toNat (s.me.rdS b).toNat = .ok ld →
      ∃ t, exec (.launch a b node) s = .next (s.issues fun _ => t)
        ∧ (∃ nd, t.node = some nd ∧ nd.slot = n ∧ nd.index = node ∧ nd.image.base = ld.image.base ∧ nd.image.entries = ld.image.entries
            ∧ nd.seed = BitVec.ofNat 64 (bits (s.slot n).submitted.toNat 3 32 * 2 ^ 32 + (s.slot n).seed.toNat) ∧ nd.aligned = false
            ∧ nd.stopping = false)
        ∧ t.circuits = ld.circuits ∧ (t.slot n).status = none ∧ (t.slot n).launched = (s.slot n).launched + 1
        ∧ t.mem = s.mem
        ∧ ∀ k, k < 384 → (∀ e, ld.image.entries.getD k none = some e →
            (t.core k).phase = .running ∧ (t.core k).pc = BitVec.ofNat 64 (ld.image.base + e) ∧ (t.core k).lc = 0
            ∧ (t.core k).s = Vector.replicate 64 0 ∧ (t.core k).p = 1 ∧ (t.core k).scratch = [] ∧ (t.core k).inh = false
            ∧ (t.core k).trapvec = 0)

/-- R19, R162-R165, R326, R330: LAUNCH, NODEW, YIELD and GDONE complete. -/
def Obligations.CommandCoreResults : Prop := commandCoreResults ∧ launchResults
/-! ## Traps -/

/-- R350, R351, R354, R356: a precise trap of a tile task that goes to the core's handler: nothing of the bundle has happened, active
loops end, the trap CSRs hold cause, PC, LC and the trap's words, INH is 1 and the next bundle is the one at TRAPVEC, at the same LC. No
general register and no memory changes.
The model's own choices in it: log entry 64. -/
def Obligations.TrapEntersHandler : Prop :=
  ∀ (s : State) (k : Nat) (t : Trap) (pc lc : Word),
    let c := s.core k
    k ≠ 384 → coreCause t.cause = true → t.cause ≠ 0x10 → bits c.trapvec.toNat 0 57 ≠ 0 → c.inh = false → c.phase ≠ .stopped →
    c.pend = [] → c.reports = [] → s.awaited k = none → s.awaitedCl k = false →
    let u := s.trap k t pc lc
    let d := u.core k
    d.trap = { cause := BitVec.ofNat 64 (t.cause + t.sub * 2 ^ 8 + t.slot * 2 ^ 16 + (if t.defer then 1 else 0) * 2 ^ 19), pc := pc, lc := lc,
               addr := t.addr, info0 := t.info0, info1 := t.info1, opc := t.opc }
    ∧ d.pc = c.trapvec ∧ d.lc = lc ∧ d.inh = true ∧ d.loops = [] ∧ d.jump = none ∧ d.phase = .running ∧ d.trapvec = c.trapvec
    ∧ d.s = c.s ∧ d.p = c.p ∧ d.v = c.v ∧ d.m = c.m ∧ d.t = c.t ∧ d.tcfg = c.tcfg ∧ d.acc = c.acc ∧ d.q = c.q ∧ d.scratch = c.scratch
    ∧ d.streams = c.streams ∧ d.sticky = c.sticky ∧ d.shadow = c.shadow ∧ d.chcnt = c.chcnt ∧ d.sbchk = c.sbchk
    ∧ (t.cause ≠ 0x13 → d.tiles = c.tiles)
    ∧ u.mem = s.mem ∧ ∀ j, j ≠ k → u.core j = s.core j

/-- R350, R351, R355, R356, R367: any other trap of a tile task stops the task; the record goes to the command core, with the cause that
was being handled when the trap was raised in a handler; the node stops and its end status holds the first record's cause and task. The scribe's record of it is the next
one, where none of the same TIME comes after it (R455). -/
def Obligations.TrapStopsTask : Prop :=
  ∀ (s : State) (k : Nat) (t : Trap) (pc lc : Word) (n : Node),
    let c := s.core k
    k < 384 → s.node = some n → coreCause t.cause = false ∨ bits c.trapvec.toNat 0 57 = 0 ∨ c.inh = true →
    t.cause < 256 → t.cause ≠ 0x50 → t.cause ≠ 0x10 → c.phase ≠ .stopped → c.pend = [] → c.reports = [] → s.awaited k = none →
    s.awaitedCl k = false →
    let u := s.trap k t pc lc
    (u.core k).phase = .stopped ∧ (u.core k).s = c.s ∧ (u.core k).scratch = c.scratch ∧ (u.core k).acc = c.acc
    ∧ u.mem = s.mem ∧ (∀ j, j ≠ k → u.core j = s.core j)
    ∧ (∃ m, u.node = some m ∧ m.stopping = true ∧ m.slot = n.slot ∧ m.image = n.image
        ∧ (n.status = none → m.status = some (BitVec.ofNat 64 (t.cause + k * 2 ^ 8)))
        ∧ ∀ w, n.status = some w → m.status = some w)
    ∧ (s.scribe.frozen = false → s.scribe.freezeIn = none → n.slot < 64 → (s.placeOf k).1 < 16 → (s.placeOf k).2 < 64 → t.sub < 256 →
        t.slot < 8 → s.scribe.later (Sparse.get 0 s.scribe.ring ((s.scribe.head - 1).toNat % 8192)) (scribeKey 1 k) = false →
        let r := Sparse.get 0 u.scribe.ring (s.scribe.head.toNat % 8192)
        bits r.toNat (64 + 56) 8 = 1 ∧ bits r.toNat (64 + 48) 8 = t.cause ∧ bits r.toNat (64 + 39) 9 = k)

/-- R32, R353, R357, R358: a bundle that a bounded wait holds waits one more clock; when its clocks, those of a migration's hold left out, reach the patience it takes the timing
trap, without awaiting what is outstanding, and the core's outstanding results are abandoned, those of cluster accesses too.
The model's own choices in it: log entry 53. -/
def Obligations.PatienceBoundsWaits : Prop :=
  ∀ (s : State) (k slot : Nat) (w : Wait) (since : Nat), w.sub ≠ 0 → (s.core k).held = some since →
    let c := s.core k
    (s.counted k since < s.patience k →
      let t := s.hold k slot w
      t.clk = s.clk + 1 ∧ t.core k = c.stallsFrom s.clk w.sub ∧ t.accs = s.accs ∧ t.mem = s.mem)
    ∧ (s.patience k ≤ s.counted k since → k < 384 → bits c.trapvec.toNat 0 57 ≠ 0 → c.inh = false → c.phase ≠ .stopped → c.pend = [] →
        c.reports = [] →
        let t := s.hold k slot w
        let d := t.core k
        d.trap = { cause := BitVec.ofNat 64 (0x10 + w.sub * 2 ^ 8 + slot * 2 ^ 16), pc := c.pc, lc := c.lc, addr := w.addr, info0 := w.info0,
                   info1 := w.info1 }
        ∧ d.pc = c.trapvec ∧ d.lc = c.lc ∧ d.inh = true ∧ d.s = c.s ∧ d.v = c.v
        ∧ t.mem = s.mem ∧ (∀ a ∈ t.accs, a.core = k → a.op.dest.isSome = true → a.abandoned = true)
        ∧ (∀ a ∈ t.clAccs, a.core = k → a.abandoned = true))

/-! ## Steps of the cores

Each result below says what one such step does where it completes; the obligations join them by kind. -/

/-- No record has stopped the running node. -/
def nodeGoesOn (s : State) : Prop := ∀ n, s.node = some n → n.stopping = false

/-- A running core that nothing holds before its next bundle, with no result of its own in flight and no cluster access before it. -/
structure nextBundle (s : State) (k : Nat) : Prop where
  running : (s.core k).phase = .running
  first : s.clNext k = none
  entering : (s.core k).entering = none
  quiet : (s.core k).pend = []
  node : nodeGoesOn s

/-- R38, R39: BUNDLE_NULLIFIED moves LC by 1 + STALL and changes no register and no memory; every eighth of a run takes one clock. -/
def bundleNullifiedResult : Prop :=
  ∀ (s : State) (k w : Nat) (half : Bool) (b : Bundle), nextBundle s k → s.head k = .bundle half w b → (s.core k).nullifies b = true →
    let c := s.core k
    ∃ t, exec (.bundleNullified k) s = .next t
      ∧ (t.core k).lc = c.lc + BitVec.ofNat 64 (1 + b.stall.val)
      ∧ (t.core k).clks = c.clks + (if (c.nullRun + 1) % 8 = 0 then 1 else 0) ∧ (t.core k).nullRun = c.nullRun + 1
      ∧ (t.core k).s = c.s ∧ (t.core k).p = c.p ∧ (t.core k).v = c.v ∧ (t.core k).m = c.m ∧ (t.core k).t = c.t ∧ (t.core k).tcfg = c.tcfg
      ∧ (t.core k).acc = c.acc ∧ (t.core k).q = c.q ∧ (t.core k).scratch = c.scratch ∧ (t.core k).tiles = c.tiles
      ∧ (t.core k).streams = c.streams ∧ (t.core k).shadow = c.shadow ∧ (t.core k).trap = c.trap ∧ (t.core k).inh = c.inh
      ∧ t.mem = s.mem ∧ t.accs = s.accs ∧ ∀ j, j ≠ k → t.core j = s.core j

/-- R34, R59, R136, R152, R177: FIXED_LATENCY_RESULT makes a result visible at its logical cycle and not before; a bit of STICKY that it sets is set. -/
def fixedLatencyResult : Prop :=
  ∀ (s : State) (k : Nat) (p : Pending), (s.core k).pend = [p] →
    ((s.core k).lc.toNat * 2 < p.key → exec (.fixedLatencyResult k) s = .next s)
    ∧ (p.key ≤ (s.core k).lc.toNat * 2 →
      (∀ d v, p.what = .s d v → ∃ t, exec (.fixedLatencyResult k) s = .next t ∧ (t.core k).rdS d = (if d = 0 then 0 else v)
        ∧ (∀ e, e ≠ d → (t.core k).rdS e = (s.core k).rdS e) ∧ (t.core k).pend = [] ∧ (t.core k).p = (s.core k).p
        ∧ (t.core k).v = (s.core k).v ∧ t.mem = s.mem)
      ∧ (∀ d v, p.what = .p d v → ∃ t, exec (.fixedLatencyResult k) s = .next t ∧ (t.core k).rdP d = (d = 0 || v)
        ∧ (∀ e, e ≠ d → (t.core k).rdP e = (s.core k).rdP e) ∧ (t.core k).pend = [] ∧ (t.core k).s = (s.core k).s ∧ t.mem = s.mem)
      ∧ (∀ d mask v, p.what = .v d mask v → ∃ t, exec (.fixedLatencyResult k) s = .next t
        ∧ (t.core k).v[d] = mergeLanes mask (s.core k).v[d] v ∧ (∀ e, e ≠ d → (t.core k).v[e] = (s.core k).v[e])
        ∧ (t.core k).pend = [] ∧ (t.core k).s = (s.core k).s ∧ t.mem = s.mem)
      ∧ (∀ d mask v, p.what = .m d mask v → ∃ t, exec (.fixedLatencyResult k) s = .next t
        ∧ (∀ i, i < 64 → ((t.core k).rdM d).getLsbD i = (d = 0 || if mask.getLsbD i then v.getLsbD i else ((s.core k).rdM d).getLsbD i))
        ∧ (∀ e, e ≠ d → (t.core k).rdM e = (s.core k).rdM e) ∧ (t.core k).pend = [] ∧ (t.core k).s = (s.core k).s ∧ (t.core k).v = (s.core k).v
        ∧ t.mem = s.mem)
      ∧ (∀ v, p.what = .sticky v → ∃ t, exec (.fixedLatencyResult k) s = .next t ∧ (t.core k).sticky = (s.core k).sticky ||| v
        ∧ (t.core k).pend = [] ∧ (t.core k).s = (s.core k).s ∧ (t.core k).p = (s.core k).p ∧ (t.core k).v = (s.core k).v ∧ t.mem = s.mem))

/-- R32, R41, R143, R357: TIMING_TRAP lets the clocks of patience pass: the task that ENDT holds takes sub-cause 0x0A, and a bundle that is held takes the
sub-cause of the wait that holds it, the first in the table of R357; after an SSTEP, sub-cause 0x0A is one of them.
The model's own choices in it: log entries 13, 53. -/
def timingTrapResult : Prop :=
  ∀ (s : State) (k t0 : Nat), (s.core k).held = some t0 → (s.core k).entering = none → s.clNext k = none → nodeGoesOn s →
    let c := s.core k
    let u := { s with cur := k }.elapse (t0 + s.patience k - s.clk)
    s.patience k ≤ u.counted k t0 →
    (c.phase = .ending → c.dueTraps = [] → s.settled k = false →
      exec (.timingTrap k) s = .next ((u.updCore k (·.stallsFrom u.clk 0x0A)).trap k (timingTrap 0 (u.boundaryWait k)) c.lastPc c.lastLc))
    ∧ ∀ (half : Bool) (w : Nat) (b : Bundle) (slot : Nat) (x : Wait),
        c.phase = .running ∨ (c.phase = .sstep ∧ s.settled k = false) → c.pend = [] → u.head k = .bundle half w b → c.nullifies b = false →
        b.restart = false → u.reportsNow k (issueSlots c w b) = [] →
        let v := u.updCore k fun c => { c with inHalf1 := half }
        v.judge k (issueSlots c w b) (u.sstepWait k) = .hold slot x → x.sub ≠ 0 →
        exec (.timingTrap k) s = .next (v.trap k (timingTrap slot x) c.pc c.lc)

/-- R352, R353, R377: DEFERRED_REPORT: the bundle that would be next takes, of the reports that are due and those that it meets, the one of the oldest bundle,
at its own PC and LC; it does not issue. A task that ENDT holds takes the oldest of all its reports, at the ENDT. -/
def deferredReportResult : Prop :=
  ∀ (s : State) (k : Nat) (r : Trap), (s.core k).dueTraps ≠ [] →
    let c := s.core k
    let u := { s with cur := k }
    (∀ (half : Bool) (w : Nat) (b : Bundle), nextBundle u k → u.head k = .bundle half w b → c.nullifies b = false →
      oldestTrap (u.reportsNow k (issueSlots c w b)) = some r → exec (.deferredReport k) s = .next (u.trap k r c.pc c.lc))
    ∧ (c.phase = .ending → c.entering = none → s.clNext k = none → nodeGoesOn s → oldestTrap c.dueTraps = some r →
        exec (.deferredReport k) s = .next ((u.updCore k fun c => { c with phase := .running }).trap k r c.lastPc c.lastLc))

/-- R112: SEGMENT_EXPANSION fills a half of the loop buffer: with the segment that the PC awaits the one that execution is not in, and otherwise, with the
segment that NEXT names of the segment that holds the bundle at the PC, the half that does not hold that bundle, unless it holds that segment already.
The model's own choices in it: log entry 80 (a task's first segment goes into the second half; a NEXT is followed as it stands). -/
def segmentExpansionResult : Prop :=
  ∀ (s : State) (k head : Nat) (h : Half),
    let c := s.core k
    let fills (into1 : Bool) : Prop := ∃ t, exec (.segmentExpansion k) s = .next t
      ∧ t.core k = (if into1 then { c with half1 := some h } else { c with half0 := some h })
      ∧ (∀ j, j ≠ k → t.core j = s.core j) ∧ t.mem = s.mem ∧ t.clk = s.clk
    (s.segmentMeets k head).expand k head = some h →
    (s.fetch k = .wait head → fills (!c.inHalf1))
    ∧ ∀ (in1 : Bool) (i : BufItem) (x : Half), s.fetch k = .item in1 i → i.what.trap = none → (if in1 then c.half1 else c.half0) = some x →
        x.rep = false → x.next ≠ 0 → head = s.imageBase k + x.next →
        (∀ y, (if in1 then c.half0 else c.half1) = some y → y.head ≠ head) → fills (!in1)

/-- R26, R28: ALIGN_COMPLETE, once every task has issued its ALIGN and every link of the node has aligned, sets LC to 0 on all of them
and on the routers. -/
def alignCompleteResult : Prop :=
  ∀ (s : State) (n : Node), s.node = some n → n.aligned = false → (∀ k ∈ s.tasks, (s.core k).phase = .aligning) →
    s.alignMasks.1 = s.alignMasks.2 →
    ∃ t, exec .alignComplete s = .next t ∧ t.node = some { n with aligned := true }
      ∧ (∀ r ∈ t.routers, r.lc = 0) ∧ t.routers.length = s.routers.length
      ∧ (∀ k, (s.core k).phase = .aligning → (t.core k).phase = .running ∧ (t.core k).lc = 0 ∧ (t.core k).pc = (s.core k).pc
          ∧ (t.core k).s = (s.core k).s ∧ (t.core k).pend = (s.core k).pend)
      ∧ (∀ k, (s.core k).phase ≠ .aligning → t.core k = s.core k) ∧ t.mem = s.mem

/-- R30, R80: CLUSTER_ACCESS_PERFORMED: a store is made in the target's scratchpad, in its place among the target's own accesses; a load's value is that of
the scratchpad at the access's performing cycle and is on its way to the issuer for its logical cycle t + 14, unless a younger result has been written over
its register or its result is abandoned.
The model's own choices in it: log entry 25. -/
def clusterAccessResult : Prop :=
  ∀ (s : State) (a : ClAcc), s.clAccs.find? (fun b => b.id == a.id) = some a → s.clReady a = true →
    s.clCheck a = none → s.clBad a = none → (s.core a.core).pend = [] →
      let left := s.clAccs.filter fun b => b.id != a.id
      (∀ n v, a.op = .st n v → ∃ t, exec (.clusterAccessPerformed a.id) s = .next t ∧ t.clAccs = left ∧ t.mem = s.mem
        ∧ t.core a.target =
            ({ s.core a.target with clSeen := (s.clk, a.perform, a.core), seen := (t.core a.target).seen }).storeAt
              (a.at_ (s.core a.target)) a.rank (a.addr % 2 ^ 21) n v
        ∧ ∀ j, j ≠ a.target → t.core j = s.core j)
      ∧ (∀ d sz sg, a.op = .ld d sz sg →
        let value := (a.view (s.core a.target)).readNat (a.addr % 2 ^ 21) (Size.bytes sz)
        (s.core a.core).lc.toNat < a.vis → ∃ t, exec (.clusterAccessPerformed a.id) s = .next t ∧ t.clAccs = left ∧ t.mem = s.mem
        ∧ (t.core a.core).pend = (if a.keep = 0 ∨ a.abandoned = true then [] else
            [{ key := 2 * a.vis, slot := 4, lc := a.vis - 14, pc := a.pc, what := .s d (loadExtend sz sg value) }])
        ∧ (∀ j, j ≠ a.core → (t.core j).pend = (s.core j).pend)
        ∧ (t.core a.target).looked = ((s.core a.target).lookAt a.perform a.rank [(a.addr % 2 ^ 21, Size.bytes sz)]).looked
        ∧ (∀ j, j ≠ a.target → (t.core j).looked = (s.core j).looked)
        ∧ ∀ j, t.core j = { s.core j with pend := (t.core j).pend, seen := (t.core j).seen, clSeen := (t.core j).clSeen, looked := (t.core j).looked })

/-- R30, R80: an issued cluster access whose performing cycle lies below the LC of its running target is performed before the target goes on: where the
core's next bundle finds one, it acts as it does after CLUSTER_ACCESS_PERFORMED of the first of them. -/
def clusterAccessFirst : Prop :=
  ∀ (s : State) (a : ClAcc), s.clNext s.cur = some a → s.clAccs.find? (fun b => b.id == a.id) = some a →
    ∃ t, exec (.clusterAccessPerformed a.id) s = .next t ∧ exec (.heldBundleIssue s.cur) s = exec (.heldBundleIssue s.cur) t

/-- R83, R85, R238: TILE_UNIT_ARRIVAL moves one 64-byte unit of a handoff; with the last one the tile returns to the core with its tag
advanced and not verified; a unit that arrives is written to the tile. -/
def tileUnitResult : Prop :=
  ∀ (s : State) (io : TileIo), s.tileIo.find? (fun x => x.core == io.core && x.tile == io.tile) = some io →
    let c := s.core io.core
    let x := c.tile io.tile
    s.tileUnitBad io.core io.tile io = none → x.engine = true → x.dir = io.out → x.arrived < x.expect →
    let y : Tile := if x.arrived + 1 = x.expect then
        { x with arrived := x.arrived + 1, offered := x.offered + 1, engine := false, tag := x.tag + 1, verified := false,
                 fmt := if io.out then x.fmt else io.fmt }
      else { x with arrived := x.arrived + 1, offered := x.offered + 1 }
    ∃ t, exec (.tileUnitArrival io.core io.tile) s = .next t
      ∧ t.core io.core = (if io.out then c.setLent io.tile y
          else (c.setLent io.tile y).storeLent io.tile (io.tile * 4096 + 64 * io.unit) 64 (io.data.getD io.unit 0).toNat)
      ∧ ∀ j, j ≠ io.core → t.core j = s.core j

/-- R26, R30, R32, R34, R38, R39, R83, R112, R352: the steps of the cores that no instruction of theirs makes complete. -/
def Obligations.CoreEventResults : Prop :=
  bundleNullifiedResult ∧ fixedLatencyResult ∧ timingTrapResult ∧ deferredReportResult ∧ segmentExpansionResult ∧ alignCompleteResult
    ∧ clusterAccessResult ∧ clusterAccessFirst ∧ tileUnitResult

/-! ## A step runs the decoded instruction -/

/-- R25, R105-R117, R130: where the loop buffer holds at the PC a bundle that is the encoding of one unguarded operation, and nothing
comes before it (no cluster access, no result due, no report that it would take, no hold), a step of the device, and the step in which a held bundle goes on, are that
operation's meaning on the core. Before it, execution enters the half of the loop buffer that holds the bundle; where the bundle
issues, a run of nullified bundles ends and, with a V-slot operation at COV 2, one more core clock is counted.
The model's own choices in it: log entry 7. -/
def Obligations.StepRunsDecodedBundle : Prop :=
  ∀ (s : State) (half : Bool) (it : BufItem) (w : BitVec 384) (b : Bundle) (i : Instr) (op : SlotOp),
    s.agenda = [] → s.me.phase = .running → s.me.entering = none → s.clNext s.cur = none → nodeGoesOn s →
    (∀ p ∈ s.me.pend, 2 * s.me.lc.toNat + 1 < p.key) → s.reportsNow s.cur (op.alone i) = [] →
    s.fetch s.cur = .item half it → it.what = .bundle w → soloBundle i = some w.toNat → slotOp i = some op →
    decodeBundle (s.encCtx s.cur) s.me.first w.toNat = .ok b → b.slots.map (·.op) = [i] →
    let u := s.updMe fun c => { c with inHalf1 := half }
    let v := s.updMe fun c => { c with inHalf1 := half, nullRun := 0, clks := if s.cov = 2 && op.slot == 2 then c.clks + 1 else c.clks }
    let issues := match u.judge s.cur (op.alone i) with
      | .go => true
      | _ => false
    ∃ t, step s = .next t ∧ exec (.heldBundleIssue s.cur) s = .next t ∧ exec i (if issues then v else u) = .next t

/-! ## Steps of the memory side -/

/-- The access under way with its number. -/
def accessFound (s : State) (a : Access) : Prop := s.accs.find? (fun b => b.id == a.id) = some a

/-- Memory after n bytes of a number have been written at a key. -/
def bytesWritten (s t : State) (key n v : Nat) : Prop :=
  ∀ k, t.memByte k = if key ≤ k ∧ k < key + n then BitVec.ofNat 8 (v / 2 ^ (8 * (k - key))) else s.memByte k

/-- R250, R254, R273: STORE_ENTERS_PORT: a store, or an atomic, whose waits are over enters its cluster's memory port, in order; a remote
operation leaves for its destination. -/
def storeEntersResult : Prop :=
  ∀ (s : State) (a : Access), accessFound s a → a.place = .queue → s.depsMet a.deps = true → s.behindCluster a = false →
    s.streamBehind a a.todo = false → s.behindChase a = false →
    ((a.op = .st ∨ (∃ f, a.op = .streamOut f) ∨ a.isAtomic = true) → a.inStore = true →
      ∃ t, exec (.storeEntersPort a.id) s = .next t ∧ t.mem = s.mem ∧ t.nextId = s.nextId + 1 ∧ t.cores = s.cores
        ∧ t.accs = s.accs.map fun b => if b.id == a.id then { b with place := .port, portSeq := s.nextId } else b)
    ∧ (∀ d opk wide b chip seq, a.op = .remote d opk wide b chip seq →
      ∃ t, exec (.storeEntersPort a.id) s = .next t ∧ t.mem = s.mem ∧ t.cores = s.cores
        ∧ t.accs = (s.accs.map fun b => if b.id == a.id then { b with place := .sent } else b)
        ∧ t.opsSent = s.opsSent ++ [{ id := a.id, task := a.core, chip := chip.toNat, seq := seq, at_ := s.clk }]
        ∧ t.routers = (s.sendPacket (clusterOf a.core) 0 0 chip.toNat
            [opPacket s.deviceId.toNat a.core a.slot false opk wide b chip.toNat seq a.addr]).routers)

/-- R2, R213, R228, R250: STORE_PERFORMED: the bytes of a store, or of the link store of an ENQ, are in memory, the lowest first, and no other
byte changes; a store to host space goes to the host. What its translation finds in the tables' lines is the only thing before it. An ENQ whose value is
awaited stays until that has returned; the address of its link store is the one that its unit has translated (R272). -/
def storePerformedResult : Prop :=
  ∀ (s : State) (a : Access) (e : Elem) (x : Xlat), accessFound s a → a.place = .port → a.todo = [e] →
    let u := s.tablesMet srcCore a
    (a.op.isStore = true → u.storeReach a = .ok x → x.host = false → u.inTurn a x.key e = true →
      u.portTurn (u.corePort a.core) x.key e.n = true →
      ∃ t, exec (.storePerformed a.id) s = .next t ∧ bytesWritten s t x.key e.n e.data ∧ t.cores = s.cores ∧ t.host = u.host
        ∧ t.accs = (if a.owes then
              s.accs.map fun b => if b.id == a.id then { b with got := (x.key, e.n) :: a.got, todo := [], place := .performed } else b
            else s.accs.filter fun b => b.id != a.id)
        ∧ (∀ d old new key, a.op = .enqLink d old new key → x.key = key))
    ∧ (a.op = .st → u.reach a true = .ok x → x.host = true →
      ∃ t, exec (.storePerformed a.id) s = .next t ∧ t.mem = s.mem ∧ t.cores = s.cores
        ∧ t.host = u.host ++ [.hostStore (s.slot a.slot).pasid.toNat e.va (leBytes e.n e.data)]
        ∧ t.accs = s.accs.filter fun b => b.id != a.id)

/-- The next element of a load may be read, at the place that translation gives for it. -/
def elemTurn (s : State) (a : Access) (e : Elem) (x : Xlat) : Prop :=
  let u := s.tablesMet srcCore a
  s.loadReady a e = true ∧ u.reach a false = .ok x
    ∧ (x.host = false → u.fromController a x.key e.n = true → u.portTurn (u.corePort a.core) x.key e.n = true)

/-- R61, R213, R229, R251, R252, R388: VARIABLE_LATENCY_REPLY: a load's register takes the bytes that the load finds, extended; poison among those that it
takes from memory stops its task, with no register written; a remote operation's register takes the value of its reply. No memory changes.
The model's own choices in it: log entries 30, 51. -/
def variableReplyResult : Prop :=
  ∀ (s : State) (a : Access), accessFound s a → a.abandoned = false →
    (∀ d sz sg e x, a.op = .ld d sz sg → a.todo = [e] → a.got = [] → elemTurn s a e x →
      let r := (s.tablesMet srcCore a).elemReads a x e
      let loads (v : Word) : Prop := ∃ t, exec (.variableLatencyReply a.id) s = .next t
        ∧ (t.core a.core).rdS d = (if d = 0 then 0 else v)
        ∧ (∀ n, n ≠ d → (t.core a.core).rdS n = (s.core a.core).rdS n) ∧ (t.core a.core).p = (s.core a.core).p
        ∧ t.accs = (s.accs.filter fun b => b.id != a.id) ∧ t.mem = s.mem ∧ ∀ j, j ≠ a.core → t.core j = s.core j
      (x.host = false → r.loadPoison a x.key e.n = none → loads (loadExtend sz sg (r.loadValue a x.key e.n)))
      ∧ (x.host = true → loads (loadExtend sz sg (Config.freeBits r.free e.va % 2 ^ (8 * e.n))))
      ∧ (x.host = false → (r.loadPoison a x.key e.n).isSome = true → a.core < 384 →
          ∃ t, exec (.variableLatencyReply a.id) s = .next t ∧ (t.core a.core).phase = .stopped ∧ (t.core a.core).s = (s.core a.core).s
            ∧ t.mem = s.mem))
    ∧ (∀ d opk wide b chip seq p, a.op = .remote d opk wide b chip seq → a.place = .sent →
      s.inPkts.find? (fun p => p.pcls == 1 && p.seq == seq && p.task == a.core && p.srcDev == chip.toNat) = some p →
      bits (p.word 0) 2 4 = 0 →
      ∃ t, exec (.variableLatencyReply a.id) s = .next t
        ∧ (t.core a.core).rdS d = (if d = 0 then 0 else BitVec.ofNat 64 (if wide then p.word 1 else p.word 1 % 2 ^ 32))
        ∧ (∀ r, r ≠ d → (t.core a.core).rdS r = (s.core a.core).rdS r)
        ∧ t.accs = (s.accs.filter fun b => b.id != a.id) ∧ t.opsSent = (s.opsSent.filter fun o => o.id != a.id) ∧ t.mem = s.mem)

/-- R61, R214-R216: VARIABLE_LATENCY_REPLY of VLD and VLDG: the lane of an element without a scale takes its value as its format gives it; with the last
element the active lanes arrive in the register, the others keep what they had, and RSVD is set where an element held a reserved code. -/
def laneReplyResult : Prop :=
  ∀ (s : State) (a : Access) (vd : VReg) (mask : BitVec 64) (f : Fmt) (e : Elem) (rest : List Elem) (x : Xlat), accessFound s a →
    a.abandoned = false → a.op = .vld vd mask f → a.todo = e :: rest → elemTurn s a e x → x.host = false → x.blk = 0 →
    (s.core a.core).streamOf vd = none →
    let r := (s.tablesMet srcCore a).elemReads a x e
    r.loadPoison a x.key e.n = none →
    let raw := r.loadValue a x.key e.n
    let got := a.got ++ [(e.lane, (loadLane f raw e.lane).toNat + if elemReserved f raw e.lane then 2 ^ 32 else 0)]
    ∃ t, exec (.variableLatencyReply a.id) s = .next t ∧ t.mem = s.mem ∧ (t.core a.core).s = (s.core a.core).s
      ∧ (rest ≠ [] → (t.core a.core).v = (s.core a.core).v
          ∧ t.accs = s.accs.map fun b => if b.id == a.id then { a with todo := rest, got := got } else b)
      ∧ (rest = [] → (t.core a.core).v[vd] = mergeLanes mask (s.core a.core).v[vd] (gotLanes got).1
          ∧ (∀ n : VReg, n ≠ vd → (t.core a.core).v[n] = (s.core a.core).v[n])
          ∧ (t.core a.core).sticky = (s.core a.core).sticky ||| (if (gotLanes got).2 then stickyRsvd else 0)
          ∧ t.accs = s.accs.filter fun b => b.id != a.id)

/-- R94: VARIABLE_LATENCY_REPLY of a window read beyond what is cached: each byte is the one that the load finds at its own address, and the read past the
window's size sets WOOB; a word goes to its register extended, 64 lanes of four bytes to theirs. -/
def windowReplyResult : Prop :=
  ∀ (s : State) (a : Access) (e : Elem) (x : Xlat) (key : Nat → Nat), accessFound s a → a.abandoned = false → a.todo = [e] → a.got = [] →
    elemTurn s a e x → x.host = false →
    let r := (s.tablesMet srcCore a).elemReads a x e
    (∀ i, i < e.n → (e.va + i) % 2 ^ 64 < 2 ^ 57 ∧ (∃ y, r.translate (clusterOf a.core) a.slot ((e.va + i) % 2 ^ 64) 1 = .ok y ∧ y.host = false ∧ y.key = key i)
      ∧ ((r.heldByte a (key i)).isSome = true ∨ r.poisoned (key i) 1 = none)) →
    let v := leNat ((List.range e.n).map fun i => (r.heldByte a (key i)).getD (r.memByte (key i)))
    let leaves (t : State) (oob : Bool) : Prop := t.mem = s.mem ∧ (t.accs = s.accs.filter fun b => b.id != a.id)
      ∧ (t.core a.core).sticky = (s.core a.core).sticky ||| (if oob then stickyWoob else 0)
    (∀ d sz sg oob, a.op = .ldw d sz sg oob →
      ∃ t, exec (.variableLatencyReply a.id) s = .next t ∧ leaves t oob ∧ (t.core a.core).v = (s.core a.core).v
        ∧ (t.core a.core).rdS d = (if d = 0 then 0 else loadExtend sz sg v) ∧ ∀ n, n ≠ d → (t.core a.core).rdS n = (s.core a.core).rdS n)
    ∧ (∀ vd oob, a.op = .vldw vd oob → (s.core a.core).streamOf vd = none →
      ∃ t, exec (.variableLatencyReply a.id) s = .next t ∧ leaves t oob ∧ (t.core a.core).s = (s.core a.core).s
        ∧ (t.core a.core).v[vd] = mergeLanes (BitVec.allOnes 64) (s.core a.core).v[vd] (gotLanes [(e.lane, v)]).1
        ∧ ∀ n : VReg, n ≠ vd → (t.core a.core).v[n] = (s.core a.core).v[n])

/-- R225-R228: VARIABLE_LATENCY_REPLY of an operation that its unit has performed: ATOM returns the old word, CASW the old words in consecutive registers,
ENQ the old tail, CHASE the pointer that it has come to. S0 keeps 0. -/
def unitReplyResult : Prop :=
  ∀ (s : State) (a : Access), accessFound s a → a.abandoned = false → a.place = .performed →
    let returns (d : SReg) (l : List Nat) : Prop := ∃ t, exec (.variableLatencyReply a.id) s = .next t
      ∧ (∀ i (h : i < l.length), (t.core a.core).rdS (Fin.ofNat 64 (d.val + i)) = if d.val + i = 0 then 0 else BitVec.ofNat 64 l[i])
      ∧ (∀ n : SReg, n.val < d.val ∨ d.val + l.length ≤ n.val → (t.core a.core).rdS n = (s.core a.core).rdS n)
      ∧ (t.core a.core).v = (s.core a.core).v ∧ (t.core a.core).p = (s.core a.core).p
      ∧ t.mem = s.mem ∧ (t.accs = s.accs.filter fun b => b.id != a.id) ∧ ∀ j, j ≠ a.core → t.core j = s.core j
    (∀ d opk wide b c old, a.op = .atom d opk wide b c → a.got = [(0, old)] → returns d [old])
    ∧ (∀ d expect new old, a.op = .casw d expect new → a.got = (List.range old.length).zip old → d.val + old.length ≤ 64 → returns d old)
    ∧ (∀ d new old, a.op = .enq d new → a.got = [(0, old)] → returns d [old])
    ∧ (∀ d old new key, a.op = .enqLink d old new key → returns d [old.toNat])
    ∧ (∀ d left off, a.op = .chase d left off → returns d [a.addr.toNat])

/-- R225, R226, R228, R265: WQ_ATOMIC_PERFORMED: the word at the address takes the operation's new value, no other byte changes, and the value for the
register is the one the word had; an operation that owes no value (ATOMD, ATOM to S0) is over. CASW writes its words where every one equals what it expects,
and none elsewhere. ENQ writes its pointer into the tail; where there was an element, the link store to its word, which the unit translates, is still to be
made, and where that cannot be made nothing is written.
The model's own choices in it: log entry 34. -/
def unitAtomicResult : Prop :=
  ∀ (s : State) (a : Access) (e : Elem) (x : Xlat), accessFound s a → a.place = .port → a.todo = [e] →
    let u := s.tablesMet srcCore a
    u.reach a true = .ok x → x.host = false → u.inTurn a x.key e = true → u.portTurn (u.corePort a.core) x.key e.n = true →
    (u.readsLine srcUnit (u.corePort a.core) x.key e.n).poisoned x.key e.n = none →
    let done (t : State) (got : List (Nat × Nat)) : Prop := t.cores = s.cores
      ∧ t.accs = if a.owes then s.accs.map fun y => if y.id == a.id then { y with got := got, todo := [], place := .performed } else y
          else s.accs.filter fun y => y.id != a.id
    (∀ d opk wide b c, a.op = .atom d opk wide b c → let old := s.memNat x.key (wideBytes wide)
      ∃ t, exec (.wqAtomicPerformed a.id) s = .next t
        ∧ bytesWritten s t x.key (wideBytes wide) (atomNew opk wide old b.toNat c.toNat) ∧ done t [(0, old)])
    ∧ (∀ d expect new, a.op = .casw d expect new → new.length = expect.length →
      let n := expect.length
      let old := unpackNat 64 n (s.memNat x.key (8 * n))
      ∃ t, exec (.wqAtomicPerformed a.id) s = .next t ∧ done t ((List.range n).zip old)
        ∧ (old = expect.map (·.toNat) → bytesWritten s t x.key (8 * n) (packNat 64 (new.map (·.toNat))))
        ∧ (old ≠ expect.map (·.toNat) → ∀ k, t.memByte k = s.memByte k))
    ∧ (∀ d new, a.op = .enq d new →
      let old := s.memNat x.key 8
      let unit := unitOf (controllerOf x.key)
      let w := (u.readsLine srcUnit (u.corePort a.core) x.key e.n).walkMeets srcUnit unit a.slot old
      (old = 0 → ∃ t, exec (.wqAtomicPerformed a.id) s = .next t ∧ bytesWritten s t x.key 8 new.toNat ∧ t.cores = s.cores
        ∧ t.accs = s.accs.map fun y => if y.id == a.id then { y with got := [(0, 0)], todo := [], place := .performed } else y)
      ∧ (old ≠ 0 → ∀ y, w.unitReach unit a old true = .ok y →
        ∃ t, exec (.wqAtomicPerformed a.id) s = .next t ∧ bytesWritten s t x.key 8 new.toNat ∧ t.cores = s.cores
          ∧ t.accs = s.accs.map fun z => if z.id == a.id then
              { z with op := .enqLink d (BitVec.ofNat 64 old) new y.key, todo := [{ va := old, n := 8, data := new.toNat }], got := [] } else z)
      ∧ (old ≠ 0 → ∀ f, w.unitReach unit a old true = .fault f →
        ∃ t, exec (.wqAtomicPerformed a.id) s = .next t ∧ t.mem = s.mem ∧ t.accs = s.accs.filter fun y => y.id != a.id))

/-- R269: MERGE_ENTRY_CLOSE closes the entry of a line that no access has reached for 256 clocks.
The model's own choices in it: log entry 33. -/
def mergeCloseResult : Prop :=
  ∀ (s : State) (line : Nat), ∃ t, exec (.mergeEntryClose line) s = .next t
    ∧ (∀ m, m ∈ t.merges ↔ m ∈ s.merges ∧ ¬(m.line = line ∧ m.last + 256 ≤ s.clk)) ∧ t.mem = s.mem ∧ t.cores = s.cores

/-- R227, R272: CHASE_HOP_FORWARD and WQ_ATOMIC_PERFORMED: a hop at another controller, or at the same one, reads the next pointer there.
The model's own choices in it: log entries 34, 35. -/
def chaseForwardResult : Prop :=
  ∀ (s : State) (a : Access) (d : SReg) (left : Nat) (off : Int) (e : Elem) (r : List Elem) (x : Xlat),
    accessFound s a → a.op = .chase d left off → a.place ≠ .performed → a.todo = e :: r → s.depsMet a.deps = true →
    s.behindCluster a = false → s.behindStore a e = false →
    let u := s.tablesMet (if a.got.isEmpty then srcCore else srcUnit) a
    u.unitReach a.caches a e.va false = .ok x →
    u.portTurn (u.corePort a.core) x.key 8 = true → (u.readsLine srcUnit (u.corePort a.core) x.key 8).poisoned x.key 8 = none →
    let next := BitVec.ofNat 64 (s.memNat x.key 8)
    let todo := chaseElems next (left - 1) off
    let moves := a.got.head?.any fun p => p.1 != controllerOf x.key
    ∃ t, exec (if moves then .chaseHopForward a.id else .wqAtomicPerformed a.id) s = .next t ∧ t.mem = s.mem ∧ t.cores = s.cores
      ∧ t.accs = s.accs.map fun b => if b.id == a.id then
          { b with op := .chase d (left - 1) off, addr := next, todo := todo, got := [(controllerOf x.key, 0)],
                   place := if todo.isEmpty then .performed else b.place } else b

/-- R275: ACCESS_COUNT_WINDOW: at the end of 2^20 clocks the count tables are cleared and the next window begins. -/
def countWindowResult : Prop :=
  ∀ s : State, (s.window + 1) * 2 ^ 20 ≤ s.clk → ∃ t, exec .accessCountWindow s = .next t ∧ t.counts = [] ∧ t.window = s.window + 1
    ∧ t.mem = s.mem ∧ t.cores = s.cores

/-- R98-R100, R334, R369: PAGE_WALK_COMPLETE brings the leaf of an address in device memory into the cluster's page cache; for host space
a page request goes to the host where something waits for the page, none is pending for it and an entry is free.
The model's own choices in it: log entry 34. -/
def pageWalkResult : Prop :=
  ∀ (s : State) (cl slot va : Nat) (g : Option (Nat × Bool)),
    (∀ l, bit va 56 = false → cl ≠ noCache → (s.walkMeets srcCore cl slot va).walk va 5 (tableKey (s.slot slot).root.toNat 12) = .ok l →
      ∃ t, exec (.pageWalkComplete cl slot va g) s = .next t
        ∧ ({ slot := slot, base := l.base, size := l.size, pte := BitVec.ofNat 64 l.pte } : CachedPage) ∈ (t.cluster cl).pages
        ∧ (∀ c, c ≠ cl → t.cluster c = s.cluster c) ∧ t.mem = s.mem ∧ t.cores = s.cores)
    ∧ (∀ i, let r : PageRequest := { index := 0, pasid := (s.slot slot).pasid.toNat, page := hostPage va }
      bit va 56 = true → s.pageWanted r = true → g = none → (s.ats.any fun a => a.pasid == r.pasid && a.page == r.page) = false →
      (s.requests.any fun q => q.pasid == r.pasid && q.page == r.page) = false → s.freeTag = some i →
      ∃ t, exec (.pageWalkComplete cl slot va g) s = .next t ∧ t.requests = s.requests ++ [{ r with index := i }]
        ∧ t.host = s.host ++ [.pageRequest i r.pasid r.page] ∧ t.mem = s.mem ∧ t.cores = s.cores)

/-- R98-R100, R213, R225-R227, R250-R254, R265, R269, R275: the steps of the memory side complete. -/
def Obligations.MemoryEventResults : Prop :=
  storeEntersResult ∧ storePerformedResult ∧ variableReplyResult ∧ laneReplyResult ∧ windowReplyResult ∧ unitReplyResult ∧ unitAtomicResult
    ∧ mergeCloseResult ∧ chaseForwardResult ∧ countWindowResult ∧ pageWalkResult

/-! ## Remote packets -/

/-- R278, R279: AGG_ELEMENT_ENTRY opens a buffer for a destination that has none, with the element in it. -/
def aggEntryResult : Prop :=
  ∀ (s : State) (a : Access) (opk : Option Opk) (wide : Bool) (b : Word) (chip : BitVec 13),
    accessFound s a → a.op = .agg opk wide b chip → a.place = .queue → s.depsMet a.deps = true →
    (∀ x ∈ s.accs, x.core = a.core → x.id < a.id → x.place = .queue → ∀ o w y, x.op ≠ .agg o w y chip) →
    (∀ y ∈ s.aggBufs, y.dst ≠ chip.toNat) → s.aggBufs.length < 256 →
    let w := aggWords opk wide b a.addr
    let el : AggElem := { id := a.id, task := a.core, word0 := w.1, word1 := w.2, pc := a.pc, clk := s.clk }
    ∃ t, exec (.aggElementEntry a.id) s = .next t ∧ t.mem = s.mem ∧ t.cores = s.cores
      ∧ t.aggBufs = s.aggBufs ++ [{ dst := chip.toNat, gslot := a.slot, elems := [el], openedAt := s.clk, lastAt := s.clk }]
      ∧ t.accs = s.accs.map fun x => if x.id == a.id then { x with place := .sent } else x

/-- R279, R280: AGG_BUFFER_AGE_TIMEOUT: a buffer whose oldest element has waited for 4,096 clocks leaves as one packet with the
destination's next number; so does one with 15 elements, with the end of its clock. -/
def aggAgeResult : Prop :=
  ∀ (s : State) (b : AggBuf), s.aggBufs.find? (fun x => x.dst == b.dst) = some b →
    let pseq := Sparse.get 0 s.aggSeq b.dst
    let left (t : State) : Prop := t.mem = s.mem ∧ t.cores = s.cores ∧ t.accs = s.accs
      ∧ t.aggBufs = (s.aggBufs.filter fun x => x.dst != b.dst) ∧ Sparse.get 0 t.aggSeq b.dst = pseq + 1
      ∧ t.aggSent = s.aggSent ++ [{ dst := b.dst, pseq := pseq, gslot := b.gslot, elems := b.elems, at_ := s.clk }]
      ∧ t.routers = (s.sendPacket (aggHome b.elems) 0 2 b.dst (aggFlits s.deviceId.toNat b.dst pseq.toNat b.gslot b.elems)).routers
    (b.openedAt + 4096 ≤ s.clk → ∃ t, exec (.aggBufferAgeTimeout b.dst) s = .next t ∧ left t)
    ∧ (∀ n, n ≠ 0 → s.aggBufs.filter (fun x => decide (15 ≤ x.elems.length)) = [b] → left (s.elapse n))

/-- R272, R279, R281: AGG_PACKET_APPLY: the next element of the packet in turn, a store, is made at the destination, in the context of its
graph slot.
The model's own choices in it: log entries 34, 39. -/
def aggApplyResult : Prop :=
  ∀ (s : State) (src : Nat) (p : Packet) (x : Xlat),
    let st := s.stream427 true src 0
    let e := p.elem st.elem
    let n := wideBytes (bit e.1 58)
    let va := bits e.1 0 57
    let unit := s.unitFor p.aggSlot va n
    let u := s.walkMeets srcUnit unit p.aggSlot va
    st.held = [] → s.inPkts.find? (fun p => p.pcls == 2 && p.aggSrc == src) = some p → s.arrivalsHeld p.aggSlot = false → p.seq = st.next →
    st.elem + 1 < p.count → bit e.1 59 = false → (s.slot p.aggSlot).valid = true → va % n = 0 →
    u.translateFor unit p.aggSlot va n true = .ok x → x.host = false → u.portTurn fabricPort x.key n = true →
    ∃ t, exec (.aggPacketApply src) s = .next t ∧ bytesWritten s t x.key n e.2 ∧ (t.stream427 true src 0).elem = st.elem + 1
      ∧ (t.stream427 true src 0).next = st.next ∧ t.inPkts = s.inPkts ∧ t.cores = s.cores

/-- R281, R419: AGG_ACK_RECEIVED: an acknowledgement that the packet's destination sends and that names no skipped element ends the packet and its elements.
The model's own choices in it: log entry 39. -/
def aggAckResult : Prop :=
  ∀ (s : State) (p : Packet) (rest : List Packet) (a : AggSent), s.inPkts = p :: rest → p.pcls = 3 → p.src = a.dst →
    s.aggSent.find? (fun x => x.dst == a.dst && x.pseq == p.seq) = some a → (∀ i, i < a.elems.length → bit (p.word 0) i = false) →
    ∃ t, exec (.aggAckReceived a.dst) s = .next t ∧ t.aggSent = s.aggSent.erase a ∧ t.inPkts = rest
      ∧ t.accs = (s.accs.filter fun x => !(a.elems.any fun e => e.id == x.id)) ∧ t.cores = s.cores ∧ t.mem = s.mem

/-- R229, R273, R274, R427: OPERATION_PACKET_RECEIVED: a load of a task's stream, behind no packet of it that was lost, reads the word in the
context of its graph slot, whatever numbers of the task went to other devices; the reply leaves and is kept, the stream goes on from its number, and no
memory changes.
The model's own choices in it: log entries 34, 38. -/
def opPacketResult : Prop :=
  ∀ (s : State) (src task : Nat) (p : Packet) (x : Xlat),
    let st := s.stream427 false src task
    let n := wideBytes (bit (p.word 0) 1)
    let va := bits (p.word 1) 0 57
    let unit := s.unitFor p.gslot va n
    let u := s.walkMeets srcUnit unit p.gslot va
    st.held = [] → s.inPkts.find? (fun p => p.pcls == 0 && p.srcDev == src && p.task == task) = some p → s.arrivalsHeld p.gslot = false →
    bit (p.word 0) 6 = false → (∀ y ∈ st.lost, seqBefore y p.seq = false) → p.seq ∉ st.missing → seqBefore p.seq st.next = false →
    bit (p.word 0) 0 = false → (s.slot p.gslot).valid = true → va % n = 0 →
    u.translateFor unit p.gslot va n false = .ok x → x.host = false → u.portTurn fabricPort x.key n = true →
    (u.readsLine srcFabric fabricPort x.key n).poisoned x.key n = none →
    ∃ t, exec (.operationPacketReceived src task) s = .next t ∧ t.mem = s.mem ∧ t.cores = s.cores ∧ t.inPkts = s.inPkts.erase p
      ∧ (t.stream427 false src task).next = p.seq + 1
      ∧ ({ ctl := controllerOf x.key, dev := src, task := task, seq := p.seq, status := 0,
           value := BitVec.ofNat 64 (s.memNat x.key n) } : CachedReply) ∈ t.replies
      ∧ t.routers = (s.sendReply p 0 false (s.memNat x.key n)).routers

/-- R430, R431: OP_PACKET_RESEND_TIMEOUT: after 65,536 clocks without a reply the packet is sent again with RETX 1, three times at most;
then the operation ends, and its register reports an unknown outcome. -/
def opResendResult : Prop :=
  ∀ (s : State) (a : Access) (o : OpSent) (d : SReg) (opk : Option Opk) (wide : Bool) (b : Word) (chip : BitVec 13) (seq : BitVec 16),
    accessFound s a → s.opsSent.find? (fun y => y.id == a.id) = some o → a.op = .remote d opk wide b chip seq → o.at_ + 65536 ≤ s.clk →
    (o.resends < 3 →
      ∃ t, exec (.opPacketResendTimeout a.id) s = .next t ∧ t.accs = s.accs ∧ t.mem = s.mem ∧ t.cores = s.cores
        ∧ t.opsSent = (s.opsSent.map fun y => if y.id == a.id then { y with at_ := s.clk, resends := y.resends + 1 } else y)
        ∧ t.routers = (s.sendPacket (clusterOf a.core) 0 0 chip.toNat
            [opPacket s.deviceId.toNat a.core a.slot true opk wide b chip.toNat seq a.addr]).routers)
    ∧ (3 ≤ o.resends → a.abandoned = false →
      ∃ t, exec (.opPacketResendTimeout a.id) s = .next t ∧ t.accs = (s.accs.filter fun y => y.id != a.id) ∧ t.mem = s.mem
        ∧ (t.core a.core).s = (s.core a.core).s
        ∧ ∃ r, (t.core a.core).regFaults = (s.core a.core).regFaults ++ [(.s d.val, r)] ∧ r.trap.cause = 0x41 ∧ r.trap.sub = 2)

/-- R430: AGG_PACKET_RESEND_TIMEOUT: after 65,536 clocks without an acknowledgement the packet is sent again with its number, three times
at most. -/
def aggResendResult : Prop :=
  ∀ (s : State) (a : AggSent), s.aggSent.find? (fun y => y.dst == a.dst && decide (y.at_ + 65536 ≤ s.clk)) = some a → a.resends < 3 →
    ∃ t, exec (.aggPacketResendTimeout a.dst) s = .next t ∧ t.accs = s.accs ∧ t.mem = s.mem ∧ t.cores = s.cores
      ∧ t.aggSent = (s.aggSent.map fun y => if y == a then { y with at_ := s.clk, resends := y.resends + 1 } else y)
      ∧ t.routers = (s.sendPacket (aggHome a.elems) 0 2 a.dst (aggFlits s.deviceId.toNat a.dst a.pseq.toNat a.gslot a.elems)).routers

/-- R427: MISSING_SEQ_HOLD_TIMEOUT: after 2^18 clocks the numbers that the held packets of a stream wait for are marked as missing: a stream of aggregation
packets goes on at the held packet next in order, one of operation packets waits for them no longer.
The model's own choices in it: log entry 38. -/
def holdEndsResult : Prop :=
  ∀ (s : State) (src task : Nat),
    (∀ n : BitVec 16, let st := s.stream427 true src task
      nearest st.next st.held = some n → n ≠ st.next → st.heldAt + 2 ^ 18 ≤ s.clk →
      ∃ t, exec (.missingSeqHoldTimeout true src task) s = .next t ∧ (t.stream427 true src task).next = n
        ∧ (t.stream427 true src task).held = st.held
        ∧ (∀ i, i < (n - st.next).toNat → st.next + BitVec.ofNat 16 i ∈ (t.stream427 true src task).missing)
        ∧ t.mem = s.mem ∧ t.cores = s.cores)
    ∧ (let st := s.stream427 false src task
      st.awaited ≠ [] → st.heldAt + 2 ^ 18 ≤ s.clk →
      ∃ t, exec (.missingSeqHoldTimeout false src task) s = .next t ∧ (t.stream427 false src task).held = st.held
        ∧ (t.stream427 false src task).next = st.next
        ∧ (∀ y ∈ st.lost, y ∉ (t.stream427 false src task).lost ↔ ∃ p ∈ st.held, seqBefore y p.seq = true)
        ∧ (∀ y ∈ st.awaited, y ∈ (t.stream427 false src task).missing) ∧ t.mem = s.mem ∧ t.cores = s.cores)

/-- R229, R272-R274, R278-R281, R419, R427, R430, R431: the steps of remote packets complete. -/
def Obligations.RemoteEventResults : Prop :=
  aggEntryResult ∧ aggAgeResult ∧ aggApplyResult ∧ aggAckResult ∧ opPacketResult ∧ opResendResult ∧ aggResendResult ∧ holdEndsResult

/-! ## Nodes, graphs and migrations -/

/-- R46, R48, R163, R337: NODE_END, once every task is over and every access and engine command has completed: the node is gone, its slot
has the end status, its links are no longer aligned, and slots that wait gain priority with every 64th node of others. No register and no memory changes.
The model's own choices in it: log entries 17, 92 (the links' alignment ends with the node). -/
def nodeEndResult : Prop :=
  ∀ (s : State) (n : Node), s.node = some n → n.stopping = false → s.tasksOver = true → s.accessesLeft = false → s.commandsOver = true →
    ∃ t, exec .nodeEnd s = .next t ∧ t.node = none ∧ (t.slot n.slot).status = some (n.status.getD 0)
      ∧ (∀ m, m ≠ n.slot → t.slot m = (let g := s.slot m
          if g.st = .ready ∨ g.st = .saved then
            { g with waited := g.waited + 1, prio := if (g.waited + 1) % 64 = 0 then min 7 (g.prio + 1) else g.prio } else g))
      ∧ (∀ l ∈ t.links, l.aligned = none) ∧ t.cores = s.cores ∧ t.mem = s.mem ∧ t.accs = s.accs

/-- R276: MIGREQ asks for the move of a range of the context that MIGCTX names: refused unless the entry allows it and the destination
exists; the state of a move under way is not touched.
The model's own choices in it: log entry 19. -/
def migreqResult : Prop :=
  ∀ (s : State) (v : Word), s.migration = none →
    let ix := bits v.toNat 0 10
    let r := s.rangeEntry s.regs.migctx ix
    let off := bits v.toNat 12 40 * 4096
    (bit r.word3 13 = true → bit r.word3 8 = false → r.valid = true → r.malformed = false →
      paOk (v.getLsbD 11) (off + r.limit - r.base) = true →
      ∃ t, exec (.migreq v) s = .next t ∧ t.regs = { s.regs with migreq := v, migstat := 1 } ∧ t.mem = s.mem ∧ t.cores = s.cores
        ∧ ∃ m, t.migration = some m ∧ m.slot = s.regs.migctx ∧ m.index = ix ∧ m.off = off ∧ m.tier = v.getLsbD 11 ∧ m.copied = false)
    ∧ (bit r.word3 13 = false ∨ bit r.word3 8 = true →
      exec (.migreq v) s = .next { s with regs := { s.regs with migreq := v, migstat := 3 } })

/-- R277, R404: MIGRATION_HOLD while no node runs: the bytes of the range are those of its old place, and no other byte changes.
The model's own choices in it: log entry 20. -/
def migrationHoldResult : Prop :=
  ∀ (s : State) (m : Migration), s.migration = some m → m.copied = false → s.node = none → Memory.wf s.mem = true →
    let r := s.rangeEntry m.slot m.index
    let src := memKey r.tier r.offset
    let dst := memKey m.tier m.off
    let n := r.limit + 1 - r.base
    ∃ t, exec .migrationHold s = .next t ∧ (∃ x, t.migration = some x ∧ x.copied = true ∧ x.slot = m.slot ∧ x.index = m.index)
      ∧ (∀ i, i < n → t.memByte (dst + i) = s.memByte (src + i)) ∧ (∀ k, k < dst ∨ dst + n ≤ k → t.memByte k = s.memByte k)
      ∧ t.cores = s.cores

/-- R277: MIGRATION_COMPLETE: the entry names the new place (the page tables, where no page names the range, stay), every cache is
invalid; packets that were held for the context are performed at the new place first, and only when they have been MIGSTAT reads complete and the move is
over. No register changes.
The model's own choices in it: log entry 20. -/
def migrationCompleteResult : Prop :=
  ∀ (s : State) (m : Migration), s.migration = some m → m.copied = true →
    let r := s.rangeEntry m.slot m.index
    let key := s.rangeKey m.slot m.index
    let keeps (t : State) : Prop := ∀ k, (t.core k).s = (s.core k).s ∧ (t.core k).pc = (s.core k).pc ∧ (t.core k).lc = (s.core k).lc
    let ends (t : State) : Prop := t.migration = none ∧ t.regs = { s.regs with migstat := 2 }
    (m.moved = false →
      ∃ t, exec .migrationComplete s = .next t ∧ t.clusters = [] ∧ keeps t
        ∧ (s.packetsFor m.slot = [] → ends t)
        ∧ (s.packetsFor m.slot ≠ [] → t.regs = s.regs ∧ t.migration = some { m with moved := true, freed := s.packetsFor m.slot })
        ∧ ((∀ i, s.movedLeaf m r (r.base + 4096 * i) = none) →
            t.memNat (key + 16) 8 = m.off % 2 ^ 64
            ∧ t.memNat (key + 24) 8 = (r.word3 - r.tier.toNat * 2 ^ 11 + m.tier.toNat * 2 ^ 11) % 2 ^ 64
            ∧ ∀ k, k < key + 16 ∨ key + 32 ≤ k → t.memByte k = s.memByte k))
    ∧ (m.moved = true → (∃ p ∈ m.freed, p ∈ s.packetsFor m.slot) → exec .migrationComplete s = .next s)
    ∧ (m.moved = true → (∀ p ∈ m.freed, p ∉ s.packetsFor m.slot) →
      ∃ t, exec .migrationComplete s = .next t ∧ ends t ∧ keeps t ∧ t.mem = s.mem)

/-- R458: GRAPH_START: the chosen slot's graph program begins at its entry with S1 the submission and the other registers 0.
The model's own choices in it: log entries 46, 48. -/
def graphStartResult : Prop :=
  ∀ (s : State) (n : Nat) (img : List Byte) (ld : Loaded) (w : List (Option BoundWindow)),
    let g := s.slot n
    s.graph = none → s.cmdBusy = .free → s.choose = some n → g.st = .ready → s.readImage n g.prog.toNat = .ok img →
    loadItems img g.prog.toNat = .ok ld → s.bindWindows n g.args.toNat ld 0 ld.wins = .ok w →
    ∃ t, exec .graphStart s = .next t ∧ t.graph = some n ∧ (t.slot n).st = .running ∧ (t.slot n).launched = 0
      ∧ (t.core 384).phase = .running
      ∧ (t.core 384).pc = BitVec.ofNat 64 (g.prog.toNat + (ld.image.entries.getD 0 none).getD 0)
      ∧ (t.core 384).s[1] = g.submitted ∧ (∀ i : SReg, i ≠ 1 → (t.core 384).s[i] = 0) ∧ t.mem = s.mem

/-- R328: SAVE_COMPLETE: the save ends; with a saved slot chosen its restore begins, once no node runs.
The model's own choices in it: log entry 48. -/
def saveCompleteResult : Prop :=
  ∀ s : State, s.cmdBusy = .saving → s.graph = none →
    (s.choose = none → exec .saveComplete s = .next { s with cmdBusy := .free })
    ∧ (∀ n, s.choose = some n → (s.slot n).st = .saved → s.node.isSome = true → exec .saveComplete s = .next { s with cmdBusy := .free })
    ∧ (∀ n, s.choose = some n → (s.slot n).st = .saved → s.node = none →
      ∃ t, exec .saveComplete s = .next t ∧ t.cmdBusy = .restoring n ∧ t.mem = s.mem ∧ t.cores = s.cores ∧ t.graph = none)

/-- R165, R327, R328: RESTORE_COMPLETE: the graph program goes on at its saved PC with S1 to S8 as saved.
The model's own choices in it: log entry 48. -/
def restoreCompleteResult : Prop :=
  ∀ (s : State) (n : Nat), s.cmdBusy = .restoring n →
    let g := s.slot n
    ∃ t, exec .restoreComplete s = .next t ∧ t.graph = some n ∧ t.cmdBusy = .free ∧ (t.slot n).st = .running
      ∧ (t.core 384).phase = .running ∧ (t.core 384).pc = g.savedPc
      ∧ (∀ i : SReg, (t.core 384).s[i] = if 1 ≤ i.val ∧ i.val ≤ 8 then g.savedS.getD (i.val - 1) 0 else 0) ∧ t.mem = s.mem

/-- R324, R325: GRAPH_START_STORE makes an idle, valid slot ready with the submission at L1 or L2; any other submission is dropped and
counted. -/
def graphStoreResult : Prop :=
  ∀ (s : State) (n : Fin 64) (v : Word),
    let g := s.slot n.val
    (g.st = .idle → g.valid = true → s.level = 1 ∨ s.level = 2 → bits v.toNat 35 29 = 0 →
      ∃ t, exec (.graphStartStore n v) s = .next t ∧ (t.slot n.val).st = .ready ∧ (t.slot n.val).submitted = v
        ∧ (t.slot n.val).prio = bits v.toNat 0 3 ∧ (t.slot n.val).discarded = g.discarded
        ∧ (∀ m, m ≠ n.val → t.slot m = s.slot m) ∧ t.mem = s.mem ∧ t.cores = s.cores)
    ∧ (g.st ≠ .idle ∨ g.valid = false ∨ bits v.toNat 35 29 ≠ 0 →
      ∃ t, exec (.graphStartStore n v) s = .next t
        ∧ t.slot n.val = { g with discarded := if g.discarded = BitVec.allOnes 32 then g.discarded else g.discarded + 1 }
        ∧ (∀ m, m ≠ n.val → t.slot m = s.slot m) ∧ t.mem = s.mem ∧ t.cores = s.cores)

/-- R324, R331: GCTL sets a slot that is idle or faulted: its context, VALID and vector, its count of dropped submissions to 0, its state
to idle; otherwise it is ignored. -/
def gctlResult : Prop :=
  ∀ (s : State) (n : Fin 64) (v : Word),
    let g := s.slot n.val
    (g.st = .idle ∨ g.st = .faulted →
      ∃ t, exec (.gctl n v) s = .next t
        ∧ t.slot n.val = { g with
            pasid := BitVec.ofNat 20 (bits v.toNat 20 20), valid := v.getLsbD 16, vec := BitVec.ofNat 8 v.toNat, discarded := 0, st := .idle }
        ∧ (∀ m, m ≠ n.val → t.slot m = s.slot m) ∧ t.mem = s.mem ∧ t.cores = s.cores)
    ∧ (g.st ≠ .idle → g.st ≠ .faulted → exec (.gctl n v) s = .next s)

/-- R46, R48, R163, R165, R276, R277, R324, R325, R327, R328, R404, R458: nodes end, graphs start, are saved and restored, and ranges
move. -/
def Obligations.NodeAndGraphEventResults : Prop :=
  nodeEndResult ∧ migreqResult ∧ migrationHoldResult ∧ migrationCompleteResult ∧ graphStartResult ∧ saveCompleteResult
    ∧ restoreCompleteResult ∧ graphStoreResult ∧ gctlResult

/-! ## The ends of the links -/

/-- The first control flit of a type that has arrived on a link. -/
def controlFlit (s : State) (j ty : Nat) (w : BitVec 576) : Prop := (s.link j).ctlIn.find? (fun x => wireType x == ty) = some w

/-- What the steps of a link leave alone. -/
def linkStepKeeps (s t : State) : Prop := t.mem = s.mem ∧ t.cores = s.cores ∧ t.accs = s.accs ∧ t.node = s.node

/-- R307, R308, R422: WIRE_FLIT_RECEIVED: a flit of a message or packet that is sound and in sequence is taken into the hub's queue; the 32nd that is not
acknowledged is acknowledged at once. A packet's flit that a dead sibling's peer sends over this link goes to the dead link's queue (R435). One that is damaged or out of sequence goes nowhere, and its credit is returned (R424); the first such calls for a NAK.
The model's own choices in it: log entry 42. -/
def wireFlitResult : Prop :=
  ∀ (s : State) (j : Nat) (w : BitVec 576) (o : OffWire), s.links.length = 12 → j < 12 →
    let l := s.link j
    let c := s.streamLink j w
    l.state = .up → 1 ≤ wireType w → wireType w ≤ 4 →
    (l.nakAt = none → l.consecSent < 15 → wireOk w = false ∨ wireSeq w ≠ l.rxSeq.toNat →
      ∃ t, exec (.wireFlitReceived j w o) s = .next t ∧ linkStepKeeps s t ∧ t.routers = s.routers
        ∧ (t.link j).rxSeq = l.rxSeq ∧ (t.link j).used = l.used ∧ (t.link j).freed = l.freed + 1
        ∧ (t.link j).sent.length = l.sent.length + 1 ∧ (t.link j).nakAt = some s.clk ∧ ∀ i, i ≠ j → t.link i = s.link i)
    ∧ (wireOk w = true → wireSeq w = l.rxSeq.toNat → l.used < 1024 →
    ∃ t, exec (.wireFlitReceived j w o) s = .next t ∧ linkStepKeeps s t
      ∧ (t.link j).rxSeq = l.rxSeq + 1 ∧ (t.link j).used = l.used + 1
      ∧ (l.unacked < 31 → (t.link j).unacked = l.unacked + 1 ∧ (t.link j).sent = l.sent)
      ∧ (31 ≤ l.unacked → (t.link j).unacked = 0 ∧ (t.link j).sent.length = l.sent.length + 1)
      ∧ t.routers = (s.enqueue hub (12 + c) [hubFlit (s.link c) j w s.clk o]).routers ∧ (s.siblingDead j = false → c = j)
      ∧ ∀ i, i ≠ j → i ≠ c → t.link i = s.link i)

/-- R424, R425: NAK_RECEIVED: a NAK of the oldest flit that is not acknowledged starts its replay; nothing leaves the retry buffer.
The model's own choices in it: log entry 41. -/
def nakResult : Prop :=
  ∀ (s : State) (j : Nat) (w : BitVec 576) (x : BitVec 12 × Flit) (r : List (BitVec 12 × Flit)), s.links.length = 12 → j < 12 →
    let l := s.link j
    let p := wirePayload w
    let good := BitVec.ofNat 12 (word512 p 0).toNat
    controlFlit s j 6 w → l.state = .up → bits (word512 p 1).toNat 0 4 ≠ 4 → bit (word512 p 1).toNat 16 = false → l.retry = x :: r →
    x.1 = good + 1 → (∀ y ∈ l.retry, y.1 ≠ good) → l.replayFrom = none → l.backlog = [] → l.consecSeen < 15 →
    (∀ y ∈ l.retry, y.2.err = none) →
    ∃ t, exec (.nakReceived j) s = .next t ∧ linkStepKeeps s t ∧ (t.link j).retry = l.retry
      ∧ (t.link j).replays = min (l.replays + 1) (2 ^ 32 - 1) ∧ (t.link j).consecSeen = l.consecSeen + 1
      ∧ (t.link j).ctlIn = l.ctlIn.erase w

/-- R308, R309, R423: ACK_RECEIVED: the flits up to GOOD leave the retry buffer and the credits returned are regained. -/
def ackResult : Prop :=
  ∀ (s : State) (j : Nat) (w : BitVec 576) (x : BitVec 12 × Flit) (r : List (BitVec 12 × Flit)), s.links.length = 12 → j < 12 →
    let l := s.link j
    let p := wirePayload w
    controlFlit s j 5 w → l.state = .up → bit (word512 p 1).toNat 16 = false → l.retry = x :: r →
    x.1 = BitVec.ofNat 12 (word512 p 0).toNat → l.replayFrom = none → l.backlog = [] →
    ∃ t, exec (.ackReceived j) s = .next t ∧ linkStepKeeps s t ∧ (t.link j).retry = r ∧ (t.link j).consecSeen = 0
      ∧ (t.link j).credits = l.credits + (BitVec.ofNat 11 ((word512 p 0).toNat / 2 ^ 16) - l.lastCred).toNat
      ∧ (t.link j).ctlIn = l.ctlIn.erase w ∧ ∀ i, i ≠ j → t.link i = s.link i

/-- R308, R424, R425, R432, R435: the timers of a link: what has been taken is acknowledged; the oldest flit that has waited 256 clocks is sent
again, and a flit that the retry buffer cannot read declares the link dead (R432); the notice of a dead sibling is repeated.
The model's own choices in it: log entry 41. -/
def linkTimerResults : Prop :=
  ∀ (s : State) (j : Nat), s.links.length = 12 → j < 12 →
    let l := s.link j
    (l.state = .up → 0 < l.unacked →
      ∃ t, exec (.ackTimer j) s = .next t ∧ linkStepKeeps s t ∧ (t.link j).unacked = 0
        ∧ (t.link j).sent = l.sent ++ [wireFlit 5 0 0 0 (s.ackWords j 0 0)] ∧ ∀ i, i ≠ j → t.link i = s.link i)
    ∧ (l.state = .up → l.retry ≠ [] → l.oldest + 256 ≤ s.clk → l.consecSeen < 15 → l.backlog = [] →
      ((∀ y ∈ l.retry, y.2.err = none) →
        ∃ t, exec (.replayTimer j) s = .next t ∧ linkStepKeeps s t ∧ (t.link j).retry = l.retry ∧ (t.link j).oldest = s.clk
          ∧ (t.link j).replays = min (l.replays + 1) (2 ^ 32 - 1) ∧ (t.link j).consecSeen = l.consecSeen + 1)
      ∧ (∀ y q, l.retry = y :: q → y.2.err = some true → 0 < l.credits →
        ∃ t, exec (.replayTimer j) s = .next t ∧ linkStepKeeps s t ∧ (t.link j).state = .dead ∧ (t.link j).retry = l.retry))
    ∧ (s.siblingDead j = true → l.state = .up → l.deadAcked = false → l.deadSentAt + 64 ≤ s.clk →
      ∃ t, exec (.deadNotifyTimer j) s = .next t ∧ linkStepKeeps s t ∧ (t.link j).deadSentAt = s.clk
        ∧ (t.link j).sent = l.sent ++ [wireFlit 5 0 0 0 (s.ackWords j 0 0)])

/-- What the death of a link does to its sibling. -/
def siblingAfterDeath (s t : State) (j : Nat) : Prop :=
  let k := sibling j
  ((s.link k).state = .up → (t.link k).failover = true ∧ (t.link k).awaitsGood = true ∧ (t.link k).retry = (s.link k).retry
      ∧ (t.link k).sent.length = (s.link k).sent.length + 1)
    ∧ ((s.link k).state ≠ .up → t.link k = s.link k)

/-- R426, R434, R435, R439, R446: training and death of a link: a training that completes brings it up, after a retrain with a NAK of reason 4;
a retrain that takes 4 ms, or DOWN, makes it dead, and its sibling, where that is up, takes its traffic over, nothing new leaving before the peer has said
which flits it took; a sibling that is training takes over once it has trained (R446); RETRAIN retrains a link that is up and trains a dead one again while no
node runs, which then waits for the next LAUNCH.
The model's own choices in it: log entry 41. -/
def linkStateResults : Prop :=
  ∀ (s : State) (j : Fin 12), s.links.length = 12 →
    let l := s.link j.val
    (l.state = .untrained → (s.siblingDead j.val = true → l.failover = true) →
      ∃ t, exec (.linkTrainingComplete j.val) s = .next t ∧ linkStepKeeps s t ∧ t.link j.val = { l with state := .up }
        ∧ ∀ i, i ≠ j.val → t.link i = s.link i)
    ∧ (l.state = .retraining →
      ∃ t, exec (.linkTrainingComplete j.val) s = .next t ∧ linkStepKeeps s t ∧ (t.link j.val).state = .up ∧ (t.link j.val).credits = 0
        ∧ (t.link j.val).retry = l.retry
        ∧ ((s.siblingDead j.val = true → l.failover = true) → (t.link j.val).sent.length = l.sent.length + 1 ∧ (t.link j.val).failover = l.failover)
        ∧ (s.siblingDead j.val = true → l.failover = false → (t.link j.val).failover = true ∧ (t.link j.val).awaitsGood = true))
    ∧ (l.state = .dead → l.reviving = true →
      ∃ t, exec (.linkTrainingComplete j.val) s = .next t ∧ linkStepKeeps s t ∧ (t.link j.val).state = .up ∧ (t.link j.val).parked = true
        ∧ (t.link j.val).retry = [] ∧ (t.link j.val).txSeq = 0 ∧ (t.link j.val).rxSeq = 0 ∧ ∀ i, i ≠ j.val → t.link i = s.link i)
    ∧ (l.state = .retraining → l.retrainAt.headD 0 + 4000 * s.mhz ≤ s.clk →
      ∃ t, exec (.retrainTimeout j.val) s = .next t ∧ linkStepKeeps s t ∧ (t.link j.val).state = .dead ∧ (t.link j.val).retry = l.retry
        ∧ siblingAfterDeath s t j.val)
    ∧ (l.state ≠ .dead →
      ∃ t, exec (.lnkctlDown j) s = .next t ∧ linkStepKeeps s t ∧ (t.link j.val).state = .dead ∧ (t.link j.val).retry = l.retry
        ∧ siblingAfterDeath s t j.val)
    ∧ (l.state = .up → l.retrainAt.length < 2 →
      ∃ t, exec (.lnkctlRetrain j) s = .next t ∧ linkStepKeeps s t ∧ (t.link j.val).state = .retraining ∧ (t.link j.val).retry = l.retry
        ∧ (t.link j.val).retrainAt = s.clk :: l.retrainAt ∧ ∀ i, i ≠ j.val → t.link i = s.link i)
    ∧ (l.state = .dead → s.node = none →
      ∃ t, exec (.lnkctlRetrain j) s = .next t ∧ linkStepKeeps s t ∧ t.link j.val = { l with reviving := true }
        ∧ ∀ i, i ≠ j.val → t.link i = s.link i)

/-- R310: ALIGN_FLIT_RECEIVED keeps the two words of the align flit for the node's alignment. -/
def alignFlitResult : Prop :=
  ∀ (s : State) (j : Nat) (w : BitVec 576), s.links.length = 12 → j < 12 → controlFlit s j 7 w →
    ∃ t, exec (.alignFlitReceived j) s = .next t ∧ linkStepKeeps s t
      ∧ (t.link j).aligned = some (word512 (wirePayload w) 0, word512 (wirePayload w) 1) ∧ (t.link j).ctlIn = (s.link j).ctlIn.erase w
      ∧ ∀ i, i ≠ j → t.link i = s.link i

/-- R307-R310, R422-R426, R432, R434, R435, R439: the steps of the links complete. -/
def Obligations.LinkEventResults : Prop :=
  wireFlitResult ∧ nakResult ∧ ackResult ∧ linkTimerResults ∧ linkStateResults ∧ alignFlitResult

/-! ## Routers and messages -/

/-- R28, R301-R303, R305, R432, R433: ROUTER_SLOT: a slot whose entry names nothing only passes; one that takes a circuit's flit to the receiver in the
cluster hands it over as its buffer reads it, where the receiver has a place for it, and waits where it has none; while the flit is absent and may still come
the router waits. Otherwise the router's logical cycle advances by
1. A circuit flit that a link presents where the hub's entry expects another circuit stops the node, and the hub does not advance.
The model's own choices in it: log entries 43, 44. -/
def routerSlotResult : Prop :=
  ∀ (s : State) (r : Nat) (expect : List (Nat × Nat)), s.routers.length = 13 →
    (r ≤ 12 → s.mismatch r expect = none → s.slotMoves r = [] →
      ∃ t, exec (.routerSlot r expect) s = .next t ∧ (t.routerAt r).lc = (s.routerAt r).lc + 1
        ∧ (∀ i, i ≠ r → t.routerAt i = s.routerAt i) ∧ t.circuits = s.circuits ∧ t.cores = s.cores ∧ t.mem = s.mem)
    ∧ (∀ inp c, r < 12 → s.slotMoves r = [.circuit 0 inp] → expectedAt expect inp = some c →
      (∀ f ci, ((s.routerAt r).waiting inp).find? (fun f => !f.pkt && f.circ == c && decide (f.arrive ≤ (s.routerAt r).lc)) = some f →
        s.endsAt c r 0 = true → s.circuitOf c = some ci →
        (s.endRoom c = true → ∃ t, exec (.routerSlot r expect) s = .next t ∧ (t.routerAt r).lc = (s.routerAt r).lc + 1
          ∧ (t.routerAt r).waiting inp = ((s.routerAt r).waiting inp).erase f
          ∧ t.circuitOf c = some { ci with asm := ci.asm ++ [(s.readFlit { f with via := none }).2] } ∧ t.cores = s.cores ∧ t.mem = s.mem)
        ∧ (s.endRoom c = false → exec (.routerSlot r expect) s = .next s))
      ∧ (s.circuitFlit r inp c = none → s.inputPast r inp (some c) = false → exec (.routerSlot r expect) s = .next s))
    ∧ (∀ port want got n, r = 12 → s.mismatch r expect = some (port, want, got) → s.node = some n →
      ∃ t m, exec (.routerSlot r expect) s = .next t ∧ t.node = some m ∧ m.stopping = true ∧ (t.routerAt r).lc = (s.routerAt r).lc
        ∧ t.mem = s.mem)

/-- R312, R428, R429: MESSAGE_TAG_CHECK: a message whose tag checks takes the next place in its circuit's order and is confirmed; one whose
tag does not check keeps its place and is asked for again.
The model's own choices in it: log entry 42. -/
def tagCheckResult : Prop :=
  ∀ (s : State) (circ : Nat) (c : Circuit) (l rest : List Flit), s.circuitOf circ = some c → frontAsm c.asm = some (l, rest) →
    let sdev := s.senderOf c l
    (∀ m, checkedMessage l = some m →
      ∃ t, exec (.messageTagCheck circ) s = .next t
        ∧ t.circuitOf circ = some { c with asm := rest, rx := c.rx ++ [.ready m], rxOrd := c.rxOrd + 1 }
        ∧ t.routers = (s.aboutMessage 5 c c.rxOrd sdev).routers ∧ t.cores = s.cores ∧ t.mem = s.mem)
    ∧ (checkedMessage l = none →
      ∃ t, exec (.messageTagCheck circ) s = .next t
        ∧ t.circuitOf circ = some { c with asm := rest, rx := c.rx ++ [.failed c.rxOrd s.clk sdev], rxOrd := c.rxOrd + 1 }
        ∧ t.routers = (s.aboutMessage 4 c c.rxOrd sdev).routers ∧ t.cores = s.cores ∧ t.mem = s.mem)

/-- R428, R429: RE_REQUEST_TIMER asks again for every message that was asked for 65,536 clocks ago; RE_REQUEST_RECEIVED answers from the message store, which
keeps the message; REPAIR_COPY_RECEIVED puts a whole copy that checks into the place kept for its own message; DELIVERY_CONFIRMATION_RECEIVED frees the message's
places.
The model's own choices in it: log entries 42, 43, 44. -/
def repairResults : Prop :=
  ∀ (s : State) (circ : Nat) (c : Circuit), s.circuitOf circ = some c →
    (∃ t ci, exec (.reRequestTimer circ) s = .next t ∧ t.circuitOf circ = some ci ∧ ci.rx.length = c.rx.length
        ∧ (∀ (i : Nat) (o : BitVec 16) (t0 d : Nat), (c.rx[i]? : Option RxPlace) = some (RxPlace.failed o t0 d) →
            ci.rx[i]? = some (RxPlace.failed o (if t0 + 65536 ≤ s.clk then s.clk else t0) d))
        ∧ (∀ (i : Nat) (m : Message), c.rx[i]? = some (RxPlace.ready m) → ci.rx[i]? = some (RxPlace.ready m))
        ∧ t.routers = ((c.rx.filterMap (·.due s.clk)).foldl (fun s x => s.aboutMessage 4 c x.1 x.2) s).routers ∧ t.cores = s.cores ∧ t.mem = s.mem)
    ∧ (∀ dst p x, s.circuitPacket 4 circ = some p → s.store.find? (fun x => x.circ == circ && x.ordinal == p.seq) = some x →
      (∀ f ∈ x.flits, f.err = none) →
      let l := repairPackets x.flits.length x.flits
      ∃ t, exec (.reRequestReceived circ dst) s = .next t ∧ t.store = s.store ∧ t.inPkts = s.inPkts.erase p
        ∧ t.routers = (((List.range l.length).zip l).foldl
            (fun s m => s.enqueue (endPort c.stask).1 (endPort c.stask).2 (copyFlits s.clk s.deviceId.toNat dst circ x.ordinal m.1 m.2)) s).routers
        ∧ t.cores = s.cores ∧ t.mem = s.mem)
    ∧ (∀ l m o d, s.wholeCopy circ = some (l, o) →
      checkedMessage ((l.flatMap (·.flits)).map fun d => { type := 2, circ := circ, data := d }) = some m → failedPlace o c.rx = some d →
      ∃ t, exec (.repairCopyReceived circ) s = .next t ∧ t.circuitOf circ = some { c with rx := fillFailed o m c.rx }
        ∧ t.routers = (s.aboutMessage 5 c o d).routers ∧ t.cores = s.cores ∧ t.mem = s.mem)
    ∧ (∀ p, s.circuitPacket 5 circ = some p → s.coll.run = none → s.coll.queue = [] →
      exec (.deliveryConfirmationReceived circ) s
        = .next { s with inPkts := s.inPkts.erase p, store := s.store.filter fun x => !(x.circ == circ && x.ordinal == p.seq) })

/-- R28, R301-R303, R305, R312, R428, R429, R432, R433: the slots of the routers and the steps of messages at their receivers complete. -/
def Obligations.RouterAndMessageEventResults : Prop := routerSlotResult ∧ tagCheckResult ∧ repairResults

/-! ## The collective engine -/

/-- R320, R444: COLL_ACCEPT: a collective whose members, table and handles are good joins the engine's queue, with the next ordinal, while
another waits for its predecessor.
The model's own choices in it: log entry 66. -/
def collAcceptResult : Prop :=
  ∀ (s v : State) (k n : Nat) (param : Int) (c : Cmd) (l : List Nat) (r0 : CollRun),
    s.nextCmd k (fun c => c.kind.engine == 1) = some c → c.kind = .coll n param → s.memberTable k (s.collTemplate k n) = (v, .ok l) →
    (s.coll.accepted.1 = s.clk → s.coll.accepted.2 ≤ k) →
    v.stopping = false → v.coll.run = some r0 → r0.stage = .ring → r0.vals.length < (CollRun.expected (v.collT r0) r0).length →
    let r : CollRun := { cmd := c.id, core := k, tmpl := n, param := param, ordinal := v.coll.next, members := l, rank := l.findIdx (· == v.deviceId.toNat) }
    let u : State := { v.acceptCmd c .coll with coll := { v.coll with next := v.coll.next + 1, accepted := (v.clk, k) } }
    v.deviceId.toNat ∈ l → l.Nodup → (∀ d ∈ l, d ≤ 6143) → (∀ a ∈ v.coll.aborts, a.key ≠ r.key) → u.bufferHandles r 1 = .ok () →
    u.bufferHandles r0 2 = .ok () →
    ∃ t, exec (.collAccept k) s = .next t ∧ t.cmds = u.cmds ∧ t.coll = { u.coll with queue := v.coll.queue ++ [r] }
      ∧ t.cores = s.cores ∧ t.mem = s.mem

/-- R316-R320: COLL_MESSAGE_RECEIVED: a message of the expected step adds its bytes to the item that is arriving; with the last of them the member has the
item, and what it can send now goes on to its successor.
The model's own choices in it: log entry 66. -/
def collMessageResult : Prop :=
  ∀ (s : State) (r : CollRun) (m : Message) (i : CollItem) (ci : Circuit) (x : List RxPlace),
    let t0 := s.collT r
    let part := r.part ++ m.payload.flatMap fun d => leBytes 64 d.toNat
    s.coll.run = some r → r.stage = .ring → s.coll.aborts = [] → s.stopping = false → s.collHead (kPred t0) = some m →
    s.circuitOf (kPred t0) = some ci → ci.rx = .ready m :: x → (CollRun.expected t0 r)[r.vals.length]? = some i → m.cstep = r.cstep (r.step + 1) →
    s.bufferHandles r 2 = .ok () →
    (part.length < i.bytes t0 r.n →
      ∃ t, exec .collMessageReceived s = .next t
        ∧ t.coll = { s.coll with run := some { r with step := r.step + 1, part := part, waitFrom := s.clk } }
        ∧ t.circuitOf (kPred t0) = some { ci with rx := x } ∧ t.cores = s.cores ∧ t.mem = s.mem)
    ∧ (i.bytes t0 r.n ≤ part.length → r.vals.length + 1 < (CollRun.expected t0 r).length →
      let q := (s.dropHead (kPred t0)).sendReady
        { r with step := r.step + 1, waitFrom := s.clk, vals := r.vals ++ [(i, part.take (i.bytes t0 r.n))], part := [] }
      exec .collMessageReceived s = .next (q.1.setRun q.2) ∧ (q.1.setRun q.2).cores = s.cores ∧ (q.1.setRun q.2).mem = s.mem
        ∧ q.2.vals = r.vals ++ [(i, part.take (i.bytes t0 r.n))])

/-- R440, R442: COLL_PATIENCE_EXPIRY: a wait for the predecessor that reaches the bound fails the collective with sub-cause 1, the
predecessor suspected, and an older wait for the successor's confirmation with sub-cause 2, the successor suspected; the engine remembers the abort. Where another command of the channel has failed before it, it is cancelled (R421).
The model's own choices in it: log entry 67. -/
def collExpiryResult : Prop :=
  ∀ (s : State) (r : CollRun) (c : Cmd),
    let n := r.members.length
    s.coll.run = some r → r.stage = .ring → s.coll.queue = [] → s.stopping = false → s.bufferHandles r 2 = .ok () →
    s.collHead (kPred (s.collT r)) = none →
    r.vals.length < (CollRun.expected (s.collT r) r).length → s.cmdOf r.cmd = some c → r.waitFrom + kPatience (s.collT r) ≤ s.clk →
    let late := r.sent.find? fun x => s.unconfirmed (kSucc (s.collT r)) x.1
    ∀ sub rank, (late.all fun x => decide (r.waitFrom ≤ x.2)) = true ∧ sub = 1 ∧ rank = (r.rank + n - 1) % n
        ∨ (late.any fun x => decide (x.2 < r.waitFrom)) = true ∧ sub = 2 ∧ rank = (r.rank + 1) % n →
    let a : Abort := { cstep := r.cstep (r.step + 1), suspect := BitVec.ofNat 13 (r.members.getD rank 0x1FFF), origin := s.deviceId, sub := sub }
    ∃ t, exec .collPatienceExpiry s = .next t ∧ t.coll.run = none ∧ t.coll.queue = [] ∧ t.coll.aborts = s.coll.aborts ++ [a]
      ∧ t.cmdOf r.cmd = some { c with st := if s.channelDead c.core c.ch = true then .cancelled else .failed } ∧ t.mem = s.mem

/-- R442: what an abort flit of a circuit does to the link by which it goes on: it leaves at once, spending no credit, where nothing goes before it, and
otherwise stands ahead of what waits for the link and is no abort flit. -/
def abortGoesOn (s t : State) (i circ : Nat) (d : BitVec 512) : Prop :=
  let l := s.link i
  let f : Flit := { type := 8, circ := circ, data := d }
  (l.state = .up → l.retry.length < 512 → l.replayFrom = none → l.backlog = [] →
      (t.link i).sent = l.sent ++ [wireFlit 8 l.txSeq.toNat circ 0 d] ∧ (t.link i).retry = l.retry ++ [(l.txSeq, f)] ∧ (t.link i).credits = l.credits)
    ∧ (l.state ≠ .up → (t.link i).sent = l.sent
        ∧ (t.link i).backlog = l.backlog.takeWhile (fun x => !x.paid) ++ f :: l.backlog.dropWhile fun x => !x.paid)

/-- R442: ABORT_FLIT_RECEIVED at the end of a circuit: an abort of the node's domain that is new is remembered and goes on to this member's successor, on the
SUCC circuit of its template; at a hub on its route it goes on by the circuit's other link.
The model's own choices in it: log entry 28. -/
def abortResult : Prop :=
  ∀ (s : State) (j circ : Nat) (d : BitVec 512) (rest : List (Nat × Nat × BitVec 512)) (c : Circuit),
    s.abortIn = (j, circ, d) :: rest → s.circuitOf circ = some c → s.links.length = 12 →
    (∀ im, c.rhere = true → c.rtask = 0x1FF → s.lastImage = some im →
      im.domtag = word512 d 2 → s.coll.run = none → s.coll.queue = [] →
      (∀ x ∈ s.coll.aborts, x.key = (abortOf d).key → x.origin ≠ (abortOf d).origin) →
      let a := abortOf d
      let succ := kSucc (im.collT.getD (bits a.cstep.toNat 56 8) 0)
      ∃ t, exec .abortFlitReceived s = .next t ∧ t.abortIn = rest ∧ t.coll = { s.coll with aborts := s.coll.aborts ++ [a] }
        ∧ t.cores = s.cores ∧ t.mem = s.mem
        ∧ (s.linksOnward succ none = [] → t.links = s.links)
        ∧ ∀ i, s.linksOnward succ none = [i] → s.carrier i = i →
            abortGoesOn s t i succ (payloadOf [a.cstep.toNat, a.word, im.domtag.toNat]) ∧ ∀ n, n ≠ i → t.link n = s.link n)
    ∧ (∀ i, c.rhere = false → s.linksOnward circ (some j) = [i] → s.carrier i = i →
      ∃ t, exec .abortFlitReceived s = .next t ∧ t.abortIn = rest ∧ t.coll = s.coll ∧ t.cores = s.cores ∧ t.mem = s.mem
        ∧ abortGoesOn s t i circ d ∧ ∀ n, n ≠ i → t.link n = s.link n)

/-- R316-R320, R440, R442, R444: the steps of the collective engine complete. -/
def Obligations.CollectiveEventResults : Prop := collAcceptResult ∧ collMessageResult ∧ collExpiryResult ∧ abortResult

/-! ## Copy engines and kilns -/

/-- The items that a copy chunk moves, one after another, up to the end of the chunk or of the transfer. -/
def itemsMoved (c : Cmd) (t : BitVec 512) (param : Int) : Nat → State → CopyJob → State → CopyJob → Prop
  | 0, s, j, u, i => u = s ∧ i = j ∧ (tRuns t ≤ j.run ∨ 4096 ≤ j.chunk)
  | n + 1, s, j, u, i => j.run < tRuns t ∧ j.chunk < 4096 ∧ ∃ v k, s.moveItem c t param j = .ok (v, k) ∧
      itemsMoved c t param n v
        (if k.elem + 1 < runItems t (fmtOfCode k.fmt) then { k with chunk := k.chunk + itemBytes t, elem := k.elem + 1 }
         else { k with chunk := k.chunk + itemBytes t, run := k.run + 1, elem := 0 }) u i

/-- A byte of memory after the pieces of a write, in their order; a piece of host space writes none. -/
def pieceByte : List (Nat × Nat × Xlat) → List Byte → Nat → Byte → Byte
  | [], _, _, b => b
  | (_, n, x) :: r, l, k, b =>
    pieceByte r (l.drop n) k (if x.host = false ∧ x.key ≤ k ∧ k < x.key + min n l.length then l.getD (k - x.key) 0 else b)

/-- Memory after the pieces of a write. -/
def piecesWritten (s t : State) (p : List (Nat × Nat × Xlat)) (l : List Byte) : Prop := ∀ k, t.memByte k = pieceByte p l k (s.memByte k)

/-- R223, R240, R262, R409: COPY_COMMAND_ACCEPT: a command that is judged good is accepted. COPY_CHUNK moves item after item to the end of its chunk, where
the next one begins later, or of the transfer. An item from and to device memory is read, converted where the template says so, and written; no other byte
changes.
The model's own choices in it: log entry 65. -/
def copyResults : Prop :=
  (∀ (s : State) (k n : Nat) (param : Int) (c : Cmd) (j : CopyJob),
    s.nextCmd k (fun c => c.kind.engine == 0) = some c → c.kind = .copy n param → s.judgeCopy c n param = .ok j →
    ∃ t, exec (.copyCommandAccept k) s = .next t ∧ t.cmdOf c.id = some { c with st := .running (.copy j), awaits := none }
      ∧ t.cores = s.cores ∧ t.mem = s.mem)
  ∧ (∀ (s u : State) (cl n items : Nat) (param : Int) (c : Cmd) (j i : CopyJob), s.copyNow cl false = some (c, j) → c.kind = .copy n param →
    let t0 := s.copyTemplate c.core n
    let begins := j.chunk = 0 ∨ 4096 ≤ j.chunk
    let src := srcRun t0 param j.run + (srcByte (fmtOfCode j.fmt) (tConv t0) j.elem : Nat)
    let dst := dstRun t0 j.run + (j.elem * itemBytes t0 : Nat)
    j.run < tRuns t0 → (begins → s.stopping = false ∧ s.copyHandles c t0 src dst 2 = .ok ()) →
    ∀ from_, from_ = { j with chunk := if j.chunk < 4096 then j.chunk else 0, started := true } → items ≤ 4096 →
    itemsMoved c t0 param items s from_ u i →
      (i.run < tRuns t0 → ∃ t, exec (.copyChunk cl) s = .next t ∧ t.mem = u.mem ∧ t.cores = u.cores ∧ t.host = u.host
        ∧ t.cmds = u.cmds.map fun y => if y.id == c.id then { y with st := .running (.copy i), awaits := none } else y)
      ∧ (tRuns t0 ≤ i.run → tmplFol t0 = false → ∃ t, exec (.copyChunk cl) s = .next t ∧ t = u.completeCmd c ∧ t.mem = u.mem))
  ∧ (∀ (s : State) (c : Cmd) (t0 : BitVec 512) (param : Int) (j : CopyJob) (raw : Nat) (scale : Option (Bool × Nat)) (y : Xlat),
    let f := fmtOfCode j.fmt
    let n := itemBytes t0
    let d := s.copyDst c t0 j
    let v := State.engWalks srcCopy c.cluster (s.slotOfCore c.core) 2 d n (s.copyMeets c t0 f (s.copySrc c t0 param j) j.elem)
    s.copyTurn c t0 f (s.copySrc c t0 param j) d j.elem = true → tSrcLocal t0 = false → tDstLocal t0 = false → v.readSource c t0 f (s.copySrc c t0 param j) j.elem = .ok (raw, scale) →
    v.engPlaces c.cluster (s.slotOfCore c.core) 2 d n = .ok [(d, n, y)] → y.host = false →
    ∃ u, s.moveItem c t0 param j = .ok (u, j) ∧ bytesWritten s u y.key n (copyCode t0 f j.elem raw scale))

/-- R73, R75, R224, R413: FOLLOW_ON: each word of the lent window takes the value of the follow-on operation on the tiles' operands; the
other rows stay, and no memory changes.
The model's own choices in it: log entries 9, 65. -/
def followOnResult : Prop :=
  ∀ (s s2 : State) (cl n : Nat) (param : Int) (c : Cmd) (j : CopyJob), s.copyNow cl true = some (c, j) → c.kind = .copy n param →
    s.stopping = false →
    let t0 := s.copyTemplate c.core n
    let x := s.core c.core
    let aw := tmplFaw t0
    let fa := tField t0 0 33 9
    let fb := tField t0 0 42 9
    let ma := fmtOfCode (x.tile fa).fmt
    let mb := fmtOfCode (x.tile fb).fmt
    let ba := operandBytes ma (folK t0)
    let bb := operandBytes mb (folK t0)
    followBad x t0 = false → (∃ l ∈ x.lent, l.1 = aw ∧ c.id ∈ l.2) → (∀ g ∈ x.groupPoison, g.group < aw ∨ aw + 7 < g.group) →
    State.readUnits c.core (blocksOf fa ba ++ blocksOf fb bb) s = .ok s2 →
    ∃ t, exec (.followOn cl) s = .next t
      ∧ (∀ i l, i < 64 → l < 64 → lane ((t.core c.core).accRow (8 * aw + i)) l
          = followWord x t0 ma mb (x.readNat (4096 * fa) ba) (x.readNat (4096 * fb) bb) s.free i l)
      ∧ (∀ r, r < 8 * aw ∨ 8 * aw + 64 ≤ r → (t.core c.core).accRow r = x.accRow r)
      ∧ (t.core c.core).s = x.s ∧ (t.core c.core).scratch = x.scratch ∧ t.mem = s.mem

/-- R240, R270, R282, R283, R411, R414: KRED_ACCEPT takes a reduction whose block is good; KRED_CHUNK, with good handles, writes the TRUSS sums of a chunk's
elements and no other byte, and after the last chunk completes the command.
The model's own choices in it: log entry 68. -/
def kredResults : Prop :=
  (∀ (s v : State) (k stk : Nat) (a : Word) (c : Cmd) (w : List Nat),
    s.nextKiln k (fun | .kred _ _ => true | _ => false) = some c → c.kind = .kred a stk → s.judgeRed c stk a = (v, .ok w) →
    ∃ t, exec (.kredAccept k) s = .next t ∧ t.cmdOf c.id = some { c with st := .running (.kred w 0), awaits := none }
      ∧ t.cores = s.cores ∧ t.mem = s.mem)
  ∧ (∀ (s v : State) (id stk chunk : Nat) (a : Word) (c : Cmd) (w : List Nat) (d : RedBuf) (src : List RedBuf) (l : List (Fmt × List Nat))
      (p : List (Nat × Nat × Xlat)),
    let cl := kilnCluster stk
    let slot := s.slotOfCore c.core
    let e := 1024 * chunk
    let n := min 1024 (redLen w - e)
    let out := (List.range n).flatMap fun i => leBytes (elemBytes d.fmt) (redElem d.fmt (l.map fun p => decodeVal p.1 (p.2.getD i 0)))
    s.cmdOf id = some c → c.kind = .kred a stk → c.st = .running (.kred w chunk) → s.stopping = false → s.kilnBad.contains stk = false →
    e < redLen w → s.redHandles cl slot w e 2 = .ok () → s.redBufs cl slot w = d :: src → State.redReads stk slot e n src s = (v, .ok l) →
    let a := v.engAddr cl slot d.handle (d.off + e * elemBytes d.fmt)
    let v1 := State.engWalks srcKiln cl slot (out.length / 64 + 2) a out.length v
    v.engTurns (kilnPort stk) cl slot true false (out.length / 64 + 2) a out.length = true →
    v1.engPlaces cl slot (out.length / 64 + 2) a out.length = .ok p →
    let u := v1.engPut c.id (kilnPort stk) slot p out
    let next := u.updCmd c.id fun x => { x with st := .running (.kred w (chunk + 1)), awaits := none }
    piecesWritten s u p out
    ∧ (e + 1024 < redLen w → exec (.kredChunk id) s = .next next ∧ next.mem = u.mem ∧ next.cores = s.cores)
    ∧ (redLen w ≤ e + 1024 → redFlag w = false → exec (.kredChunk id) s = .next (next.completeCmd c) ∧ (next.completeCmd c).mem = u.mem))

/-- R240, R284, R285, R415: KOP_ACCEPT takes a near-bank command whose block and page are good; KOP_BANK_RUN runs one bank; a bank of one
element writes that element's value and nothing else.
The model's own choices in it: log entry 68. -/
def kopResults : Prop :=
  (∀ (s v : State) (k stk pa code : Nat) (a : Word) (c : Cmd) (w : List Nat),
    s.nextKiln k (fun | .kop _ _ => true | _ => false) = some c → c.kind = .kop a stk → s.blockWords c stk a 8 = (v, .ok w) → opBad w = none →
    (v.walkMeets srcKiln (kilnCluster stk) (s.slotOfCore c.core) (w.getD 1 0)).opPage (kilnCluster stk) (s.slotOfCore c.core) stk (w.getD 1 0)
      = some (pa, code) → kilnFmt code = true →
    (opCasts w = true ∨ opRmCode w = 0 ∨ kilnTapered code = false) →
    (∀ p ∈ opExtents w (fmtOfCode code), p.2.1 + p.2.2 ≤ 0x20000) →
    ∃ t, exec (.kopAccept k) s = .next t
      ∧ t.cmdOf c.id = some { c with st := .running (.kop w pa (fmtOfCode code) (opB0 w) none), awaits := none }
      ∧ t.cores = s.cores ∧ t.mem = s.mem)
  ∧ (∀ (s u : State) (id stk pa bank : Nat) (a : Word) (c : Cmd) (w : List Nat) (f : Fmt) (x : Xlat),
    s.cmdOf id = some c → c.kind = .kop a stk → c.st = .running (.kop w pa f bank none) → s.stopping = false → s.kilnBad.contains stk = false →
    s.opTurn stk w f (pa + bank * 0x20000) = true → s.engXl (kilnCluster stk) (s.slotOfCore c.core) (w.getD 1 0 + bank * 0x20000 + w.getD 4 0) 1 true = .ok x →
    State.opRun c.id stk w f (pa + bank * 0x20000) (opCount w) 0 s = (u, none) →
      (bank < opB1 w → ∃ t, exec (.kopBankRun id) s = .next t ∧ t.mem = u.mem ∧ t.cores = s.cores
        ∧ t.cmds = u.cmds.map fun y => if y.id == c.id then { y with st := .running (.kop w pa f (bank + 1) none), awaits := none } else y)
      ∧ (opB1 w ≤ bank → exec (.kopBankRun id) s = .next (u.completeCmd c) ∧ (u.completeCmd c).mem = u.mem)
      ∧ (∀ (v : State) (l : List Nat), opCount w = 1 → s.opReads stk w f (pa + bank * 0x20000) 0 = (v, .ok l) →
          bytesWritten s u (pa + bank * 0x20000 + w.getD 4 0) (elemBytes (opTarget w f)) (opValue w f l)))

/-- R287, R291, R293, R294: KSRCH_ACCEPT takes a query whose packet is good into a free context; DISTANCE_REQUEST has the kiln of a member's home stack, which keeps the query vector and
the shard's entry from the first request on, compute the member's distance; DISTANCE_REPLY brings it back while others are still to come.
The model's own choices in it: log entry 68. -/
def searchResults : Prop :=
  (∀ (s v : State) (k stk : Nat) (a : Word) (c : Cmd) (x : QueryCtx),
    s.nextKiln k (fun | .ksrch _ _ => true | _ => false) = some c → c.kind = .ksrch a stk → s.judgeQuery c stk a = (v, .ok x) → x.members ≠ [] →
    ∃ t, exec (.ksrchAccept k) s = .next t ∧ t.cmdOf c.id = some { c with st := .running (.ksrch x), awaits := none }
      ∧ t.cores = s.cores ∧ t.mem = s.mem)
  ∧ (∀ (s : State) (id stk node : Nat) (a : Word) (c : Cmd) (x : QueryCtx), s.cmdOf id = some c → c.kind = .ksrch a stk →
    c.st = .running (.ksrch x) → s.stopping = false →
    (∀ v y, node ∈ x.members → (∀ z ∈ x.asked ++ x.replies, z.id ≠ node) → s.distance c (x.passTo node) node = (v, .ok y) →
      ∃ t, exec (.distanceRequest id node) s = .next t ∧ t.mem = s.mem ∧ t.cores = s.cores
        ∧ t.cmds = s.cmds.map fun z => if z.id == id then
            { z with st := .running (.ksrch { x.passTo node with asked := x.asked ++ [y] }), awaits := none } else z)
    ∧ (∀ y, x.asked.find? (fun y => y.id == node) = some y → x.replies.length + 1 < x.members.length →
      ∃ t, exec (.distanceReply id node) s = .next t ∧ t.mem = s.mem ∧ t.cores = s.cores
        ∧ t.cmds = s.cmds.map fun z => if z.id == id then
            { z with st := .running (.ksrch { x with asked := x.asked.erase y, replies := x.replies ++ [y] }) } else z))

/-- R223, R224, R240, R262, R282-R285, R287, R291, R293, R294, R409, R413-R415: the steps of the copy engines and the kilns complete. -/
def Obligations.EngineEventResults : Prop := copyResults ∧ followOnResult ∧ kredResults ∧ kopResults ∧ searchResults

/-! ## The host, the driver and the firmware -/

/-- What the host's steps leave alone: every core. -/
def hostStepKeeps (s t : State) : Prop := t.cores = s.cores ∧ t.accs = s.accs ∧ t.node = s.node

/-- R332: RVK writes a new GEN into the range entry, and into every range cache that holds the entry; the other bytes of memory stay. -/
def rvkResult : Prop :=
  ∀ (s : State) (v : Word),
    let slot := bits v.toNat 52 6
    let index := bits v.toNat 0 10
    let gen := bits v.toNat 32 20
    let key := s.rangeKey slot index
    keyOk key 64 = true →
    ∃ t, exec (.rvk v) s = .next t ∧ hostStepKeeps s t ∧ (t.rangeEntry slot index).gen = gen
      ∧ (∀ k, k < key + 24 ∨ key + 32 ≤ k → t.memByte k = s.memByte k)
      ∧ ((s.rangeEntry slot index).gen ≠ gen → ∀ cl, ∀ r ∈ (t.cluster cl).ranges, r.slot = slot → r.index = index →
          (Range.ofWords index r.words.toNat).gen = gen)

/-- R332, R410: XLINV empties the translation caches of one context, or all of them; memory stays. -/
def xlinvResult : Prop :=
  ∀ (s : State) (v : Word), ∃ t, exec (.xlinv v) s = .next t ∧ hostStepKeeps s t ∧ t.mem = s.mem
    ∧ (v.getLsbD 6 = true → ∀ cl, t.cluster cl = {})
    ∧ (v.getLsbD 6 = false → ∀ cl, t.cluster cl =
        { ranges := (s.cluster cl).ranges.filter fun r => r.slot != bits v.toNat 0 6,
          pages := (s.cluster cl).pages.filter fun r => r.slot != bits v.toNat 0 6 })

/-- R265, R268, R333, R388: HOST_ATOMICOP, at an offset in BAR2 that is a multiple of its width and whose turn at its controller it is. On a page with
SYSAT the word takes the operation's value, no other byte changes, and the host has the old value. On a page without it, the first step reads and the
second writes. A word that cannot be delivered answers ones, marked, and is not written.
The model's own choices in it: log entries 22, 33. -/
def hostAtomicResult : Prop :=
  ∀ (s : State) (off : Nat) (wide : Bool) (op : HostAtomic) (v : Word),
    let n := wideBytes wide
    let key := s.bar2Key off
    let old := s.memNat key n
    let r := s.readsLine srcHost hostPort key n
    let i : Instr := .hostAtomicop off wide op v
    off % n = 0 → off + n ≤ 2 ^ 36 → keyOk key n = true → s.served key = true → s.portTurn hostPort key n = true →
    (s.hostRmw = none → r.poisoned key n = none →
      ((r.physAttrs key).1 = true → ∃ t, exec i s = .next t ∧ t.cores = s.cores
        ∧ (∀ x, hostNew n old v op = some x → bytesWritten s t key n x) ∧ (hostNew n old v op = none → t.mem = s.mem)
        ∧ .atomic (BitVec.ofNat 64 old) false ∈ t.host)
      ∧ ((r.physAttrs key).1 = false → ∃ t, exec i s = .next t ∧ t.cores = s.cores ∧ t.mem = s.mem
        ∧ t.hostRmw = some { key := key, n := n, old := old, new := hostNew n old v op }))
    ∧ (s.hostRmw = none → (r.poisoned key n).isSome = true → ∃ t, exec i s = .next t ∧ t.cores = s.cores ∧ t.mem = s.mem
        ∧ .atomic (BitVec.ofNat 64 (2 ^ (8 * n) - 1)) true ∈ t.host)
    ∧ (∀ w, s.hostRmw = some w → s.portTurn hostPort w.key w.n = true → ∃ t, exec i s = .next t ∧ t.cores = s.cores ∧ t.hostRmw = none
        ∧ (∀ v, w.new = some v → bytesWritten s t w.key w.n v) ∧ (w.new = none → t.mem = s.mem)
        ∧ t.host = s.host ++ [.atomic (BitVec.ofNat 64 w.old) false])

/-- R333, R388: the host's reads and writes through BAR2: the bytes at the window's place; a read of a poisoned line gives ones and is
marked.
The model's own choices in it: log entries 22, 33. -/
def bar2Results : Prop :=
  ∀ (s : State) (off : Nat), let key := s.bar2Key off
    (∀ n, 0 < n → off + n ≤ 2 ^ 36 → keyOk key n = true → s.served key = true → s.portTurn hostPort key n = true →
      let r := s.readsLine srcHost hostPort key n
      (r.poisoned key n = none → ∃ t, exec (.hostBar2Read off n) s = .next t ∧ hostStepKeeps s t ∧ t.mem = s.mem
        ∧ t.host = r.host ++ [.read off (s.memBytes key n) false])
      ∧ ((r.poisoned key n).isSome = true → ∃ t, exec (.hostBar2Read off n) s = .next t ∧ hostStepKeeps s t ∧ t.mem = s.mem
        ∧ t.host = r.host ++ [.read off (List.replicate n 0xFF) true]))
    ∧ (∀ l : List Byte, 0 < l.length → off + l.length ≤ 2 ^ 36 → keyOk key l.length = true → s.served key = true →
      s.portTurn hostPort key l.length = true → s.hostRmw = none →
      ∃ t, exec (.hostBar2Write off l) s = .next t ∧ hostStepKeeps s t ∧ t.host = s.host
        ∧ (∀ i, i < l.length → t.memByte (key + i) = l.getD i 0) ∧ ∀ k, k < key ∨ key + l.length ≤ k → t.memByte k = s.memByte k)

/-- R338: at L0 the device serves management only, and at L1 no memory of tier 0: a request through BAR2 for what is not served has no effect.
The model's own choices in it: log entry 77. -/
def serviceResult : Prop :=
  ∀ (s : State) (off : Nat), let key := s.bar2Key off
    (s.level = 0 ∨ (s.level = 1 ∧ key < 2 ^ 52)) →
    (∀ n, keyOk key n = true → exec (.hostBar2Read off n) s = .next s)
    ∧ (∀ l : List Byte, keyOk key l.length = true → exec (.hostBar2Write off l) s = .next s)
    ∧ (∀ wide op v, keyOk key (wideBytes wide) = true → exec (.hostAtomicop off wide op v) s = .next s)

/-- R334, R369: PRG_RESPONSE with success frees the request's entry; ATS_INVALIDATION ends a translation that no access uses.
The model's own choices in it: log entry 21. -/
def hostPageResults : Prop :=
  (∀ (s : State) (index : Nat) (r : PageRequest), s.requests.find? (fun r => r.index == index) = some r →
    exec (.prgResponse index .success) s = .next { s with requests := s.requests.filter fun q => q.index != index })
  ∧ (∀ (s : State) (pasid va : Nat),
    (∀ a ∈ s.accs, s.usesPage { index := 0, pasid := pasid, page := hostPage va } a = false) →
    exec (.atsInvalidation pasid va) s
      = .next { s with ats := s.ats.filter (fun a => !(a.pasid == pasid && a.page == hostPage va)), host := s.host ++ [.invalidated pasid va] })

/-- R276, R324, R333, R368, R400, R410, R456: REGISTER_WRITE: a plain register keeps its own bits of the value written; a lost-record
counter loses the bits written as 1. -/
def registerWriteResult : Prop :=
  ∀ (s : State) (v : Word),
    exec (.registerWrite 0x000020 v) s
      = .next { s with regs := { s.regs with b2win := BitVec.ofNat 64 (bits v.toNat 52 1 * 2 ^ 52) ||| BitVec.ofNat 64 (bits v.toNat 36 16 * 2 ^ 36) } }
    ∧ exec (.registerWrite 0x1A0000 v) s = .next { s with regs := { s.regs with tlbase := BitVec.ofNat 64 (bits v.toNat 12 40 * 2 ^ 12) } }
    ∧ exec (.registerWrite 0x1A0020 v) s = .next { s with regs := { s.regs with tllost := s.regs.tllost &&& ~~~(v.setWidth 32) } }
    ∧ exec (.registerWrite 0x180000 v) s = .next { s with regs := { s.regs with migthr := v.setWidth 16 } }
    ∧ (∀ n, n < 64 → (s.slot n).st = .idle → ∃ t, exec (.registerWrite (0x080000 + 0x40 * n + 0x18) v) s = .next t
        ∧ t.slot n = { s.slot n with seed := v.setWidth 32 } ∧ (∀ m, m ≠ n → t.slot m = s.slot m) ∧ t.mem = s.mem ∧ t.cores = s.cores)

/-- R2, R324, R332, R402, R410, R456: what registers of BAR0 read as: DEVINFO its device id, service level and revision 0x01; XLSTAT and RVKSTAT
zero, an invalidation and a revocation being each one step; GSTATE its three fields; BPLCNT and BPLDATA the list of bad pages; SCRHEAD the number of
the next record, and SCRREC its records; a plain register the value last written to it. The write-only registers have no read value.
The model's own choices in it: log entry 78. -/
def registerReadResult : Prop :=
  ∀ s : State,
    let reads (s : State) (off n : Nat) : Prop := s.readReg off = some (BitVec.ofNat 64 n)
    reads s 0x000000 (2 ^ 24 + s.level * 2 ^ 16 + s.deviceId.toNat)
    ∧ reads s 0x000010 0 ∧ reads s 0x000028 0
    ∧ (∀ n, n < 64 → reads s (0x080000 + 0x40 * n + 0x38) ((s.slot n).discarded.toNat * 2 ^ 32 + (s.slot n).prio * 2 ^ 8 + (s.slot n).st.code))
    ∧ reads s 0x1C0100 s.nv.bpl.length
    ∧ reads s 0x1C0120 (if s.regs.bplidx.toNat < s.nv.bpl.length then (s.nv.bpl.getD s.regs.bplidx.toNat 0).toNat else 0)
    ∧ reads s 0x1F0000 s.scribe.head.toNat
    ∧ (∀ n w, n < 8192 → w < 4 → reads s (0x200000 + 32 * n + 8 * w) (bits (s.scribe.record n).toNat (64 * w) 64))
    ∧ (∀ off ∈ [0x000008, 0x000018, 0x180040, 0x180048, 0x1C0108, 0x100000], s.readReg off = none)
    ∧ ∀ (v : Word) (t : State), (exec (.registerWrite 0x180000 v) s = .next t → reads t 0x180000 (bits v.toNat 0 16))
        ∧ (exec (.registerWrite 0x1A0000 v) s = .next t → reads t 0x1A0000 (bits v.toNat 12 40 * 2 ^ 12))
        ∧ (exec (.registerWrite 0x1A0018 v) s = .next t → reads t 0x1A0018 (bits v.toNat 0 32))
        ∧ (exec (.registerWrite 0x1C0118 v) s = .next t → reads t 0x1C0118 (bits v.toNat 0 10))

/-- R389, R400, R401: PATROL_SCRUB poisons a line with an error that cannot be corrected, once, and counts a corrected one; CE_WINDOW
clears its controller's counts.
The model's own choices in it: log entry 23. -/
def scrubResults : Prop :=
  (∀ (s : State) (tier : Bool) (pa : Nat), paOk tier pa = true →
    let key := memKey tier (pa / 64 * 64)
    (key / 64 ∉ s.poison → ∃ t, exec (.patrolScrub tier pa true) s = .next t ∧ hostStepKeeps s t ∧ t.mem = s.mem
      ∧ ∀ l, l ∈ t.poison ↔ l = key / 64 ∨ l ∈ s.poison)
    ∧ (key / 64 ∈ s.poison → exec (.patrolScrub tier pa true) s = .next s)
    ∧ (key / 64 ∉ s.poison → (Sparse.find? (ceRow key) s.ceCounts).isSome = true → s.ceCount key + 1 ≠ bits s.regs.faqctl.toNat 16 16 →
        ∃ t, exec (.patrolScrub tier pa false) s = .next t ∧ hostStepKeeps s t ∧ t.mem = s.mem ∧ t.poison = s.poison ∧ t.regs = s.regs
          ∧ t.ceCounts = Sparse.insert (ceRow key) (s.ceCount key + 1) s.ceCounts))
  ∧ (∀ (s : State) (ctrl : Nat), Sparse.get 0 s.ceWindows ctrl + 2 ^ s.regs.cewin ≤ s.clk →
    ∃ t, exec (.ceWindow ctrl) s = .next t ∧ hostStepKeeps s t ∧ t.mem = s.mem
      ∧ t.ceCounts = (s.ceCounts.filter fun p => p.1 % 2048 != ctrl)
      ∧ Sparse.get 0 t.ceWindows ctrl = Sparse.get 0 s.ceWindows ctrl + 2 ^ s.regs.cewin)

/-- R402: BPLADD asks for an entry; BPL_COMMIT writes it to non-volatile storage, or refuses it.
The model's own choices in it: log entry 24. -/
def bplResults : Prop :=
  ∀ s : State,
    (∀ v, s.regs.bplstat ≠ 1 → exec (.bpladd v) s = .next { s with regs := { s.regs with bplstat := 1, bplpend := v } })
    ∧ (s.regs.bplstat = 1 → s.bplRefused s.regs.bplpend = false →
      exec .bplCommit s = .next { s with nv := { s.nv with bpl := s.nv.bpl ++ [s.regs.bplpend] }, regs := { s.regs with bplstat := 2 } })
    ∧ (s.regs.bplstat = 1 → s.nv.bpl.length = 1024 → exec .bplCommit s = .next { s with regs := { s.regs with bplstat := 3 } })

/-- R9, R338, R453, R454: CLOCK_CHANGE and SERVICE_LEVEL_CHANGE; at L1 the clusters run at 1,125 MHz, at L2 at 2,250.
The model's own choices in it: log entries 13, 14. -/
def clockResults : Prop :=
  ∀ s : State,
    (∀ code mhz, code < 3 → 0 < mhz → ∃ t, exec (.clockChange code mhz) s = .next t ∧ hostStepKeeps s t ∧ t.mhz = mhz ∧ t.mem = s.mem)
    ∧ (s.level = 0 → s.bootFailed = false → s.firmware ≠ [] →
      ∃ t, exec (.serviceLevelChange 1) s = .next t ∧ hostStepKeeps s t ∧ t.level = 1 ∧ t.mhz = 1125 ∧ t.mem = s.mem)
    ∧ (s.level = 1 → s.node = none →
      ∃ t, exec (.serviceLevelChange 2) s = .next t ∧ hostStepKeeps s t ∧ t.level = 2 ∧ t.mhz = 2250 ∧ t.mem = s.mem)
    ∧ (s.level = 2 → ∀ l, exec (.serviceLevelChange l) s = .next s)

/-- R335, R402, R453: after COLD_RESET everything but non-volatile storage and the device id is as at reset; WARM_RESET keeps the scribe's
records and memory as well. What the host has received is the host's.
The model's own choices in it: log entry 15. -/
def resetResults : Prop :=
  ∀ s : State,
    (∃ t, exec .coldReset s = .next t ∧ t.nv = s.nv ∧ t.deviceId = s.deviceId ∧ t.host = s.host ∧ t.cores = [] ∧ t.mem = []
      ∧ t.poison = [] ∧ t.node = none ∧ t.graph = none ∧ t.level = 0 ∧ t.slots = [] ∧ t.regs = {} ∧ t.scribe = {} ∧ t.firmware = []
      ∧ t.spdm = {} ∧ t.clusters = [] ∧ ∀ j, (t.link j).state = .untrained)
    ∧ (∃ t, exec .warmReset s = .next t ∧ t.nv = s.nv ∧ t.deviceId = s.deviceId ∧ t.host = s.host ∧ t.cores = [] ∧ t.mem = s.mem
      ∧ t.poison = s.poison ∧ t.errs = s.errs ∧ t.node = none ∧ t.graph = none ∧ t.level = 0 ∧ t.slots = [] ∧ t.regs = {}
      ∧ t.scribe.ring = s.scribe.ring
      ∧ t.scribe.head = s.scribe.head ∧ t.scribe.sst = false)

/-- R455, R456: SCRCTL.FREEZE stops the scribe; SCRCTL.FROZEN starts it again with no event missed. -/
def scribeControlResults : Prop :=
  ∀ s : State,
    exec .scrctlFreeze s = .next { s with scribe := { s.scribe with frozen := true, freezeIn := none } }
    ∧ exec .scrctlFrozen s = .next { s with scribe := { s.scribe with frozen := false, missed := 0 } }

/-- R2, R9, R265, R268, R276, R324, R332-R334, R338, R369, R388, R389, R400-R402, R410, R453-R456: the steps of the host and the driver complete. -/
def Obligations.HostEventResults : Prop :=
  rvkResult ∧ xlinvResult ∧ hostAtomicResult ∧ bar2Results ∧ serviceResult ∧ hostPageResults ∧ registerWriteResult ∧ registerReadResult ∧ scrubResults ∧ bplResults ∧ clockResults
    ∧ resetResults ∧ scribeControlResults

/-- R335: the responder in a session: after GET_VERSION, GET_CAPABILITIES and NEGOTIATE_ALGORITHMS with SHA-256 offered (that order is the
model's, log entry 12), it answers digests, certificates, challenges and measurements; each signature uses a leaf index that is spent in non-volatile storage. That a measurement which
reads a BAD record of the scribe counts as reading it, and so starts its freeze once (R455), is the model's own, log entry 63. -/
def spdmResults : Prop :=
  ∀ s : State,
    exec .getVersion s = .next { s with spdm := { versioned := true }, host := s.host ++ [.spdm .version] }
    ∧ (s.spdm.versioned = true →
      exec .getCapabilities s = .next { s with spdm := { s.spdm with capable := true }, host := s.host ++ [.spdm .capabilities] })
    ∧ (s.spdm.capable = true →
      exec (.negotiateAlgorithms true) s = .next { s with spdm := { s.spdm with negotiated := true }, host := s.host ++ [.spdm .algorithms] })
    ∧ (s.spdm.negotiated = true →
      exec .getDigests s = .next { s with host := s.host ++ [.spdm (.digest (sha256 Config.certificateChain))] }
      ∧ (∀ off len, off < Config.certificateChain.length → exec (.getCertificate 0 off len) s = .next { s with host := s.host
          ++ [.spdm (.certificate ((Config.certificateChain.drop off).take len) (Config.certificateChain.length - (off + len)))] })
      ∧ (∀ nonce, s.nv.leaf < 2 ^ 40 → exec (.challenge 0 nonce) s = .next { s with
          nv := { s.nv with leaf := s.nv.leaf + 1 }
          host := s.host ++ [.spdm (.challenge (sha256 Config.certificateChain) nonce
            (Config.lmsSignature s.nv.leaf (leNat (sha256 (sha256 Config.certificateChain ++ nonce)))))] })
      ∧ (∀ b l, b ≠ 0 → b ≠ 0xFF → s.block b = some l → ∀ nonce,
          (s.scribe.bad = [] →
            exec (.getMeasurements b false nonce) s = .next { s with host := s.host ++ [.spdm (.measurements [(b, rawBlock b, l)] none)] })
          ∧ (0xC0 ≤ b → (s.scribe.blockPlaces (b - 0xC0)).any s.scribe.bad.contains = true →
            let fresh := s.scribe.bad.all s.scribe.found.contains = false
            exec (.getMeasurements b false nonce) s = .next
              { s with
                scribe := if fresh then { s.scribe with
                    found := s.scribe.bad, freezeIn := if s.scribe.freezeIn.isNone && !s.scribe.frozen then some 64 else s.scribe.freezeIn }
                  else s.scribe
                host := s.host ++ [.spdm (.measurements [(b, rawBlock b, l)] none)] })))

/-- R336: BOOT_FIRMWARE_VERIFY: the next image in load order that verifies is measured by its SHA-256; after one that fails none is. -/
def bootResult : Prop :=
  ∀ (s : State) (index : Nat) (image : List Byte), s.level = 0 → s.bootFailed = false → index = s.firmware.length + 1 → index ≤ 15 →
    (Config.firmwareVerifies index image = true →
      exec (.bootFirmwareVerify index image) s = .next { s with firmware := s.firmware ++ [BitVec.ofNat 256 (leNat (sha256 image))] })
    ∧ (Config.firmwareVerifies index image = false → exec (.bootFirmwareVerify index image) s = .next { s with bootFailed := true })

/-- R335, R336: the steps of attestation complete. -/
def Obligations.AttestationEventResults : Prop := spdmResults ∧ bootResult

/-! ## The machine -/

/-- A step with something on the agenda takes it: the device's step is that event's meaning, after the clocks before it have passed, in which the scribe's
counter runs on at 1 GHz, a part of a tick kept, and full aggregation buffers leave (R280). An operation of a slot has no place there: cores alone issue those.
(The agenda is the model's own, log entry 1, and so is the part of a tick, log entry 13.) -/
def Obligations.AgendaStep : Prop :=
  ∀ (s : State) (dt : Nat) (i : Instr) (rest : List (Nat × Instr)), s.agenda = (dt, i) :: rest →
    let u := { s with agenda := rest }.elapse dt
    let ticks := s.scribe.part + dt * 1000
    (slotOp i = none → step s = exec i u) ∧ ((slotOp i).isSome = true → step s = .next u)
    ∧ (dt = 0 → u = { s with agenda := rest })
    ∧ (dt ≠ 0 → u.clk = s.clk + dt ∧ u.scribe.time = s.scribe.time + BitVec.ofNat 64 (ticks / s.mhz) ∧ u.scribe.part = ticks % s.mhz
        ∧ u.cores = s.cores ∧ u.mem = s.mem ∧ u.accs = s.accs)
    ∧ (dt ≠ 0 → (∀ b ∈ s.aggBufs, b.elems.length < 15) →
        u = { s with agenda := rest, clk := s.clk + dt,
                     scribe := { s.scribe with time := s.scribe.time + BitVec.ofNat 64 (ticks / s.mhz), part := ticks % s.mhz } })

/-- An escape and a literal bundle with one valid slot. -/
def escaped (slot bits : Nat) : Nat := 0xFFFF + 2 ^ 16 * (2 ^ (5 + slot) + bits * 2 ^ (24 + 60 * slot))

/-- R105, R107, R115-R117: slot words that the spec works out, each the only slot of a literal bundle, decode to their instructions. -/
def Obligations.DecodeWords : Prop :=
  decodeTableWord 400 (escaped 0 0x0281FFFFFFF40000) = some (.br 0xFFFFFFF4)
  ∧ decodeTableWord 400 (escaped 0 0x000B40000000000D) = some (.waitcImm 2 13)
  ∧ decodeTableWord 400 (escaped 0 0x000E000000000000) = some .rewind
  ∧ decodeTableWord 400 (escaped 1 0x0303144FFFFFFFF8) = some (.addi 5 4 0xFFFFFFFF8)
  ∧ decodeTableWord 400 (escaped 1 0x001E224000000000) = some (.cmpi 2 9 .eq 0)
  ∧ decodeTableWord 400 (escaped 2 0x0013184434000000) = some (.vfma 3 1 2 3 2 0 .rne)
  ∧ decodeTableWord 400 (escaped 2 0x0031390A08600000) = some (.vshuf 7 4 5 .slidedn 3 0)
  ∧ decodeTableWord 400 (escaped 3 0x00054004A0000000) = some (.mma 16 0 1 false true .tree8)
  ∧ decodeTableWord 400 (escaped 3 0x000A211E20C50000) = some (.drain 8 1 15 .fp32 .rne .sat 3 5)
  ∧ decodeTableWord 400 (escaped 4 0x000114400010580A) = some (.ld 5 4 16 .b4 true .device false 0 .acqRel .dev)
  ∧ decodeTableWord 400 (escaped 4 0x0004194000000200) = some (.vst 3 10 0 0 0 .device false 0)
  ∧ decodeTableWord 400 (escaped 5 0x0002284800007FE0) = some (.recv 5 9 15 63)
  ∧ decodeTableWord 400 (escaped 5 0x00071DC010000000) = some (.ksrch 7 3 4 1)

/-- R105: what each kind of code word expands to: a word below 0x2000 that the dictionary holds, that bundle; a word from 0x2000 to
0xFFFE, an unassigned word's error; 0xFFFF with 24 words left, the literal bundle of those words, the first of them lowest. -/
def Obligations.CodeWords : Prop :=
  ∀ (s : State) (k head count : Nat) (dict : List (BitVec 384)) (fuel ix w : Nat), ix < count →
    let pc := head + 16 + 2 * ix
    s.codeAt k pc 2 = .ok w →
    let e := s.expandFrom k head count dict (fuel + 1) ix
    let rest (n : Nat) : List BufItem := (s.expandFrom k head count dict fuel (ix + n)).items
    (∀ b, w < 0x2000 → dict[w]? = some b → e.items = { pc := pc, len := 2, what := .bundle b } :: rest 1)
    ∧ (0x2000 ≤ w → w < 0xFFFF → e.items = { pc := pc, len := 2, what := .bad 1 w 0 pc } :: rest 1)
    ∧ (w = 0xFFFF → ix + 25 ≤ count → ∀ l : Nat → Nat, (∀ j, j < 24 → s.codeAt k (pc + 2 + 2 * j) 2 = .ok (l j) ∧ l j < 2 ^ 16) →
        ∃ b : BitVec 384, e.items = { pc := pc, len := 50, what := .bundle b } :: rest 25
          ∧ ∀ j, j < 24 → bits b.toNat (16 * j) 16 = l j)

/-- R118-R246, R130: every slot operation that is well formed has an encoding of 60 bits, and where it may stand (the command core's own
operations there alone, and there only what it admits; CSRs that are assigned, writable and served; templates that are held), its
encoding with any guard decodes back to it. -/
def Obligations.SlotDecodesBack : Prop :=
  ∀ (ctx : EncCtx) (g : PReg) (gn : Bool) (i : Instr), i.wf = true →
    ∃ (cl : SlotClass) (w : Nat), encodeSlot ⟨g, gn, i⟩ = some (cl, w) ∧ w < 2 ^ 60
      ∧ ((if ctx.cmd then admittedCmd cl i = true else ∀ op body, encodeOp i = some (.c, op, body) → isCmdOp op = false) →
          (∀ d n, i = .csrr d n → csrAssigned n.val = true ∧ (ctx.cmd = true → csrServedCmd n.val = true)) →
          (∀ n a, i = .csrw n a → csrWritable n.val = true ∧ (ctx.cmd = true → csrServedCmd n.val = true)) →
          (∀ t a ch n, i = .coll t a ch n → t.val ∈ ctx.collHeld) →
          decodeSlot ctx cl w = .ok ⟨g, gn, i⟩)

/-- What an issue that only puts a result in flight leaves alone: memory, what lies outside the cores, every other core, and of its own
core everything but the registers of the files S, P, V and M. (A result that takes effect stands over one of an older cluster access of the core to the
same register: R35.) -/
structure IssueKeeps (s t : State) : Prop where
  mem : t.mem = s.mem
  poison : t.poison = s.poison
  under : t.accs = s.accs ∧ t.cmds = s.cmds ∧ t.circuits = s.circuits
  cluster : (∀ a ∈ s.clAccs, a.core ≠ s.cur) → t.clAccs = s.clAccs
  host : t.host = s.host
  others : ∀ j, j ≠ s.cur → t.core j = s.core j
  tiles : t.me.t = s.me.t ∧ t.me.tcfg = s.me.tcfg ∧ t.me.acc = s.me.acc ∧ t.me.q = s.me.q
  scratch : t.me.scratch = s.me.scratch ∧ t.me.tiles = s.me.tiles ∧ t.me.streams = s.me.streams
  special : t.me.sticky = s.me.sticky ∧ t.me.chcnt = s.me.chcnt ∧ t.me.sbchk = s.me.sbchk
  exception : t.me.trap = s.me.trap ∧ t.me.trapvec = s.me.trapvec ∧ t.me.shadow = s.me.shadow ∧ t.me.inh = s.me.inh

/-- R25, R34, R136, R177: the frame of the operations whose result is one register of S, P, V or M (each `s.issues` of a put in the
statements above): that register alone takes the value, at the next bundle where the latency is 1 and at LC plus the latency otherwise;
S0, P0 and M0 keep their constants; a mask leaves the lanes that it does not name. -/
def Obligations.ResultFrames : Prop :=
  ∀ (s : State) (slot lat : Nat), s.me.pend = [] → s.me.phase = .running → s.me.lc.toNat + 1 < 2 ^ 64 → 1 ≤ lat →
    let flies (t : State) (x : Commit) : Prop := ∃ p, t.me.pend = [p] ∧ p.what = x ∧ p.key = 2 * (s.me.lc.toNat + lat)
    (∀ (d : SReg) (x : Word), let t := s.issues fun u => u.putS slot d x lat
        IssueKeeps s t ∧ t.me.p = s.me.p ∧ t.me.v = s.me.v ∧ t.me.m = s.me.m ∧ (∀ e, e ≠ d → t.me.rdS e = s.me.rdS e)
        ∧ (lat = 1 → t.me.rdS d = (if d = 0 then 0 else x) ∧ t.me.pend = [])
        ∧ (1 < lat → t.me.rdS d = s.me.rdS d ∧ flies t (.s d x)))
    ∧ (∀ (d : PReg) (x : Bool) (w : BitVec 16), let t := s.issues (fun u => u.putP slot d x lat) w
        IssueKeeps s t ∧ t.me.s = s.me.s ∧ t.me.v = s.me.v ∧ t.me.m = s.me.m ∧ (∀ e, e ≠ d → t.me.rdP e = s.me.rdP e)
        ∧ (lat = 1 → t.me.rdP d = (d = 0 || x) ∧ t.me.pend = [])
        ∧ (1 < lat → t.me.rdP d = s.me.rdP d ∧ flies t (.p d x)))
    ∧ (∀ (d : VReg) (mask : BitVec 64) (x : BitVec 2048), s.me.streamOf d = none →
      let t := s.issues fun u => u.putV slot d mask x lat
      IssueKeeps s t ∧ t.me.s = s.me.s ∧ t.me.p = s.me.p ∧ t.me.m = s.me.m ∧ (∀ e, e ≠ d → t.me.v[e] = s.me.v[e])
        ∧ (lat = 1 → t.me.pend = []
            ∧ ∀ i, i < 64 → lane t.me.v[d] i = if mask.getLsbD i then lane x i else lane s.me.v[d] i)
        ∧ (1 < lat → t.me.v[d] = s.me.v[d] ∧ flies t (.v d mask x)))
    ∧ ∀ (d : MReg) (mask x : BitVec 64), let t := s.issues fun u => u.putM slot d mask x lat
        IssueKeeps s t ∧ t.me.s = s.me.s ∧ t.me.p = s.me.p ∧ t.me.v = s.me.v ∧ (∀ e, e ≠ d → t.me.rdM e = s.me.rdM e)
        ∧ (lat = 1 → t.me.pend = []
            ∧ ∀ i, i < 64 → (t.me.rdM d).getLsbD i = (d = 0 || if mask.getLsbD i then x.getLsbD i else (s.me.rdM d).getLsbD i))
        ∧ (1 < lat → t.me.rdM d = s.me.rdM d ∧ flies t (.m d mask x))

/-- R201, R213, R250, R254: no slot operation writes device memory when it issues, whatever else it does, traps, waits and launches
included: stores leave for the queues, and reach memory in steps of their own. A poisoned line stays poisoned.
The model's own choices in it: log entry 7. -/
def Obligations.IssueKeepsMemory : Prop :=
  ∀ (i : Instr) (op : SlotOp) (s t : State), slotOp i = some op → exec i s = .next t → t.mem = s.mem ∧ ∀ l ∈ s.poison, l ∈ t.poison

/-- Every step of the device keeps the canonical form of its memory: no key twice, none out of order, none that reads as an unlisted
byte does; and that of every core's scratchpad, with the registers that are hard-wired holding what they read as, S0 zero, P0 true and M0 all ones, in the
restart shadow too (R136, R177).
The model's own choices in it: log entry 3. -/
def Obligations.MemoryFormKept : Prop :=
  (∀ s t : State, Memory.wf s.mem = true → step s = .next t → Memory.wf t.mem = true)
  ∧ ∀ s t : State, (∀ p ∈ s.cores, p.2.Wf) → step s = .next t → ∀ p ∈ t.cores, p.2.Wf

/-- What a core holds before its task has issued anything: the CSRs at the values of R153, every tile's state word at R81's (VERIFIED, which is bit 10, and
nothing else), and the hard-wired registers as they read (R136, R177). -/
structure FreshCore (c : Core) : Prop where
  trap : c.trapvec = 0 ∧ c.trap.cause = 0 ∧ c.trap.pc = 0 ∧ c.trap.lc = 0 ∧ c.trap.addr = 0 ∧ c.trap.info0 = 0 ∧ c.trap.info1 = 0 ∧ c.trap.opc = 0
  restart : c.shadow.pc = 0 ∧ c.shadow.lc = 0
  control : c.inh = false ∧ c.sbchk = false ∧ c.sticky = 0
  counters : ∀ i : Fin 8, c.chcnt[i] = 0
  shapes : ∀ i : TReg, c.tcfg[i] = 0x1F3F13
  tiles : ∀ x, (c.tile x).word = 0x400
  wired : c.rdS 0 = 0 ∧ c.rdP 0 = true ∧ c.rdM 0 = BitVec.allOnes 64
  form : c.Wf

/-- R81, R86, R136, R153, R177, R368, R400, R401, R439, R453, R456: after reset the device is at L0 and runs nothing, its links are untrained,
the registers that the spec gives a reset value hold it, no record is in the scribe, and memory has its form; a core that has not begun a
task, and one at the start of its task, holds the reset values of its CSRs, its tile shapes and its tiles' state words, and its hard-wired registers read as they
do.
The model's own choices in it: log entries 2, 3, 4. -/
def Obligations.ResetState : Prop :=
  let s := State.reset
  Memory.wf s.mem = true ∧ s.level = 0 ∧ s.node = none ∧ s.graph = none ∧ s.cores = [] ∧ s.accs = [] ∧ s.firmware = []
  ∧ (∀ j, j < 12 → (s.link j).state = .untrained) ∧ s.regs.migthr = 0 ∧ s.regs.tlbase = 0 ∧ s.regs.tlctl = 0
  ∧ bits s.regs.faqctl.toNat 16 16 = 16 ∧ bit s.regs.faqctl.toNat 8 = false ∧ s.regs.cewin = 36
  ∧ s.scribe.ring = [] ∧ s.scribe.head = 0 ∧ s.scribe.sst = false ∧ s.scribe.time = 0
  ∧ (∀ k, FreshCore (s.core k) ∧ (s.core k).phase = .absent)
  ∧ ∀ (im : Image) (entry : Nat), FreshCore (startCore im entry) ∧ (startCore im entry).phase = .running
      ∧ (startCore im entry).pc = BitVec.ofNat 64 (im.base + entry) ∧ (startCore im entry).lc = 0

/-- R57, R58: the ternary formats: the codes of TRI2, the digits of a TRI5 byte, the codes that are reserved, and where an element lies. -/
def Obligations.TernaryCodes : Prop :=
  (∀ raw i, raw < 256 → let code := bits raw (2 * (i % 4)) 2
    loadLane .tri2 raw i = (if code = 1 then 1 else if code = 3 then -1 else 0) ∧ elemReserved .tri2 raw i = (code == 2))
  ∧ (∀ (t : Fin 5 → Fin 3) (b : Nat) (i : Fin 5),
      let raw := (t 0).val + 3 * (t 1).val + 9 * (t 2).val + 27 * (t 3).val + 81 * (t 4).val
      loadLane .tri5 raw (5 * b + i.val) = (if t i = 1 then 1 else if t i = 2 then -1 else 0)
      ∧ elemReserved .tri5 raw (5 * b + i.val) = false)
  ∧ (∀ raw i, 243 ≤ raw → raw < 256 → loadLane .tri5 raw i = 0 ∧ elemReserved .tri5 raw i = true)
  ∧ ∀ a i, a + i < 2 ^ 57 → elemAddr .tri2 a i = a + i / 4 ∧ elemAddr .tri5 a i = a + i / 5
end

