-- ==== Sys2Proof/Laws/Sparse.lean ====
section
/-! SUPPORT. Lists by key keep their canonical form, and a write changes what one key reads as. -/

namespace Sys2Proof.Machine

variable {α : Type}

/-- A key above every listed one is not found. -/
theorem Sparse.find?_none_of_wfFrom [DecidableEq α] {d : α} {m : Sparse α} {lo k : Nat} (h : Sparse.wfFrom d (some lo) m = true) (hk : k ≤ lo) :
    Sparse.find? k m = none := by
  induction m generalizing lo with
  | nil => rfl
  | cons p r ih =>
    obtain ⟨j, v⟩ := p
    simp only [Sparse.wfFrom, Bool.and_eq_true, decide_eq_true_eq] at h
    have hj : ¬ j = k := by omega
    simp only [Sparse.find?, hj, if_false]
    exact ih h.2 (by omega)

theorem Sparse.find?_erase_same (m : Sparse α) (k : Nat) : Sparse.find? k (Sparse.erase k m) = none := by
  induction m with
  | nil => rfl
  | cons p r ih =>
    obtain ⟨j, v⟩ := p
    by_cases h : j = k <;> simp [Sparse.erase, Sparse.find?, h, ih]

theorem Sparse.find?_erase_ne (m : Sparse α) {k j : Nat} (h : j ≠ k) : Sparse.find? j (Sparse.erase k m) = Sparse.find? j m := by
  induction m with
  | nil => rfl
  | cons p r ih =>
    obtain ⟨i, v⟩ := p
    by_cases hi : i = k
    · have : ¬ i = j := by omega
      simp only [Sparse.erase, hi, if_true, Sparse.find?]
      rw [ih]; simp [Ne.symm h]
    · by_cases hj : i = j
      · subst hj; simp [Sparse.erase, Sparse.find?, hi]
      · simp [Sparse.erase, Sparse.find?, hi, hj, ih]

theorem Sparse.find?_insert_same (m : Sparse α) (k : Nat) (v : α) : Sparse.find? k (Sparse.insert k v m) = some v := by
  induction m with
  | nil => simp [Sparse.insert, Sparse.find?]
  | cons p r ih =>
    obtain ⟨j, w⟩ := p
    by_cases h : k < j
    · simp [Sparse.insert, Sparse.find?, h]
    · by_cases hj : j = k <;> simp [Sparse.insert, Sparse.find?, h, hj, ih]

theorem Sparse.find?_insert_ne (m : Sparse α) {k j : Nat} (v : α) (h : j ≠ k) : Sparse.find? j (Sparse.insert k v m) = Sparse.find? j m := by
  induction m with
  | nil => simp [Sparse.insert, Sparse.find?, Ne.symm h]
  | cons p r ih =>
    obtain ⟨i, w⟩ := p
    by_cases hk : k < i
    · simp [Sparse.insert, Sparse.find?, hk, Ne.symm h]
    · by_cases hi : i = k
      · subst hi; simp [Sparse.insert, Sparse.find?, Ne.symm h]
      · by_cases hj : i = j
        · subst hj; simp [Sparse.insert, Sparse.find?, hk, hi]
        · simp [Sparse.insert, Sparse.find?, hk, hi, hj, ih]

/-- Reading the key that was written gives what was written. -/
theorem Sparse.get_set_same [DecidableEq α] (d : α) (m : Sparse α) (k : Nat) (v : α) : Sparse.get d (Sparse.set d m k v) k = v := by
  unfold Sparse.get Sparse.set
  split
  · next h => simp [Sparse.find?_erase_same, h]
  · simp [Sparse.find?_insert_same]

/-- Every other key reads as before. -/
theorem Sparse.get_set_ne [DecidableEq α] (d : α) (m : Sparse α) {k j : Nat} (v : α) (h : j ≠ k) :
    Sparse.get d (Sparse.set d m k v) j = Sparse.get d m j := by
  unfold Sparse.get Sparse.set
  split
  · rw [Sparse.find?_erase_ne m h]
  · rw [Sparse.find?_insert_ne m v h]

theorem Sparse.wfFrom_weaken [DecidableEq α] {d : α} {m : Sparse α} {lo lo' : Nat} (h : Sparse.wfFrom d (some lo) m = true) (hl : lo' ≤ lo) :
    Sparse.wfFrom d (some lo') m = true := by
  cases m with
  | nil => rfl
  | cons p r =>
    obtain ⟨j, v⟩ := p
    simp only [Sparse.wfFrom, Bool.and_eq_true, decide_eq_true_eq] at h ⊢
    exact ⟨⟨by omega, h.1.2⟩, h.2⟩

theorem Sparse.wfFrom_erase [DecidableEq α] {d : α} (k : Nat) {m : Sparse α} {lo : Option Nat} (h : Sparse.wfFrom d lo m = true) :
    Sparse.wfFrom d lo (Sparse.erase k m) = true := by
  induction m generalizing lo with
  | nil => rfl
  | cons p r ih =>
    obtain ⟨j, v⟩ := p
    by_cases hj : j = k
    · simp only [Sparse.erase, hj, if_true]
      have hr : Sparse.wfFrom d (some j) r = true := by
        simp only [Sparse.wfFrom, Bool.and_eq_true] at h; exact h.2
      cases lo with
      | none =>
        have := ih hr
        generalize Sparse.erase k r = e at this
        cases e with
        | nil => rfl
        | cons q s => obtain ⟨i, w⟩ := q; simp [Sparse.wfFrom] at this ⊢; exact ⟨this.1.2, this.2⟩
      | some l =>
        have hl : l < j := by simp [Sparse.wfFrom] at h; exact h.1.1
        exact Sparse.wfFrom_weaken (ih hr) (Nat.le_of_lt hl)
    · simp only [Sparse.erase, hj, if_false]
      simp only [Sparse.wfFrom, Bool.and_eq_true] at h ⊢
      exact ⟨h.1, ih h.2⟩

theorem Sparse.wfFrom_insert [DecidableEq α] {d : α} {k : Nat} {v : α} (hv : v ≠ d) {m : Sparse α} {lo : Option Nat} (hlo : ∀ l, lo = some l → l < k)
    (h : Sparse.wfFrom d lo m = true) : Sparse.wfFrom d lo (Sparse.insert k v m) = true := by
  induction m generalizing lo with
  | nil =>
    cases lo with
    | none => simp [Sparse.insert, Sparse.wfFrom, hv]
    | some l => simp [Sparse.insert, Sparse.wfFrom, hv, hlo l rfl]
  | cons p r ih =>
    obtain ⟨j, w⟩ := p
    have hr : Sparse.wfFrom d (some j) r = true := by
      simp only [Sparse.wfFrom, Bool.and_eq_true] at h; exact h.2
    have hw : decide (w ≠ d) = true := by
      simp only [Sparse.wfFrom, Bool.and_eq_true] at h; exact h.1.2
    by_cases hk : k < j
    · simp only [Sparse.insert, hk, if_true]
      cases lo with
      | none => simp [Sparse.wfFrom, hv, hk, hr] at hw ⊢; exact hw
      | some l => simp [Sparse.wfFrom, hv, hk, hr, hlo l rfl] at hw ⊢; exact hw
    · by_cases hj : j = k
      · subst hj
        simp only [Sparse.insert, Nat.lt_irrefl, if_false, if_true]
        cases lo with
        | none => simp [Sparse.wfFrom, hv, hr]
        | some l => simp [Sparse.wfFrom, hv, hr, hlo l rfl]
      · simp only [Sparse.insert, hk, hj, if_false]
        simp only [Sparse.wfFrom, Bool.and_eq_true] at h ⊢
        exact ⟨h.1, ih (fun l hl => by cases hl; omega) hr⟩

/-- A write keeps the canonical form. -/
theorem Sparse.wf_set [DecidableEq α] {d : α} {m : Sparse α} (h : Sparse.wf d m = true) (k : Nat) (v : α) : Sparse.wf d (Sparse.set d m k v) = true := by
  unfold Sparse.set
  split
  · exact Sparse.wfFrom_erase k h
  · next hv => exact Sparse.wfFrom_insert hv (by simp) h

theorem writeMem_wf {m : Sparse Byte} (h : Memory.wf m = true) (k : Nat) (l : List Byte) : Memory.wf (writeMem m k l) = true := by
  induction l generalizing m k with
  | nil => exact h
  | cons b r ih => exact ih (Sparse.wf_set h k b) (k + 1)

theorem Core.writeByte_wf {c : Core} (h : Memory.wf c.scratch = true) (cycle rank a : Nat) (b : Byte) :
    Memory.wf (c.writeByte cycle rank a b).scratch = true := by
  unfold Core.writeByte
  split
  · exact Sparse.wf_set h a b
  · exact h

/-- A write of the scratchpad keeps its form, at whatever place in the order of R80 it stands. -/
theorem Core.writeAt_wf {c : Core} (h : Memory.wf c.scratch = true) (cycle rank a : Nat) (l : List Byte) :
    Memory.wf (c.writeAt cycle rank a l).scratch = true := by
  induction l generalizing c a with
  | nil => exact h
  | cons b r ih => exact ih (Core.writeByte_wf h cycle rank a b) (a + 1)

/-- The one operation that writes device memory keeps its form. -/
theorem State.memWrite_wf {s : State} (h : Memory.wf s.mem = true) (k : Nat) (l : List Byte) : Memory.wf (s.memWrite k l).mem = true :=
  writeMem_wf h k l

theorem Core.writeBytes_wf {c : Core} (h : Memory.wf c.scratch = true) (a : Nat) (l : List Byte) : Memory.wf (c.writeBytes a l).scratch = true :=
  Core.writeAt_wf h _ _ a l

theorem Sparse.wfFrom_filter [DecidableEq α] {d : α} (p : Nat × α → Bool) {m : Sparse α} {lo : Option Nat} (h : Sparse.wfFrom d lo m = true) :
    Sparse.wfFrom d lo (m.filter p) = true := by
  induction m generalizing lo with
  | nil => rfl
  | cons q r ih =>
    obtain ⟨j, v⟩ := q
    have hr : Sparse.wfFrom d (some j) r = true := by
      simp only [Sparse.wfFrom, Bool.and_eq_true] at h; exact h.2
    by_cases hp : p (j, v) = true
    · simp only [List.filter_cons, hp, if_true]
      simp only [Sparse.wfFrom, Bool.and_eq_true] at h ⊢
      exact ⟨h.1, ih hr⟩
    · simp only [List.filter_cons, hp]
      have hf := ih hr
      cases lo with
      | none =>
        generalize List.filter p r = e at hf
        cases e with
        | nil => rfl
        | cons x y => obtain ⟨i, w⟩ := x; simp [Sparse.wfFrom] at hf ⊢; exact ⟨hf.1.2, hf.2⟩
      | some l =>
        have hl : l < j := by simp [Sparse.wfFrom] at h; exact h.1.1
        exact Sparse.wfFrom_weaken hf (Nat.le_of_lt hl)

/-- An entry of the FAQ, kept or dropped, writes no memory. -/
@[simp] theorem State.mem_scribeFaq (s : State) (code : Nat) (e : BitVec 128) : (s.scribeFaq code e).mem = s.mem := rfl
@[simp] theorem State.mem_postFaq (s : State) (e : BitVec 128) : (s.postFaq e).mem = s.mem := by simp only [State.postFaq]; split <;> rfl

@[simp] theorem State.mem_corrected (s : State) (src key : Nat) : (s.corrected src key).mem = s.mem := by
  simp only [State.corrected]
  split <;> split <;> simp

@[simp] theorem State.mem_uncorrected (s : State) (src key : Nat) : (s.uncorrected src key).mem = s.mem := by
  unfold State.uncorrected
  split <;> simp

/-- What the read of a line finds changes no byte. -/
@[simp] theorem State.mem_meetLine (s : State) (src line : Nat) : (s.meetLine src line).mem = s.mem := by
  unfold State.meetLine
  split
  · rfl
  · dsimp only
    split
    · simp
    · split <;> simp

@[simp] theorem State.mem_copyReads (s : State) (key n : Nat) : (s.copyReads key n).mem = s.mem := by
  unfold State.copyReads
  generalize s.errs.filter _ = l
  induction l generalizing s with
  | nil => rfl
  | cons e r ih => rw [List.foldl_cons, ih, State.mem_meetLine]

@[simp] theorem State.mem_touchSpan (s : State) (key n : Nat) : (s.touchSpan key n).mem = s.mem := rfl

/-- The copy of a migration keeps the form as well. -/
theorem State.copyMemory_wf {s : State} (h : Memory.wf s.mem = true) (src dst n : Nat) : Memory.wf (s.copyMemory src dst n).mem = true := by
  have key (l : List (Nat × Byte)) : ∀ m : Sparse Byte, Memory.wf m = true → Memory.wf (l.foldl (fun m p => Sparse.set 0 m p.1 p.2) m) = true := by
    induction l with
    | nil => exact fun m hm => hm
    | cons p r ih => exact fun m hm => ih _ (Sparse.wf_set hm p.1 p.2)
  exact key _ _ (Sparse.wfFrom_filter _ (by simpa [Memory.wf, Sparse.wf] using h))

/-- A byte that the write does not reach reads as before. -/
theorem writeMem_get_of_lt (m : Sparse Byte) (k j : Nat) (l : List Byte) (h : j < k ∨ k + l.length ≤ j) :
    Sparse.get 0 (writeMem m k l) j = Sparse.get 0 m j := by
  induction l generalizing m k with
  | nil => rfl
  | cons b r ih =>
    rw [writeMem, ih _ _ (by simp at h; omega), Sparse.get_set_ne]
    simp at h; omega

/-- A byte that the write reaches reads as written. -/
theorem writeMem_get_of_mem (m : Sparse Byte) (k i : Nat) (l : List Byte) (h : i < l.length) :
    Sparse.get 0 (writeMem m k l) (k + i) = l[i] := by
  induction l generalizing m k i with
  | nil => simp at h
  | cons b r ih =>
    rw [writeMem]
    cases i with
    | zero => rw [writeMem_get_of_lt _ _ _ _ (by omega)]; simpa using Sparse.get_set_same 0 m k b
    | succ i =>
      have := ih (Sparse.set 0 m k b) (k + 1) i (by simpa using h)
      rw [show k + (i + 1) = k + 1 + i by omega, this]; rfl

theorem State.memByte_memWrite_outside (s : State) (k j : Nat) (l : List Byte) (h : j < k ∨ k + l.length ≤ j) :
    (s.memWrite k l).memByte j = s.memByte j := writeMem_get_of_lt s.mem k j l h

theorem State.memByte_memWrite_inside (s : State) (k i : Nat) (l : List Byte) (h : i < l.length) : (s.memWrite k l).memByte (k + i) = l[i] :=
  writeMem_get_of_mem s.mem k i l h

end Sys2Proof.Machine
end

