-- ==== Sys2Proof/Laws/State.lean ====
section
/-! SUPPORT. What each update of the state and of a core leaves in each field: one lemma per field, true by unfolding, so that no proof
unfolds a record update. -/

namespace Sys2Proof.Machine

/-! ## Cores -/

@[simp] theorem State.core_setCore_same (s : State) (k : Nat) (c : Core) : (s.setCore k c).core k = c := by
  simp [State.core, State.setCore, Sparse.get, Sparse.find?_insert_same]
theorem State.core_setCore_ne (s : State) {k j : Nat} (c : Core) (h : j ≠ k) : (s.setCore k c).core j = s.core j := by
  simp [State.core, State.setCore, Sparse.get, Sparse.find?_insert_ne _ _ h]
@[simp] theorem State.core_updCore_same (s : State) (k : Nat) (f : Core → Core) : (s.updCore k f).core k = f (s.core k) := by
  simp [State.updCore]
theorem State.core_updCore_ne (s : State) {k j : Nat} (f : Core → Core) (h : j ≠ k) : (s.updCore k f).core j = s.core j := by
  simp [State.updCore, State.core_setCore_ne s _ h]
@[simp] theorem State.me_updMe (s : State) (f : Core → Core) : (s.updMe f).me = f s.me := by
  simp [State.me, State.updMe, State.updCore, State.setCore, State.core, Sparse.get, Sparse.find?_insert_same]

/-! ## `setCore` -/

@[simp] theorem State.cur_setCore (s : State) (k : Nat) (x : Core) : (s.setCore k x).cur = s.cur := rfl
@[simp] theorem State.agenda_setCore (s : State) (k : Nat) (x : Core) : (s.setCore k x).agenda = s.agenda := rfl
@[simp] theorem State.clk_setCore (s : State) (k : Nat) (x : Core) : (s.setCore k x).clk = s.clk := rfl
@[simp] theorem State.nextId_setCore (s : State) (k : Nat) (x : Core) : (s.setCore k x).nextId = s.nextId := rfl
@[simp] theorem State.accs_setCore (s : State) (k : Nat) (x : Core) : (s.setCore k x).accs = s.accs := rfl
@[simp] theorem State.clAccs_setCore (s : State) (k : Nat) (x : Core) : (s.setCore k x).clAccs = s.clAccs := rfl
@[simp] theorem State.cmds_setCore (s : State) (k : Nat) (x : Core) : (s.setCore k x).cmds = s.cmds := rfl
@[simp] theorem State.mem_setCore (s : State) (k : Nat) (x : Core) : (s.setCore k x).mem = s.mem := rfl
@[simp] theorem State.poison_setCore (s : State) (k : Nat) (x : Core) : (s.setCore k x).poison = s.poison := rfl
@[simp] theorem State.errs_setCore (s : State) (k : Nat) (x : Core) : (s.setCore k x).errs = s.errs := rfl
@[simp] theorem State.kilnBad_setCore (s : State) (k : Nat) (x : Core) : (s.setCore k x).kilnBad = s.kilnBad := rfl
@[simp] theorem State.released_setCore (s : State) (k : Nat) (x : Core) : (s.setCore k x).released = s.released := rfl
@[simp] theorem State.arrivals_setCore (s : State) (k : Nat) (x : Core) : (s.setCore k x).arrivals = s.arrivals := rfl
@[simp] theorem State.merges_setCore (s : State) (k : Nat) (x : Core) : (s.setCore k x).merges = s.merges := rfl
@[simp] theorem State.counts_setCore (s : State) (k : Nat) (x : Core) : (s.setCore k x).counts = s.counts := rfl
@[simp] theorem State.window_setCore (s : State) (k : Nat) (x : Core) : (s.setCore k x).window = s.window := rfl
@[simp] theorem State.ceCounts_setCore (s : State) (k : Nat) (x : Core) : (s.setCore k x).ceCounts = s.ceCounts := rfl
@[simp] theorem State.ceWindows_setCore (s : State) (k : Nat) (x : Core) : (s.setCore k x).ceWindows = s.ceWindows := rfl
@[simp] theorem State.clusters_setCore (s : State) (k : Nat) (x : Core) : (s.setCore k x).clusters = s.clusters := rfl
@[simp] theorem State.ats_setCore (s : State) (k : Nat) (x : Core) : (s.setCore k x).ats = s.ats := rfl
@[simp] theorem State.requests_setCore (s : State) (k : Nat) (x : Core) : (s.setCore k x).requests = s.requests := rfl
@[simp] theorem State.denied_setCore (s : State) (k : Nat) (x : Core) : (s.setCore k x).denied = s.denied := rfl
@[simp] theorem State.hostRmw_setCore (s : State) (k : Nat) (x : Core) : (s.setCore k x).hostRmw = s.hostRmw := rfl
@[simp] theorem State.migration_setCore (s : State) (k : Nat) (x : Core) : (s.setCore k x).migration = s.migration := rfl
@[simp] theorem State.node_setCore (s : State) (k : Nat) (x : Core) : (s.setCore k x).node = s.node := rfl
@[simp] theorem State.circuits_setCore (s : State) (k : Nat) (x : Core) : (s.setCore k x).circuits = s.circuits := rfl
@[simp] theorem State.tileIo_setCore (s : State) (k : Nat) (x : Core) : (s.setCore k x).tileIo = s.tileIo := rfl
@[simp] theorem State.routers_setCore (s : State) (k : Nat) (x : Core) : (s.setCore k x).routers = s.routers := rfl
@[simp] theorem State.links_setCore (s : State) (k : Nat) (x : Core) : (s.setCore k x).links = s.links := rfl
@[simp] theorem State.store_setCore (s : State) (k : Nat) (x : Core) : (s.setCore k x).store = s.store := rfl
@[simp] theorem State.inPkts_setCore (s : State) (k : Nat) (x : Core) : (s.setCore k x).inPkts = s.inPkts := rfl
@[simp] theorem State.pktIn_setCore (s : State) (k : Nat) (x : Core) : (s.setCore k x).pktIn = s.pktIn := rfl
@[simp] theorem State.abortIn_setCore (s : State) (k : Nat) (x : Core) : (s.setCore k x).abortIn = s.abortIn := rfl
@[simp] theorem State.opsSent_setCore (s : State) (k : Nat) (x : Core) : (s.setCore k x).opsSent = s.opsSent := rfl
@[simp] theorem State.aggBufs_setCore (s : State) (k : Nat) (x : Core) : (s.setCore k x).aggBufs = s.aggBufs := rfl
@[simp] theorem State.aggSent_setCore (s : State) (k : Nat) (x : Core) : (s.setCore k x).aggSent = s.aggSent := rfl
@[simp] theorem State.aggSeq_setCore (s : State) (k : Nat) (x : Core) : (s.setCore k x).aggSeq = s.aggSeq := rfl
@[simp] theorem State.replies_setCore (s : State) (k : Nat) (x : Core) : (s.setCore k x).replies = s.replies := rfl
@[simp] theorem State.streams427_setCore (s : State) (k : Nat) (x : Core) : (s.setCore k x).streams427 = s.streams427 := rfl
@[simp] theorem State.coll_setCore (s : State) (k : Nat) (x : Core) : (s.setCore k x).coll = s.coll := rfl
@[simp] theorem State.lastImage_setCore (s : State) (k : Nat) (x : Core) : (s.setCore k x).lastImage = s.lastImage := rfl
@[simp] theorem State.slots_setCore (s : State) (k : Nat) (x : Core) : (s.setCore k x).slots = s.slots := rfl
@[simp] theorem State.graph_setCore (s : State) (k : Nat) (x : Core) : (s.setCore k x).graph = s.graph := rfl
@[simp] theorem State.graphImage_setCore (s : State) (k : Nat) (x : Core) : (s.setCore k x).graphImage = s.graphImage := rfl
@[simp] theorem State.cmdBusy_setCore (s : State) (k : Nat) (x : Core) : (s.setCore k x).cmdBusy = s.cmdBusy := rfl
@[simp] theorem State.savedImages_setCore (s : State) (k : Nat) (x : Core) : (s.setCore k x).savedImages = s.savedImages := rfl
@[simp] theorem State.launches_setCore (s : State) (k : Nat) (x : Core) : (s.setCore k x).launches = s.launches := rfl
@[simp] theorem State.regs_setCore (s : State) (k : Nat) (x : Core) : (s.setCore k x).regs = s.regs := rfl
@[simp] theorem State.host_setCore (s : State) (k : Nat) (x : Core) : (s.setCore k x).host = s.host := rfl
@[simp] theorem State.deviceId_setCore (s : State) (k : Nat) (x : Core) : (s.setCore k x).deviceId = s.deviceId := rfl
@[simp] theorem State.level_setCore (s : State) (k : Nat) (x : Core) : (s.setCore k x).level = s.level := rfl
@[simp] theorem State.firmware_setCore (s : State) (k : Nat) (x : Core) : (s.setCore k x).firmware = s.firmware := rfl
@[simp] theorem State.bootFailed_setCore (s : State) (k : Nat) (x : Core) : (s.setCore k x).bootFailed = s.bootFailed := rfl
@[simp] theorem State.mhz_setCore (s : State) (k : Nat) (x : Core) : (s.setCore k x).mhz = s.mhz := rfl
@[simp] theorem State.scribe_setCore (s : State) (k : Nat) (x : Core) : (s.setCore k x).scribe = s.scribe := rfl
@[simp] theorem State.spdm_setCore (s : State) (k : Nat) (x : Core) : (s.setCore k x).spdm = s.spdm := rfl
@[simp] theorem State.nv_setCore (s : State) (k : Nat) (x : Core) : (s.setCore k x).nv = s.nv := rfl
@[simp] theorem State.free_setCore (s : State) (k : Nat) (x : Core) : (s.setCore k x).free = s.free := rfl

/-! ## `updCore` -/

@[simp] theorem State.cur_updCore (s : State) (k : Nat) (f : Core → Core) : (s.updCore k f).cur = s.cur := rfl
@[simp] theorem State.agenda_updCore (s : State) (k : Nat) (f : Core → Core) : (s.updCore k f).agenda = s.agenda := rfl
@[simp] theorem State.clk_updCore (s : State) (k : Nat) (f : Core → Core) : (s.updCore k f).clk = s.clk := rfl
@[simp] theorem State.nextId_updCore (s : State) (k : Nat) (f : Core → Core) : (s.updCore k f).nextId = s.nextId := rfl
@[simp] theorem State.accs_updCore (s : State) (k : Nat) (f : Core → Core) : (s.updCore k f).accs = s.accs := rfl
@[simp] theorem State.clAccs_updCore (s : State) (k : Nat) (f : Core → Core) : (s.updCore k f).clAccs = s.clAccs := rfl
@[simp] theorem State.cmds_updCore (s : State) (k : Nat) (f : Core → Core) : (s.updCore k f).cmds = s.cmds := rfl
@[simp] theorem State.mem_updCore (s : State) (k : Nat) (f : Core → Core) : (s.updCore k f).mem = s.mem := rfl
@[simp] theorem State.poison_updCore (s : State) (k : Nat) (f : Core → Core) : (s.updCore k f).poison = s.poison := rfl
@[simp] theorem State.errs_updCore (s : State) (k : Nat) (f : Core → Core) : (s.updCore k f).errs = s.errs := rfl
@[simp] theorem State.kilnBad_updCore (s : State) (k : Nat) (f : Core → Core) : (s.updCore k f).kilnBad = s.kilnBad := rfl
@[simp] theorem State.released_updCore (s : State) (k : Nat) (f : Core → Core) : (s.updCore k f).released = s.released := rfl
@[simp] theorem State.arrivals_updCore (s : State) (k : Nat) (f : Core → Core) : (s.updCore k f).arrivals = s.arrivals := rfl
@[simp] theorem State.merges_updCore (s : State) (k : Nat) (f : Core → Core) : (s.updCore k f).merges = s.merges := rfl
@[simp] theorem State.counts_updCore (s : State) (k : Nat) (f : Core → Core) : (s.updCore k f).counts = s.counts := rfl
@[simp] theorem State.window_updCore (s : State) (k : Nat) (f : Core → Core) : (s.updCore k f).window = s.window := rfl
@[simp] theorem State.ceCounts_updCore (s : State) (k : Nat) (f : Core → Core) : (s.updCore k f).ceCounts = s.ceCounts := rfl
@[simp] theorem State.ceWindows_updCore (s : State) (k : Nat) (f : Core → Core) : (s.updCore k f).ceWindows = s.ceWindows := rfl
@[simp] theorem State.clusters_updCore (s : State) (k : Nat) (f : Core → Core) : (s.updCore k f).clusters = s.clusters := rfl
@[simp] theorem State.ats_updCore (s : State) (k : Nat) (f : Core → Core) : (s.updCore k f).ats = s.ats := rfl
@[simp] theorem State.requests_updCore (s : State) (k : Nat) (f : Core → Core) : (s.updCore k f).requests = s.requests := rfl
@[simp] theorem State.denied_updCore (s : State) (k : Nat) (f : Core → Core) : (s.updCore k f).denied = s.denied := rfl
@[simp] theorem State.hostRmw_updCore (s : State) (k : Nat) (f : Core → Core) : (s.updCore k f).hostRmw = s.hostRmw := rfl
@[simp] theorem State.migration_updCore (s : State) (k : Nat) (f : Core → Core) : (s.updCore k f).migration = s.migration := rfl
@[simp] theorem State.node_updCore (s : State) (k : Nat) (f : Core → Core) : (s.updCore k f).node = s.node := rfl
@[simp] theorem State.circuits_updCore (s : State) (k : Nat) (f : Core → Core) : (s.updCore k f).circuits = s.circuits := rfl
@[simp] theorem State.tileIo_updCore (s : State) (k : Nat) (f : Core → Core) : (s.updCore k f).tileIo = s.tileIo := rfl
@[simp] theorem State.routers_updCore (s : State) (k : Nat) (f : Core → Core) : (s.updCore k f).routers = s.routers := rfl
@[simp] theorem State.links_updCore (s : State) (k : Nat) (f : Core → Core) : (s.updCore k f).links = s.links := rfl
@[simp] theorem State.store_updCore (s : State) (k : Nat) (f : Core → Core) : (s.updCore k f).store = s.store := rfl
@[simp] theorem State.inPkts_updCore (s : State) (k : Nat) (f : Core → Core) : (s.updCore k f).inPkts = s.inPkts := rfl
@[simp] theorem State.pktIn_updCore (s : State) (k : Nat) (f : Core → Core) : (s.updCore k f).pktIn = s.pktIn := rfl
@[simp] theorem State.abortIn_updCore (s : State) (k : Nat) (f : Core → Core) : (s.updCore k f).abortIn = s.abortIn := rfl
@[simp] theorem State.opsSent_updCore (s : State) (k : Nat) (f : Core → Core) : (s.updCore k f).opsSent = s.opsSent := rfl
@[simp] theorem State.aggBufs_updCore (s : State) (k : Nat) (f : Core → Core) : (s.updCore k f).aggBufs = s.aggBufs := rfl
@[simp] theorem State.aggSent_updCore (s : State) (k : Nat) (f : Core → Core) : (s.updCore k f).aggSent = s.aggSent := rfl
@[simp] theorem State.aggSeq_updCore (s : State) (k : Nat) (f : Core → Core) : (s.updCore k f).aggSeq = s.aggSeq := rfl
@[simp] theorem State.replies_updCore (s : State) (k : Nat) (f : Core → Core) : (s.updCore k f).replies = s.replies := rfl
@[simp] theorem State.streams427_updCore (s : State) (k : Nat) (f : Core → Core) : (s.updCore k f).streams427 = s.streams427 := rfl
@[simp] theorem State.coll_updCore (s : State) (k : Nat) (f : Core → Core) : (s.updCore k f).coll = s.coll := rfl
@[simp] theorem State.lastImage_updCore (s : State) (k : Nat) (f : Core → Core) : (s.updCore k f).lastImage = s.lastImage := rfl
@[simp] theorem State.slots_updCore (s : State) (k : Nat) (f : Core → Core) : (s.updCore k f).slots = s.slots := rfl
@[simp] theorem State.graph_updCore (s : State) (k : Nat) (f : Core → Core) : (s.updCore k f).graph = s.graph := rfl
@[simp] theorem State.graphImage_updCore (s : State) (k : Nat) (f : Core → Core) : (s.updCore k f).graphImage = s.graphImage := rfl
@[simp] theorem State.cmdBusy_updCore (s : State) (k : Nat) (f : Core → Core) : (s.updCore k f).cmdBusy = s.cmdBusy := rfl
@[simp] theorem State.savedImages_updCore (s : State) (k : Nat) (f : Core → Core) : (s.updCore k f).savedImages = s.savedImages := rfl
@[simp] theorem State.launches_updCore (s : State) (k : Nat) (f : Core → Core) : (s.updCore k f).launches = s.launches := rfl
@[simp] theorem State.regs_updCore (s : State) (k : Nat) (f : Core → Core) : (s.updCore k f).regs = s.regs := rfl
@[simp] theorem State.host_updCore (s : State) (k : Nat) (f : Core → Core) : (s.updCore k f).host = s.host := rfl
@[simp] theorem State.deviceId_updCore (s : State) (k : Nat) (f : Core → Core) : (s.updCore k f).deviceId = s.deviceId := rfl
@[simp] theorem State.level_updCore (s : State) (k : Nat) (f : Core → Core) : (s.updCore k f).level = s.level := rfl
@[simp] theorem State.firmware_updCore (s : State) (k : Nat) (f : Core → Core) : (s.updCore k f).firmware = s.firmware := rfl
@[simp] theorem State.bootFailed_updCore (s : State) (k : Nat) (f : Core → Core) : (s.updCore k f).bootFailed = s.bootFailed := rfl
@[simp] theorem State.mhz_updCore (s : State) (k : Nat) (f : Core → Core) : (s.updCore k f).mhz = s.mhz := rfl
@[simp] theorem State.scribe_updCore (s : State) (k : Nat) (f : Core → Core) : (s.updCore k f).scribe = s.scribe := rfl
@[simp] theorem State.spdm_updCore (s : State) (k : Nat) (f : Core → Core) : (s.updCore k f).spdm = s.spdm := rfl
@[simp] theorem State.nv_updCore (s : State) (k : Nat) (f : Core → Core) : (s.updCore k f).nv = s.nv := rfl
@[simp] theorem State.free_updCore (s : State) (k : Nat) (f : Core → Core) : (s.updCore k f).free = s.free := rfl

/-! ## `updMe` -/

@[simp] theorem State.cur_updMe (s : State) (f : Core → Core) : (s.updMe f).cur = s.cur := rfl
@[simp] theorem State.agenda_updMe (s : State) (f : Core → Core) : (s.updMe f).agenda = s.agenda := rfl
@[simp] theorem State.clk_updMe (s : State) (f : Core → Core) : (s.updMe f).clk = s.clk := rfl
@[simp] theorem State.nextId_updMe (s : State) (f : Core → Core) : (s.updMe f).nextId = s.nextId := rfl
@[simp] theorem State.accs_updMe (s : State) (f : Core → Core) : (s.updMe f).accs = s.accs := rfl
@[simp] theorem State.clAccs_updMe (s : State) (f : Core → Core) : (s.updMe f).clAccs = s.clAccs := rfl
@[simp] theorem State.cmds_updMe (s : State) (f : Core → Core) : (s.updMe f).cmds = s.cmds := rfl
@[simp] theorem State.mem_updMe (s : State) (f : Core → Core) : (s.updMe f).mem = s.mem := rfl
@[simp] theorem State.poison_updMe (s : State) (f : Core → Core) : (s.updMe f).poison = s.poison := rfl
@[simp] theorem State.errs_updMe (s : State) (f : Core → Core) : (s.updMe f).errs = s.errs := rfl
@[simp] theorem State.kilnBad_updMe (s : State) (f : Core → Core) : (s.updMe f).kilnBad = s.kilnBad := rfl
@[simp] theorem State.released_updMe (s : State) (f : Core → Core) : (s.updMe f).released = s.released := rfl
@[simp] theorem State.arrivals_updMe (s : State) (f : Core → Core) : (s.updMe f).arrivals = s.arrivals := rfl
@[simp] theorem State.merges_updMe (s : State) (f : Core → Core) : (s.updMe f).merges = s.merges := rfl
@[simp] theorem State.counts_updMe (s : State) (f : Core → Core) : (s.updMe f).counts = s.counts := rfl
@[simp] theorem State.window_updMe (s : State) (f : Core → Core) : (s.updMe f).window = s.window := rfl
@[simp] theorem State.ceCounts_updMe (s : State) (f : Core → Core) : (s.updMe f).ceCounts = s.ceCounts := rfl
@[simp] theorem State.ceWindows_updMe (s : State) (f : Core → Core) : (s.updMe f).ceWindows = s.ceWindows := rfl
@[simp] theorem State.clusters_updMe (s : State) (f : Core → Core) : (s.updMe f).clusters = s.clusters := rfl
@[simp] theorem State.ats_updMe (s : State) (f : Core → Core) : (s.updMe f).ats = s.ats := rfl
@[simp] theorem State.requests_updMe (s : State) (f : Core → Core) : (s.updMe f).requests = s.requests := rfl
@[simp] theorem State.denied_updMe (s : State) (f : Core → Core) : (s.updMe f).denied = s.denied := rfl
@[simp] theorem State.hostRmw_updMe (s : State) (f : Core → Core) : (s.updMe f).hostRmw = s.hostRmw := rfl
@[simp] theorem State.migration_updMe (s : State) (f : Core → Core) : (s.updMe f).migration = s.migration := rfl
@[simp] theorem State.node_updMe (s : State) (f : Core → Core) : (s.updMe f).node = s.node := rfl
@[simp] theorem State.circuits_updMe (s : State) (f : Core → Core) : (s.updMe f).circuits = s.circuits := rfl
@[simp] theorem State.tileIo_updMe (s : State) (f : Core → Core) : (s.updMe f).tileIo = s.tileIo := rfl
@[simp] theorem State.routers_updMe (s : State) (f : Core → Core) : (s.updMe f).routers = s.routers := rfl
@[simp] theorem State.links_updMe (s : State) (f : Core → Core) : (s.updMe f).links = s.links := rfl
@[simp] theorem State.store_updMe (s : State) (f : Core → Core) : (s.updMe f).store = s.store := rfl
@[simp] theorem State.inPkts_updMe (s : State) (f : Core → Core) : (s.updMe f).inPkts = s.inPkts := rfl
@[simp] theorem State.pktIn_updMe (s : State) (f : Core → Core) : (s.updMe f).pktIn = s.pktIn := rfl
@[simp] theorem State.abortIn_updMe (s : State) (f : Core → Core) : (s.updMe f).abortIn = s.abortIn := rfl
@[simp] theorem State.opsSent_updMe (s : State) (f : Core → Core) : (s.updMe f).opsSent = s.opsSent := rfl
@[simp] theorem State.aggBufs_updMe (s : State) (f : Core → Core) : (s.updMe f).aggBufs = s.aggBufs := rfl
@[simp] theorem State.aggSent_updMe (s : State) (f : Core → Core) : (s.updMe f).aggSent = s.aggSent := rfl
@[simp] theorem State.aggSeq_updMe (s : State) (f : Core → Core) : (s.updMe f).aggSeq = s.aggSeq := rfl
@[simp] theorem State.replies_updMe (s : State) (f : Core → Core) : (s.updMe f).replies = s.replies := rfl
@[simp] theorem State.streams427_updMe (s : State) (f : Core → Core) : (s.updMe f).streams427 = s.streams427 := rfl
@[simp] theorem State.coll_updMe (s : State) (f : Core → Core) : (s.updMe f).coll = s.coll := rfl
@[simp] theorem State.lastImage_updMe (s : State) (f : Core → Core) : (s.updMe f).lastImage = s.lastImage := rfl
@[simp] theorem State.slots_updMe (s : State) (f : Core → Core) : (s.updMe f).slots = s.slots := rfl
@[simp] theorem State.graph_updMe (s : State) (f : Core → Core) : (s.updMe f).graph = s.graph := rfl
@[simp] theorem State.graphImage_updMe (s : State) (f : Core → Core) : (s.updMe f).graphImage = s.graphImage := rfl
@[simp] theorem State.cmdBusy_updMe (s : State) (f : Core → Core) : (s.updMe f).cmdBusy = s.cmdBusy := rfl
@[simp] theorem State.savedImages_updMe (s : State) (f : Core → Core) : (s.updMe f).savedImages = s.savedImages := rfl
@[simp] theorem State.launches_updMe (s : State) (f : Core → Core) : (s.updMe f).launches = s.launches := rfl
@[simp] theorem State.regs_updMe (s : State) (f : Core → Core) : (s.updMe f).regs = s.regs := rfl
@[simp] theorem State.host_updMe (s : State) (f : Core → Core) : (s.updMe f).host = s.host := rfl
@[simp] theorem State.deviceId_updMe (s : State) (f : Core → Core) : (s.updMe f).deviceId = s.deviceId := rfl
@[simp] theorem State.level_updMe (s : State) (f : Core → Core) : (s.updMe f).level = s.level := rfl
@[simp] theorem State.firmware_updMe (s : State) (f : Core → Core) : (s.updMe f).firmware = s.firmware := rfl
@[simp] theorem State.bootFailed_updMe (s : State) (f : Core → Core) : (s.updMe f).bootFailed = s.bootFailed := rfl
@[simp] theorem State.mhz_updMe (s : State) (f : Core → Core) : (s.updMe f).mhz = s.mhz := rfl
@[simp] theorem State.scribe_updMe (s : State) (f : Core → Core) : (s.updMe f).scribe = s.scribe := rfl
@[simp] theorem State.spdm_updMe (s : State) (f : Core → Core) : (s.updMe f).spdm = s.spdm := rfl
@[simp] theorem State.nv_updMe (s : State) (f : Core → Core) : (s.updMe f).nv = s.nv := rfl
@[simp] theorem State.free_updMe (s : State) (f : Core → Core) : (s.updMe f).free = s.free := rfl

/-! ## `setSlot` -/

@[simp] theorem State.cores_setSlot (s : State) (n : Nat) (g : GraphSlot) : (s.setSlot n g).cores = s.cores := rfl
@[simp] theorem State.cur_setSlot (s : State) (n : Nat) (g : GraphSlot) : (s.setSlot n g).cur = s.cur := rfl
@[simp] theorem State.agenda_setSlot (s : State) (n : Nat) (g : GraphSlot) : (s.setSlot n g).agenda = s.agenda := rfl
@[simp] theorem State.clk_setSlot (s : State) (n : Nat) (g : GraphSlot) : (s.setSlot n g).clk = s.clk := rfl
@[simp] theorem State.nextId_setSlot (s : State) (n : Nat) (g : GraphSlot) : (s.setSlot n g).nextId = s.nextId := rfl
@[simp] theorem State.accs_setSlot (s : State) (n : Nat) (g : GraphSlot) : (s.setSlot n g).accs = s.accs := rfl
@[simp] theorem State.clAccs_setSlot (s : State) (n : Nat) (g : GraphSlot) : (s.setSlot n g).clAccs = s.clAccs := rfl
@[simp] theorem State.cmds_setSlot (s : State) (n : Nat) (g : GraphSlot) : (s.setSlot n g).cmds = s.cmds := rfl
@[simp] theorem State.mem_setSlot (s : State) (n : Nat) (g : GraphSlot) : (s.setSlot n g).mem = s.mem := rfl
@[simp] theorem State.poison_setSlot (s : State) (n : Nat) (g : GraphSlot) : (s.setSlot n g).poison = s.poison := rfl
@[simp] theorem State.errs_setSlot (s : State) (n : Nat) (g : GraphSlot) : (s.setSlot n g).errs = s.errs := rfl
@[simp] theorem State.kilnBad_setSlot (s : State) (n : Nat) (g : GraphSlot) : (s.setSlot n g).kilnBad = s.kilnBad := rfl
@[simp] theorem State.released_setSlot (s : State) (n : Nat) (g : GraphSlot) : (s.setSlot n g).released = s.released := rfl
@[simp] theorem State.arrivals_setSlot (s : State) (n : Nat) (g : GraphSlot) : (s.setSlot n g).arrivals = s.arrivals := rfl
@[simp] theorem State.merges_setSlot (s : State) (n : Nat) (g : GraphSlot) : (s.setSlot n g).merges = s.merges := rfl
@[simp] theorem State.counts_setSlot (s : State) (n : Nat) (g : GraphSlot) : (s.setSlot n g).counts = s.counts := rfl
@[simp] theorem State.window_setSlot (s : State) (n : Nat) (g : GraphSlot) : (s.setSlot n g).window = s.window := rfl
@[simp] theorem State.ceCounts_setSlot (s : State) (n : Nat) (g : GraphSlot) : (s.setSlot n g).ceCounts = s.ceCounts := rfl
@[simp] theorem State.ceWindows_setSlot (s : State) (n : Nat) (g : GraphSlot) : (s.setSlot n g).ceWindows = s.ceWindows := rfl
@[simp] theorem State.clusters_setSlot (s : State) (n : Nat) (g : GraphSlot) : (s.setSlot n g).clusters = s.clusters := rfl
@[simp] theorem State.ats_setSlot (s : State) (n : Nat) (g : GraphSlot) : (s.setSlot n g).ats = s.ats := rfl
@[simp] theorem State.requests_setSlot (s : State) (n : Nat) (g : GraphSlot) : (s.setSlot n g).requests = s.requests := rfl
@[simp] theorem State.denied_setSlot (s : State) (n : Nat) (g : GraphSlot) : (s.setSlot n g).denied = s.denied := rfl
@[simp] theorem State.hostRmw_setSlot (s : State) (n : Nat) (g : GraphSlot) : (s.setSlot n g).hostRmw = s.hostRmw := rfl
@[simp] theorem State.migration_setSlot (s : State) (n : Nat) (g : GraphSlot) : (s.setSlot n g).migration = s.migration := rfl
@[simp] theorem State.node_setSlot (s : State) (n : Nat) (g : GraphSlot) : (s.setSlot n g).node = s.node := rfl
@[simp] theorem State.circuits_setSlot (s : State) (n : Nat) (g : GraphSlot) : (s.setSlot n g).circuits = s.circuits := rfl
@[simp] theorem State.tileIo_setSlot (s : State) (n : Nat) (g : GraphSlot) : (s.setSlot n g).tileIo = s.tileIo := rfl
@[simp] theorem State.routers_setSlot (s : State) (n : Nat) (g : GraphSlot) : (s.setSlot n g).routers = s.routers := rfl
@[simp] theorem State.links_setSlot (s : State) (n : Nat) (g : GraphSlot) : (s.setSlot n g).links = s.links := rfl
@[simp] theorem State.store_setSlot (s : State) (n : Nat) (g : GraphSlot) : (s.setSlot n g).store = s.store := rfl
@[simp] theorem State.inPkts_setSlot (s : State) (n : Nat) (g : GraphSlot) : (s.setSlot n g).inPkts = s.inPkts := rfl
@[simp] theorem State.pktIn_setSlot (s : State) (n : Nat) (g : GraphSlot) : (s.setSlot n g).pktIn = s.pktIn := rfl
@[simp] theorem State.abortIn_setSlot (s : State) (n : Nat) (g : GraphSlot) : (s.setSlot n g).abortIn = s.abortIn := rfl
@[simp] theorem State.opsSent_setSlot (s : State) (n : Nat) (g : GraphSlot) : (s.setSlot n g).opsSent = s.opsSent := rfl
@[simp] theorem State.aggBufs_setSlot (s : State) (n : Nat) (g : GraphSlot) : (s.setSlot n g).aggBufs = s.aggBufs := rfl
@[simp] theorem State.aggSent_setSlot (s : State) (n : Nat) (g : GraphSlot) : (s.setSlot n g).aggSent = s.aggSent := rfl
@[simp] theorem State.aggSeq_setSlot (s : State) (n : Nat) (g : GraphSlot) : (s.setSlot n g).aggSeq = s.aggSeq := rfl
@[simp] theorem State.replies_setSlot (s : State) (n : Nat) (g : GraphSlot) : (s.setSlot n g).replies = s.replies := rfl
@[simp] theorem State.streams427_setSlot (s : State) (n : Nat) (g : GraphSlot) : (s.setSlot n g).streams427 = s.streams427 := rfl
@[simp] theorem State.coll_setSlot (s : State) (n : Nat) (g : GraphSlot) : (s.setSlot n g).coll = s.coll := rfl
@[simp] theorem State.lastImage_setSlot (s : State) (n : Nat) (g : GraphSlot) : (s.setSlot n g).lastImage = s.lastImage := rfl
@[simp] theorem State.graph_setSlot (s : State) (n : Nat) (g : GraphSlot) : (s.setSlot n g).graph = s.graph := rfl
@[simp] theorem State.graphImage_setSlot (s : State) (n : Nat) (g : GraphSlot) : (s.setSlot n g).graphImage = s.graphImage := rfl
@[simp] theorem State.cmdBusy_setSlot (s : State) (n : Nat) (g : GraphSlot) : (s.setSlot n g).cmdBusy = s.cmdBusy := rfl
@[simp] theorem State.savedImages_setSlot (s : State) (n : Nat) (g : GraphSlot) : (s.setSlot n g).savedImages = s.savedImages := rfl
@[simp] theorem State.launches_setSlot (s : State) (n : Nat) (g : GraphSlot) : (s.setSlot n g).launches = s.launches := rfl
@[simp] theorem State.regs_setSlot (s : State) (n : Nat) (g : GraphSlot) : (s.setSlot n g).regs = s.regs := rfl
@[simp] theorem State.host_setSlot (s : State) (n : Nat) (g : GraphSlot) : (s.setSlot n g).host = s.host := rfl
@[simp] theorem State.deviceId_setSlot (s : State) (n : Nat) (g : GraphSlot) : (s.setSlot n g).deviceId = s.deviceId := rfl
@[simp] theorem State.level_setSlot (s : State) (n : Nat) (g : GraphSlot) : (s.setSlot n g).level = s.level := rfl
@[simp] theorem State.firmware_setSlot (s : State) (n : Nat) (g : GraphSlot) : (s.setSlot n g).firmware = s.firmware := rfl
@[simp] theorem State.bootFailed_setSlot (s : State) (n : Nat) (g : GraphSlot) : (s.setSlot n g).bootFailed = s.bootFailed := rfl
@[simp] theorem State.mhz_setSlot (s : State) (n : Nat) (g : GraphSlot) : (s.setSlot n g).mhz = s.mhz := rfl
@[simp] theorem State.scribe_setSlot (s : State) (n : Nat) (g : GraphSlot) : (s.setSlot n g).scribe = s.scribe := rfl
@[simp] theorem State.spdm_setSlot (s : State) (n : Nat) (g : GraphSlot) : (s.setSlot n g).spdm = s.spdm := rfl
@[simp] theorem State.nv_setSlot (s : State) (n : Nat) (g : GraphSlot) : (s.setSlot n g).nv = s.nv := rfl
@[simp] theorem State.free_setSlot (s : State) (n : Nat) (g : GraphSlot) : (s.setSlot n g).free = s.free := rfl

/-! ## `updSlot` -/

@[simp] theorem State.cores_updSlot (s : State) (n : Nat) (f : GraphSlot → GraphSlot) : (s.updSlot n f).cores = s.cores := rfl
@[simp] theorem State.cur_updSlot (s : State) (n : Nat) (f : GraphSlot → GraphSlot) : (s.updSlot n f).cur = s.cur := rfl
@[simp] theorem State.agenda_updSlot (s : State) (n : Nat) (f : GraphSlot → GraphSlot) : (s.updSlot n f).agenda = s.agenda := rfl
@[simp] theorem State.clk_updSlot (s : State) (n : Nat) (f : GraphSlot → GraphSlot) : (s.updSlot n f).clk = s.clk := rfl
@[simp] theorem State.nextId_updSlot (s : State) (n : Nat) (f : GraphSlot → GraphSlot) : (s.updSlot n f).nextId = s.nextId := rfl
@[simp] theorem State.accs_updSlot (s : State) (n : Nat) (f : GraphSlot → GraphSlot) : (s.updSlot n f).accs = s.accs := rfl
@[simp] theorem State.clAccs_updSlot (s : State) (n : Nat) (f : GraphSlot → GraphSlot) : (s.updSlot n f).clAccs = s.clAccs := rfl
@[simp] theorem State.cmds_updSlot (s : State) (n : Nat) (f : GraphSlot → GraphSlot) : (s.updSlot n f).cmds = s.cmds := rfl
@[simp] theorem State.mem_updSlot (s : State) (n : Nat) (f : GraphSlot → GraphSlot) : (s.updSlot n f).mem = s.mem := rfl
@[simp] theorem State.poison_updSlot (s : State) (n : Nat) (f : GraphSlot → GraphSlot) : (s.updSlot n f).poison = s.poison := rfl
@[simp] theorem State.errs_updSlot (s : State) (n : Nat) (f : GraphSlot → GraphSlot) : (s.updSlot n f).errs = s.errs := rfl
@[simp] theorem State.kilnBad_updSlot (s : State) (n : Nat) (f : GraphSlot → GraphSlot) : (s.updSlot n f).kilnBad = s.kilnBad := rfl
@[simp] theorem State.released_updSlot (s : State) (n : Nat) (f : GraphSlot → GraphSlot) : (s.updSlot n f).released = s.released := rfl
@[simp] theorem State.arrivals_updSlot (s : State) (n : Nat) (f : GraphSlot → GraphSlot) : (s.updSlot n f).arrivals = s.arrivals := rfl
@[simp] theorem State.merges_updSlot (s : State) (n : Nat) (f : GraphSlot → GraphSlot) : (s.updSlot n f).merges = s.merges := rfl
@[simp] theorem State.counts_updSlot (s : State) (n : Nat) (f : GraphSlot → GraphSlot) : (s.updSlot n f).counts = s.counts := rfl
@[simp] theorem State.window_updSlot (s : State) (n : Nat) (f : GraphSlot → GraphSlot) : (s.updSlot n f).window = s.window := rfl
@[simp] theorem State.ceCounts_updSlot (s : State) (n : Nat) (f : GraphSlot → GraphSlot) : (s.updSlot n f).ceCounts = s.ceCounts := rfl
@[simp] theorem State.ceWindows_updSlot (s : State) (n : Nat) (f : GraphSlot → GraphSlot) : (s.updSlot n f).ceWindows = s.ceWindows := rfl
@[simp] theorem State.clusters_updSlot (s : State) (n : Nat) (f : GraphSlot → GraphSlot) : (s.updSlot n f).clusters = s.clusters := rfl
@[simp] theorem State.ats_updSlot (s : State) (n : Nat) (f : GraphSlot → GraphSlot) : (s.updSlot n f).ats = s.ats := rfl
@[simp] theorem State.requests_updSlot (s : State) (n : Nat) (f : GraphSlot → GraphSlot) : (s.updSlot n f).requests = s.requests := rfl
@[simp] theorem State.denied_updSlot (s : State) (n : Nat) (f : GraphSlot → GraphSlot) : (s.updSlot n f).denied = s.denied := rfl
@[simp] theorem State.hostRmw_updSlot (s : State) (n : Nat) (f : GraphSlot → GraphSlot) : (s.updSlot n f).hostRmw = s.hostRmw := rfl
@[simp] theorem State.migration_updSlot (s : State) (n : Nat) (f : GraphSlot → GraphSlot) : (s.updSlot n f).migration = s.migration := rfl
@[simp] theorem State.node_updSlot (s : State) (n : Nat) (f : GraphSlot → GraphSlot) : (s.updSlot n f).node = s.node := rfl
@[simp] theorem State.circuits_updSlot (s : State) (n : Nat) (f : GraphSlot → GraphSlot) : (s.updSlot n f).circuits = s.circuits := rfl
@[simp] theorem State.tileIo_updSlot (s : State) (n : Nat) (f : GraphSlot → GraphSlot) : (s.updSlot n f).tileIo = s.tileIo := rfl
@[simp] theorem State.routers_updSlot (s : State) (n : Nat) (f : GraphSlot → GraphSlot) : (s.updSlot n f).routers = s.routers := rfl
@[simp] theorem State.links_updSlot (s : State) (n : Nat) (f : GraphSlot → GraphSlot) : (s.updSlot n f).links = s.links := rfl
@[simp] theorem State.store_updSlot (s : State) (n : Nat) (f : GraphSlot → GraphSlot) : (s.updSlot n f).store = s.store := rfl
@[simp] theorem State.inPkts_updSlot (s : State) (n : Nat) (f : GraphSlot → GraphSlot) : (s.updSlot n f).inPkts = s.inPkts := rfl
@[simp] theorem State.pktIn_updSlot (s : State) (n : Nat) (f : GraphSlot → GraphSlot) : (s.updSlot n f).pktIn = s.pktIn := rfl
@[simp] theorem State.abortIn_updSlot (s : State) (n : Nat) (f : GraphSlot → GraphSlot) : (s.updSlot n f).abortIn = s.abortIn := rfl
@[simp] theorem State.opsSent_updSlot (s : State) (n : Nat) (f : GraphSlot → GraphSlot) : (s.updSlot n f).opsSent = s.opsSent := rfl
@[simp] theorem State.aggBufs_updSlot (s : State) (n : Nat) (f : GraphSlot → GraphSlot) : (s.updSlot n f).aggBufs = s.aggBufs := rfl
@[simp] theorem State.aggSent_updSlot (s : State) (n : Nat) (f : GraphSlot → GraphSlot) : (s.updSlot n f).aggSent = s.aggSent := rfl
@[simp] theorem State.aggSeq_updSlot (s : State) (n : Nat) (f : GraphSlot → GraphSlot) : (s.updSlot n f).aggSeq = s.aggSeq := rfl
@[simp] theorem State.replies_updSlot (s : State) (n : Nat) (f : GraphSlot → GraphSlot) : (s.updSlot n f).replies = s.replies := rfl
@[simp] theorem State.streams427_updSlot (s : State) (n : Nat) (f : GraphSlot → GraphSlot) : (s.updSlot n f).streams427 = s.streams427 := rfl
@[simp] theorem State.coll_updSlot (s : State) (n : Nat) (f : GraphSlot → GraphSlot) : (s.updSlot n f).coll = s.coll := rfl
@[simp] theorem State.lastImage_updSlot (s : State) (n : Nat) (f : GraphSlot → GraphSlot) : (s.updSlot n f).lastImage = s.lastImage := rfl
@[simp] theorem State.graph_updSlot (s : State) (n : Nat) (f : GraphSlot → GraphSlot) : (s.updSlot n f).graph = s.graph := rfl
@[simp] theorem State.graphImage_updSlot (s : State) (n : Nat) (f : GraphSlot → GraphSlot) : (s.updSlot n f).graphImage = s.graphImage := rfl
@[simp] theorem State.cmdBusy_updSlot (s : State) (n : Nat) (f : GraphSlot → GraphSlot) : (s.updSlot n f).cmdBusy = s.cmdBusy := rfl
@[simp] theorem State.savedImages_updSlot (s : State) (n : Nat) (f : GraphSlot → GraphSlot) : (s.updSlot n f).savedImages = s.savedImages := rfl
@[simp] theorem State.launches_updSlot (s : State) (n : Nat) (f : GraphSlot → GraphSlot) : (s.updSlot n f).launches = s.launches := rfl
@[simp] theorem State.regs_updSlot (s : State) (n : Nat) (f : GraphSlot → GraphSlot) : (s.updSlot n f).regs = s.regs := rfl
@[simp] theorem State.host_updSlot (s : State) (n : Nat) (f : GraphSlot → GraphSlot) : (s.updSlot n f).host = s.host := rfl
@[simp] theorem State.deviceId_updSlot (s : State) (n : Nat) (f : GraphSlot → GraphSlot) : (s.updSlot n f).deviceId = s.deviceId := rfl
@[simp] theorem State.level_updSlot (s : State) (n : Nat) (f : GraphSlot → GraphSlot) : (s.updSlot n f).level = s.level := rfl
@[simp] theorem State.firmware_updSlot (s : State) (n : Nat) (f : GraphSlot → GraphSlot) : (s.updSlot n f).firmware = s.firmware := rfl
@[simp] theorem State.bootFailed_updSlot (s : State) (n : Nat) (f : GraphSlot → GraphSlot) : (s.updSlot n f).bootFailed = s.bootFailed := rfl
@[simp] theorem State.mhz_updSlot (s : State) (n : Nat) (f : GraphSlot → GraphSlot) : (s.updSlot n f).mhz = s.mhz := rfl
@[simp] theorem State.scribe_updSlot (s : State) (n : Nat) (f : GraphSlot → GraphSlot) : (s.updSlot n f).scribe = s.scribe := rfl
@[simp] theorem State.spdm_updSlot (s : State) (n : Nat) (f : GraphSlot → GraphSlot) : (s.updSlot n f).spdm = s.spdm := rfl
@[simp] theorem State.nv_updSlot (s : State) (n : Nat) (f : GraphSlot → GraphSlot) : (s.updSlot n f).nv = s.nv := rfl
@[simp] theorem State.free_updSlot (s : State) (n : Nat) (f : GraphSlot → GraphSlot) : (s.updSlot n f).free = s.free := rfl

/-! ## `post` -/

@[simp] theorem State.cores_post (s : State) (e : HostEvent) : (s.post e).cores = s.cores := rfl
@[simp] theorem State.cur_post (s : State) (e : HostEvent) : (s.post e).cur = s.cur := rfl
@[simp] theorem State.agenda_post (s : State) (e : HostEvent) : (s.post e).agenda = s.agenda := rfl
@[simp] theorem State.clk_post (s : State) (e : HostEvent) : (s.post e).clk = s.clk := rfl
@[simp] theorem State.nextId_post (s : State) (e : HostEvent) : (s.post e).nextId = s.nextId := rfl
@[simp] theorem State.accs_post (s : State) (e : HostEvent) : (s.post e).accs = s.accs := rfl
@[simp] theorem State.clAccs_post (s : State) (e : HostEvent) : (s.post e).clAccs = s.clAccs := rfl
@[simp] theorem State.cmds_post (s : State) (e : HostEvent) : (s.post e).cmds = s.cmds := rfl
@[simp] theorem State.mem_post (s : State) (e : HostEvent) : (s.post e).mem = s.mem := rfl
@[simp] theorem State.poison_post (s : State) (e : HostEvent) : (s.post e).poison = s.poison := rfl
@[simp] theorem State.errs_post (s : State) (e : HostEvent) : (s.post e).errs = s.errs := rfl
@[simp] theorem State.kilnBad_post (s : State) (e : HostEvent) : (s.post e).kilnBad = s.kilnBad := rfl
@[simp] theorem State.released_post (s : State) (e : HostEvent) : (s.post e).released = s.released := rfl
@[simp] theorem State.arrivals_post (s : State) (e : HostEvent) : (s.post e).arrivals = s.arrivals := rfl
@[simp] theorem State.merges_post (s : State) (e : HostEvent) : (s.post e).merges = s.merges := rfl
@[simp] theorem State.counts_post (s : State) (e : HostEvent) : (s.post e).counts = s.counts := rfl
@[simp] theorem State.window_post (s : State) (e : HostEvent) : (s.post e).window = s.window := rfl
@[simp] theorem State.ceCounts_post (s : State) (e : HostEvent) : (s.post e).ceCounts = s.ceCounts := rfl
@[simp] theorem State.ceWindows_post (s : State) (e : HostEvent) : (s.post e).ceWindows = s.ceWindows := rfl
@[simp] theorem State.clusters_post (s : State) (e : HostEvent) : (s.post e).clusters = s.clusters := rfl
@[simp] theorem State.ats_post (s : State) (e : HostEvent) : (s.post e).ats = s.ats := rfl
@[simp] theorem State.requests_post (s : State) (e : HostEvent) : (s.post e).requests = s.requests := rfl
@[simp] theorem State.denied_post (s : State) (e : HostEvent) : (s.post e).denied = s.denied := rfl
@[simp] theorem State.hostRmw_post (s : State) (e : HostEvent) : (s.post e).hostRmw = s.hostRmw := rfl
@[simp] theorem State.migration_post (s : State) (e : HostEvent) : (s.post e).migration = s.migration := rfl
@[simp] theorem State.node_post (s : State) (e : HostEvent) : (s.post e).node = s.node := rfl
@[simp] theorem State.circuits_post (s : State) (e : HostEvent) : (s.post e).circuits = s.circuits := rfl
@[simp] theorem State.tileIo_post (s : State) (e : HostEvent) : (s.post e).tileIo = s.tileIo := rfl
@[simp] theorem State.routers_post (s : State) (e : HostEvent) : (s.post e).routers = s.routers := rfl
@[simp] theorem State.links_post (s : State) (e : HostEvent) : (s.post e).links = s.links := rfl
@[simp] theorem State.store_post (s : State) (e : HostEvent) : (s.post e).store = s.store := rfl
@[simp] theorem State.inPkts_post (s : State) (e : HostEvent) : (s.post e).inPkts = s.inPkts := rfl
@[simp] theorem State.pktIn_post (s : State) (e : HostEvent) : (s.post e).pktIn = s.pktIn := rfl
@[simp] theorem State.abortIn_post (s : State) (e : HostEvent) : (s.post e).abortIn = s.abortIn := rfl
@[simp] theorem State.opsSent_post (s : State) (e : HostEvent) : (s.post e).opsSent = s.opsSent := rfl
@[simp] theorem State.aggBufs_post (s : State) (e : HostEvent) : (s.post e).aggBufs = s.aggBufs := rfl
@[simp] theorem State.aggSent_post (s : State) (e : HostEvent) : (s.post e).aggSent = s.aggSent := rfl
@[simp] theorem State.aggSeq_post (s : State) (e : HostEvent) : (s.post e).aggSeq = s.aggSeq := rfl
@[simp] theorem State.replies_post (s : State) (e : HostEvent) : (s.post e).replies = s.replies := rfl
@[simp] theorem State.streams427_post (s : State) (e : HostEvent) : (s.post e).streams427 = s.streams427 := rfl
@[simp] theorem State.coll_post (s : State) (e : HostEvent) : (s.post e).coll = s.coll := rfl
@[simp] theorem State.lastImage_post (s : State) (e : HostEvent) : (s.post e).lastImage = s.lastImage := rfl
@[simp] theorem State.slots_post (s : State) (e : HostEvent) : (s.post e).slots = s.slots := rfl
@[simp] theorem State.graph_post (s : State) (e : HostEvent) : (s.post e).graph = s.graph := rfl
@[simp] theorem State.graphImage_post (s : State) (e : HostEvent) : (s.post e).graphImage = s.graphImage := rfl
@[simp] theorem State.cmdBusy_post (s : State) (e : HostEvent) : (s.post e).cmdBusy = s.cmdBusy := rfl
@[simp] theorem State.savedImages_post (s : State) (e : HostEvent) : (s.post e).savedImages = s.savedImages := rfl
@[simp] theorem State.launches_post (s : State) (e : HostEvent) : (s.post e).launches = s.launches := rfl
@[simp] theorem State.regs_post (s : State) (e : HostEvent) : (s.post e).regs = s.regs := rfl
@[simp] theorem State.deviceId_post (s : State) (e : HostEvent) : (s.post e).deviceId = s.deviceId := rfl
@[simp] theorem State.level_post (s : State) (e : HostEvent) : (s.post e).level = s.level := rfl
@[simp] theorem State.firmware_post (s : State) (e : HostEvent) : (s.post e).firmware = s.firmware := rfl
@[simp] theorem State.bootFailed_post (s : State) (e : HostEvent) : (s.post e).bootFailed = s.bootFailed := rfl
@[simp] theorem State.mhz_post (s : State) (e : HostEvent) : (s.post e).mhz = s.mhz := rfl
@[simp] theorem State.scribe_post (s : State) (e : HostEvent) : (s.post e).scribe = s.scribe := rfl
@[simp] theorem State.spdm_post (s : State) (e : HostEvent) : (s.post e).spdm = s.spdm := rfl
@[simp] theorem State.nv_post (s : State) (e : HostEvent) : (s.post e).nv = s.nv := rfl
@[simp] theorem State.free_post (s : State) (e : HostEvent) : (s.post e).free = s.free := rfl

/-! ## `scribeAt` -/

@[simp] theorem State.cores_scribeAt (s : State) (g cls code task : Nat) (lc info : Word) : (s.scribeAt g cls code task lc info).cores = s.cores := rfl
@[simp] theorem State.cur_scribeAt (s : State) (g cls code task : Nat) (lc info : Word) : (s.scribeAt g cls code task lc info).cur = s.cur := rfl
@[simp] theorem State.agenda_scribeAt (s : State) (g cls code task : Nat) (lc info : Word) : (s.scribeAt g cls code task lc info).agenda = s.agenda := rfl
@[simp] theorem State.clk_scribeAt (s : State) (g cls code task : Nat) (lc info : Word) : (s.scribeAt g cls code task lc info).clk = s.clk := rfl
@[simp] theorem State.nextId_scribeAt (s : State) (g cls code task : Nat) (lc info : Word) : (s.scribeAt g cls code task lc info).nextId = s.nextId := rfl
@[simp] theorem State.accs_scribeAt (s : State) (g cls code task : Nat) (lc info : Word) : (s.scribeAt g cls code task lc info).accs = s.accs := rfl
@[simp] theorem State.clAccs_scribeAt (s : State) (g cls code task : Nat) (lc info : Word) : (s.scribeAt g cls code task lc info).clAccs = s.clAccs := rfl
@[simp] theorem State.cmds_scribeAt (s : State) (g cls code task : Nat) (lc info : Word) : (s.scribeAt g cls code task lc info).cmds = s.cmds := rfl
@[simp] theorem State.mem_scribeAt (s : State) (g cls code task : Nat) (lc info : Word) : (s.scribeAt g cls code task lc info).mem = s.mem := rfl
@[simp] theorem State.poison_scribeAt (s : State) (g cls code task : Nat) (lc info : Word) : (s.scribeAt g cls code task lc info).poison = s.poison := rfl
@[simp] theorem State.errs_scribeAt (s : State) (g cls code task : Nat) (lc info : Word) : (s.scribeAt g cls code task lc info).errs = s.errs := rfl
@[simp] theorem State.kilnBad_scribeAt (s : State) (g cls code task : Nat) (lc info : Word) : (s.scribeAt g cls code task lc info).kilnBad = s.kilnBad := rfl
@[simp] theorem State.released_scribeAt (s : State) (g cls code task : Nat) (lc info : Word) : (s.scribeAt g cls code task lc info).released = s.released := rfl
@[simp] theorem State.arrivals_scribeAt (s : State) (g cls code task : Nat) (lc info : Word) : (s.scribeAt g cls code task lc info).arrivals = s.arrivals := rfl
@[simp] theorem State.merges_scribeAt (s : State) (g cls code task : Nat) (lc info : Word) : (s.scribeAt g cls code task lc info).merges = s.merges := rfl
@[simp] theorem State.counts_scribeAt (s : State) (g cls code task : Nat) (lc info : Word) : (s.scribeAt g cls code task lc info).counts = s.counts := rfl
@[simp] theorem State.window_scribeAt (s : State) (g cls code task : Nat) (lc info : Word) : (s.scribeAt g cls code task lc info).window = s.window := rfl
@[simp] theorem State.ceCounts_scribeAt (s : State) (g cls code task : Nat) (lc info : Word) : (s.scribeAt g cls code task lc info).ceCounts = s.ceCounts := rfl
@[simp] theorem State.ceWindows_scribeAt (s : State) (g cls code task : Nat) (lc info : Word) : (s.scribeAt g cls code task lc info).ceWindows = s.ceWindows := rfl
@[simp] theorem State.clusters_scribeAt (s : State) (g cls code task : Nat) (lc info : Word) : (s.scribeAt g cls code task lc info).clusters = s.clusters := rfl
@[simp] theorem State.ats_scribeAt (s : State) (g cls code task : Nat) (lc info : Word) : (s.scribeAt g cls code task lc info).ats = s.ats := rfl
@[simp] theorem State.requests_scribeAt (s : State) (g cls code task : Nat) (lc info : Word) : (s.scribeAt g cls code task lc info).requests = s.requests := rfl
@[simp] theorem State.denied_scribeAt (s : State) (g cls code task : Nat) (lc info : Word) : (s.scribeAt g cls code task lc info).denied = s.denied := rfl
@[simp] theorem State.hostRmw_scribeAt (s : State) (g cls code task : Nat) (lc info : Word) : (s.scribeAt g cls code task lc info).hostRmw = s.hostRmw := rfl
@[simp] theorem State.migration_scribeAt (s : State) (g cls code task : Nat) (lc info : Word) : (s.scribeAt g cls code task lc info).migration = s.migration := rfl
@[simp] theorem State.node_scribeAt (s : State) (g cls code task : Nat) (lc info : Word) : (s.scribeAt g cls code task lc info).node = s.node := rfl
@[simp] theorem State.circuits_scribeAt (s : State) (g cls code task : Nat) (lc info : Word) : (s.scribeAt g cls code task lc info).circuits = s.circuits := rfl
@[simp] theorem State.tileIo_scribeAt (s : State) (g cls code task : Nat) (lc info : Word) : (s.scribeAt g cls code task lc info).tileIo = s.tileIo := rfl
@[simp] theorem State.routers_scribeAt (s : State) (g cls code task : Nat) (lc info : Word) : (s.scribeAt g cls code task lc info).routers = s.routers := rfl
@[simp] theorem State.links_scribeAt (s : State) (g cls code task : Nat) (lc info : Word) : (s.scribeAt g cls code task lc info).links = s.links := rfl
@[simp] theorem State.store_scribeAt (s : State) (g cls code task : Nat) (lc info : Word) : (s.scribeAt g cls code task lc info).store = s.store := rfl
@[simp] theorem State.inPkts_scribeAt (s : State) (g cls code task : Nat) (lc info : Word) : (s.scribeAt g cls code task lc info).inPkts = s.inPkts := rfl
@[simp] theorem State.pktIn_scribeAt (s : State) (g cls code task : Nat) (lc info : Word) : (s.scribeAt g cls code task lc info).pktIn = s.pktIn := rfl
@[simp] theorem State.abortIn_scribeAt (s : State) (g cls code task : Nat) (lc info : Word) : (s.scribeAt g cls code task lc info).abortIn = s.abortIn := rfl
@[simp] theorem State.opsSent_scribeAt (s : State) (g cls code task : Nat) (lc info : Word) : (s.scribeAt g cls code task lc info).opsSent = s.opsSent := rfl
@[simp] theorem State.aggBufs_scribeAt (s : State) (g cls code task : Nat) (lc info : Word) : (s.scribeAt g cls code task lc info).aggBufs = s.aggBufs := rfl
@[simp] theorem State.aggSent_scribeAt (s : State) (g cls code task : Nat) (lc info : Word) : (s.scribeAt g cls code task lc info).aggSent = s.aggSent := rfl
@[simp] theorem State.aggSeq_scribeAt (s : State) (g cls code task : Nat) (lc info : Word) : (s.scribeAt g cls code task lc info).aggSeq = s.aggSeq := rfl
@[simp] theorem State.replies_scribeAt (s : State) (g cls code task : Nat) (lc info : Word) : (s.scribeAt g cls code task lc info).replies = s.replies := rfl
@[simp] theorem State.streams427_scribeAt (s : State) (g cls code task : Nat) (lc info : Word) : (s.scribeAt g cls code task lc info).streams427 = s.streams427 := rfl
@[simp] theorem State.coll_scribeAt (s : State) (g cls code task : Nat) (lc info : Word) : (s.scribeAt g cls code task lc info).coll = s.coll := rfl
@[simp] theorem State.lastImage_scribeAt (s : State) (g cls code task : Nat) (lc info : Word) : (s.scribeAt g cls code task lc info).lastImage = s.lastImage := rfl
@[simp] theorem State.slots_scribeAt (s : State) (g cls code task : Nat) (lc info : Word) : (s.scribeAt g cls code task lc info).slots = s.slots := rfl
@[simp] theorem State.graph_scribeAt (s : State) (g cls code task : Nat) (lc info : Word) : (s.scribeAt g cls code task lc info).graph = s.graph := rfl
@[simp] theorem State.graphImage_scribeAt (s : State) (g cls code task : Nat) (lc info : Word) : (s.scribeAt g cls code task lc info).graphImage = s.graphImage := rfl
@[simp] theorem State.cmdBusy_scribeAt (s : State) (g cls code task : Nat) (lc info : Word) : (s.scribeAt g cls code task lc info).cmdBusy = s.cmdBusy := rfl
@[simp] theorem State.savedImages_scribeAt (s : State) (g cls code task : Nat) (lc info : Word) : (s.scribeAt g cls code task lc info).savedImages = s.savedImages := rfl
@[simp] theorem State.launches_scribeAt (s : State) (g cls code task : Nat) (lc info : Word) : (s.scribeAt g cls code task lc info).launches = s.launches := rfl
@[simp] theorem State.regs_scribeAt (s : State) (g cls code task : Nat) (lc info : Word) : (s.scribeAt g cls code task lc info).regs = s.regs := rfl
@[simp] theorem State.host_scribeAt (s : State) (g cls code task : Nat) (lc info : Word) : (s.scribeAt g cls code task lc info).host = s.host := rfl
@[simp] theorem State.deviceId_scribeAt (s : State) (g cls code task : Nat) (lc info : Word) : (s.scribeAt g cls code task lc info).deviceId = s.deviceId := rfl
@[simp] theorem State.level_scribeAt (s : State) (g cls code task : Nat) (lc info : Word) : (s.scribeAt g cls code task lc info).level = s.level := rfl
@[simp] theorem State.firmware_scribeAt (s : State) (g cls code task : Nat) (lc info : Word) : (s.scribeAt g cls code task lc info).firmware = s.firmware := rfl
@[simp] theorem State.bootFailed_scribeAt (s : State) (g cls code task : Nat) (lc info : Word) : (s.scribeAt g cls code task lc info).bootFailed = s.bootFailed := rfl
@[simp] theorem State.mhz_scribeAt (s : State) (g cls code task : Nat) (lc info : Word) : (s.scribeAt g cls code task lc info).mhz = s.mhz := rfl
@[simp] theorem State.spdm_scribeAt (s : State) (g cls code task : Nat) (lc info : Word) : (s.scribeAt g cls code task lc info).spdm = s.spdm := rfl
@[simp] theorem State.nv_scribeAt (s : State) (g cls code task : Nat) (lc info : Word) : (s.scribeAt g cls code task lc info).nv = s.nv := rfl
@[simp] theorem State.free_scribeAt (s : State) (g cls code task : Nat) (lc info : Word) : (s.scribeAt g cls code task lc info).free = s.free := rfl

/-! ## `memWrite` -/

@[simp] theorem State.cores_memWrite (s : State) (k : Nat) (l : List Byte) : (s.memWrite k l).cores = s.cores := rfl
@[simp] theorem State.cur_memWrite (s : State) (k : Nat) (l : List Byte) : (s.memWrite k l).cur = s.cur := rfl
@[simp] theorem State.agenda_memWrite (s : State) (k : Nat) (l : List Byte) : (s.memWrite k l).agenda = s.agenda := rfl
@[simp] theorem State.clk_memWrite (s : State) (k : Nat) (l : List Byte) : (s.memWrite k l).clk = s.clk := rfl
@[simp] theorem State.nextId_memWrite (s : State) (k : Nat) (l : List Byte) : (s.memWrite k l).nextId = s.nextId := rfl
@[simp] theorem State.accs_memWrite (s : State) (k : Nat) (l : List Byte) : (s.memWrite k l).accs = s.accs := rfl
@[simp] theorem State.clAccs_memWrite (s : State) (k : Nat) (l : List Byte) : (s.memWrite k l).clAccs = s.clAccs := rfl
@[simp] theorem State.cmds_memWrite (s : State) (k : Nat) (l : List Byte) : (s.memWrite k l).cmds = s.cmds := rfl
@[simp] theorem State.kilnBad_memWrite (s : State) (k : Nat) (l : List Byte) : (s.memWrite k l).kilnBad = s.kilnBad := rfl
@[simp] theorem State.arrivals_memWrite (s : State) (k : Nat) (l : List Byte) : (s.memWrite k l).arrivals = s.arrivals := rfl
@[simp] theorem State.merges_memWrite (s : State) (k : Nat) (l : List Byte) : (s.memWrite k l).merges = s.merges := rfl
@[simp] theorem State.counts_memWrite (s : State) (k : Nat) (l : List Byte) : (s.memWrite k l).counts = s.counts := rfl
@[simp] theorem State.window_memWrite (s : State) (k : Nat) (l : List Byte) : (s.memWrite k l).window = s.window := rfl
@[simp] theorem State.ceCounts_memWrite (s : State) (k : Nat) (l : List Byte) : (s.memWrite k l).ceCounts = s.ceCounts := rfl
@[simp] theorem State.ceWindows_memWrite (s : State) (k : Nat) (l : List Byte) : (s.memWrite k l).ceWindows = s.ceWindows := rfl
@[simp] theorem State.clusters_memWrite (s : State) (k : Nat) (l : List Byte) : (s.memWrite k l).clusters = s.clusters := rfl
@[simp] theorem State.ats_memWrite (s : State) (k : Nat) (l : List Byte) : (s.memWrite k l).ats = s.ats := rfl
@[simp] theorem State.requests_memWrite (s : State) (k : Nat) (l : List Byte) : (s.memWrite k l).requests = s.requests := rfl
@[simp] theorem State.denied_memWrite (s : State) (k : Nat) (l : List Byte) : (s.memWrite k l).denied = s.denied := rfl
@[simp] theorem State.hostRmw_memWrite (s : State) (k : Nat) (l : List Byte) : (s.memWrite k l).hostRmw = s.hostRmw := rfl
@[simp] theorem State.migration_memWrite (s : State) (k : Nat) (l : List Byte) : (s.memWrite k l).migration = s.migration := rfl
@[simp] theorem State.node_memWrite (s : State) (k : Nat) (l : List Byte) : (s.memWrite k l).node = s.node := rfl
@[simp] theorem State.circuits_memWrite (s : State) (k : Nat) (l : List Byte) : (s.memWrite k l).circuits = s.circuits := rfl
@[simp] theorem State.tileIo_memWrite (s : State) (k : Nat) (l : List Byte) : (s.memWrite k l).tileIo = s.tileIo := rfl
@[simp] theorem State.routers_memWrite (s : State) (k : Nat) (l : List Byte) : (s.memWrite k l).routers = s.routers := rfl
@[simp] theorem State.links_memWrite (s : State) (k : Nat) (l : List Byte) : (s.memWrite k l).links = s.links := rfl
@[simp] theorem State.store_memWrite (s : State) (k : Nat) (l : List Byte) : (s.memWrite k l).store = s.store := rfl
@[simp] theorem State.inPkts_memWrite (s : State) (k : Nat) (l : List Byte) : (s.memWrite k l).inPkts = s.inPkts := rfl
@[simp] theorem State.pktIn_memWrite (s : State) (k : Nat) (l : List Byte) : (s.memWrite k l).pktIn = s.pktIn := rfl
@[simp] theorem State.abortIn_memWrite (s : State) (k : Nat) (l : List Byte) : (s.memWrite k l).abortIn = s.abortIn := rfl
@[simp] theorem State.opsSent_memWrite (s : State) (k : Nat) (l : List Byte) : (s.memWrite k l).opsSent = s.opsSent := rfl
@[simp] theorem State.aggBufs_memWrite (s : State) (k : Nat) (l : List Byte) : (s.memWrite k l).aggBufs = s.aggBufs := rfl
@[simp] theorem State.aggSent_memWrite (s : State) (k : Nat) (l : List Byte) : (s.memWrite k l).aggSent = s.aggSent := rfl
@[simp] theorem State.aggSeq_memWrite (s : State) (k : Nat) (l : List Byte) : (s.memWrite k l).aggSeq = s.aggSeq := rfl
@[simp] theorem State.replies_memWrite (s : State) (k : Nat) (l : List Byte) : (s.memWrite k l).replies = s.replies := rfl
@[simp] theorem State.streams427_memWrite (s : State) (k : Nat) (l : List Byte) : (s.memWrite k l).streams427 = s.streams427 := rfl
@[simp] theorem State.coll_memWrite (s : State) (k : Nat) (l : List Byte) : (s.memWrite k l).coll = s.coll := rfl
@[simp] theorem State.lastImage_memWrite (s : State) (k : Nat) (l : List Byte) : (s.memWrite k l).lastImage = s.lastImage := rfl
@[simp] theorem State.slots_memWrite (s : State) (k : Nat) (l : List Byte) : (s.memWrite k l).slots = s.slots := rfl
@[simp] theorem State.graph_memWrite (s : State) (k : Nat) (l : List Byte) : (s.memWrite k l).graph = s.graph := rfl
@[simp] theorem State.graphImage_memWrite (s : State) (k : Nat) (l : List Byte) : (s.memWrite k l).graphImage = s.graphImage := rfl
@[simp] theorem State.cmdBusy_memWrite (s : State) (k : Nat) (l : List Byte) : (s.memWrite k l).cmdBusy = s.cmdBusy := rfl
@[simp] theorem State.savedImages_memWrite (s : State) (k : Nat) (l : List Byte) : (s.memWrite k l).savedImages = s.savedImages := rfl
@[simp] theorem State.launches_memWrite (s : State) (k : Nat) (l : List Byte) : (s.memWrite k l).launches = s.launches := rfl
@[simp] theorem State.regs_memWrite (s : State) (k : Nat) (l : List Byte) : (s.memWrite k l).regs = s.regs := rfl
@[simp] theorem State.host_memWrite (s : State) (k : Nat) (l : List Byte) : (s.memWrite k l).host = s.host := rfl
@[simp] theorem State.deviceId_memWrite (s : State) (k : Nat) (l : List Byte) : (s.memWrite k l).deviceId = s.deviceId := rfl
@[simp] theorem State.level_memWrite (s : State) (k : Nat) (l : List Byte) : (s.memWrite k l).level = s.level := rfl
@[simp] theorem State.firmware_memWrite (s : State) (k : Nat) (l : List Byte) : (s.memWrite k l).firmware = s.firmware := rfl
@[simp] theorem State.bootFailed_memWrite (s : State) (k : Nat) (l : List Byte) : (s.memWrite k l).bootFailed = s.bootFailed := rfl
@[simp] theorem State.mhz_memWrite (s : State) (k : Nat) (l : List Byte) : (s.memWrite k l).mhz = s.mhz := rfl
@[simp] theorem State.scribe_memWrite (s : State) (k : Nat) (l : List Byte) : (s.memWrite k l).scribe = s.scribe := rfl
@[simp] theorem State.spdm_memWrite (s : State) (k : Nat) (l : List Byte) : (s.memWrite k l).spdm = s.spdm := rfl
@[simp] theorem State.nv_memWrite (s : State) (k : Nat) (l : List Byte) : (s.memWrite k l).nv = s.nv := rfl
@[simp] theorem State.free_memWrite (s : State) (k : Nat) (l : List Byte) : (s.memWrite k l).free = s.free := rfl

/-! ## `later` -/

@[simp] theorem Core.phase_later (c : Core) (lat slot : Nat) (what : Commit) : (c.later lat slot what).phase = c.phase := rfl
@[simp] theorem Core.pc_later (c : Core) (lat slot : Nat) (what : Commit) : (c.later lat slot what).pc = c.pc := rfl
@[simp] theorem Core.lc_later (c : Core) (lat slot : Nat) (what : Commit) : (c.later lat slot what).lc = c.lc := rfl
@[simp] theorem Core.s_later (c : Core) (lat slot : Nat) (what : Commit) : (c.later lat slot what).s = c.s := rfl
@[simp] theorem Core.p_later (c : Core) (lat slot : Nat) (what : Commit) : (c.later lat slot what).p = c.p := rfl
@[simp] theorem Core.v_later (c : Core) (lat slot : Nat) (what : Commit) : (c.later lat slot what).v = c.v := rfl
@[simp] theorem Core.m_later (c : Core) (lat slot : Nat) (what : Commit) : (c.later lat slot what).m = c.m := rfl
@[simp] theorem Core.t_later (c : Core) (lat slot : Nat) (what : Commit) : (c.later lat slot what).t = c.t := rfl
@[simp] theorem Core.tcfg_later (c : Core) (lat slot : Nat) (what : Commit) : (c.later lat slot what).tcfg = c.tcfg := rfl
@[simp] theorem Core.acc_later (c : Core) (lat slot : Nat) (what : Commit) : (c.later lat slot what).acc = c.acc := rfl
@[simp] theorem Core.q_later (c : Core) (lat slot : Nat) (what : Commit) : (c.later lat slot what).q = c.q := rfl
@[simp] theorem Core.chcnt_later (c : Core) (lat slot : Nat) (what : Commit) : (c.later lat slot what).chcnt = c.chcnt := rfl
@[simp] theorem Core.streams_later (c : Core) (lat slot : Nat) (what : Commit) : (c.later lat slot what).streams = c.streams := rfl
@[simp] theorem Core.loops_later (c : Core) (lat slot : Nat) (what : Commit) : (c.later lat slot what).loops = c.loops := rfl
@[simp] theorem Core.shadow_later (c : Core) (lat slot : Nat) (what : Commit) : (c.later lat slot what).shadow = c.shadow := rfl
@[simp] theorem Core.trapvec_later (c : Core) (lat slot : Nat) (what : Commit) : (c.later lat slot what).trapvec = c.trapvec := rfl
@[simp] theorem Core.trap_later (c : Core) (lat slot : Nat) (what : Commit) : (c.later lat slot what).trap = c.trap := rfl
@[simp] theorem Core.sbchk_later (c : Core) (lat slot : Nat) (what : Commit) : (c.later lat slot what).sbchk = c.sbchk := rfl
@[simp] theorem Core.inh_later (c : Core) (lat slot : Nat) (what : Commit) : (c.later lat slot what).inh = c.inh := rfl
@[simp] theorem Core.sticky_later (c : Core) (lat slot : Nat) (what : Commit) : (c.later lat slot what).sticky = c.sticky := rfl
@[simp] theorem Core.stickyNow_later (c : Core) (lat slot : Nat) (what : Commit) : (c.later lat slot what).stickyNow = c.stickyNow := rfl
@[simp] theorem Core.scratch_later (c : Core) (lat slot : Nat) (what : Commit) : (c.later lat slot what).scratch = c.scratch := rfl
@[simp] theorem Core.tiles_later (c : Core) (lat slot : Nat) (what : Commit) : (c.later lat slot what).tiles = c.tiles := rfl
@[simp] theorem Core.undo_later (c : Core) (lat slot : Nat) (what : Commit) : (c.later lat slot what).undo = c.undo := rfl
@[simp] theorem Core.looked_later (c : Core) (lat slot : Nat) (what : Commit) : (c.later lat slot what).looked = c.looked := rfl
@[simp] theorem Core.clSeen_later (c : Core) (lat slot : Nat) (what : Commit) : (c.later lat slot what).clSeen = c.clSeen := rfl
@[simp] theorem Core.upsets_later (c : Core) (lat slot : Nat) (what : Commit) : (c.later lat slot what).upsets = c.upsets := rfl
@[simp] theorem Core.reports_later (c : Core) (lat slot : Nat) (what : Commit) : (c.later lat slot what).reports = c.reports := rfl
@[simp] theorem Core.entering_later (c : Core) (lat slot : Nat) (what : Commit) : (c.later lat slot what).entering = c.entering := rfl
@[simp] theorem Core.first_later (c : Core) (lat slot : Nat) (what : Commit) : (c.later lat slot what).first = c.first := rfl
@[simp] theorem Core.past_later (c : Core) (lat slot : Nat) (what : Commit) : (c.later lat slot what).past = c.past := rfl
@[simp] theorem Core.pvis_later (c : Core) (lat slot : Nat) (what : Commit) : (c.later lat slot what).pvis = c.pvis := rfl
@[simp] theorem Core.half0_later (c : Core) (lat slot : Nat) (what : Commit) : (c.later lat slot what).half0 = c.half0 := rfl
@[simp] theorem Core.half1_later (c : Core) (lat slot : Nat) (what : Commit) : (c.later lat slot what).half1 = c.half1 := rfl
@[simp] theorem Core.inHalf1_later (c : Core) (lat slot : Nat) (what : Commit) : (c.later lat slot what).inHalf1 = c.inHalf1 := rfl
@[simp] theorem Core.refetched_later (c : Core) (lat slot : Nat) (what : Commit) : (c.later lat slot what).refetched = c.refetched := rfl
@[simp] theorem Core.jump_later (c : Core) (lat slot : Nat) (what : Commit) : (c.later lat slot what).jump = c.jump := rfl
@[simp] theorem Core.branchFrom_later (c : Core) (lat slot : Nat) (what : Commit) : (c.later lat slot what).branchFrom = c.branchFrom := rfl
@[simp] theorem Core.fellFrom_later (c : Core) (lat slot : Nat) (what : Commit) : (c.later lat slot what).fellFrom = c.fellFrom := rfl
@[simp] theorem Core.held_later (c : Core) (lat slot : Nat) (what : Commit) : (c.later lat slot what).held = c.held := rfl
@[simp] theorem Core.heldSub_later (c : Core) (lat slot : Nat) (what : Commit) : (c.later lat slot what).heldSub = c.heldSub := rfl
@[simp] theorem Core.stallFrom_later (c : Core) (lat slot : Nat) (what : Commit) : (c.later lat slot what).stallFrom = c.stallFrom := rfl
@[simp] theorem Core.stallClk_later (c : Core) (lat slot : Nat) (what : Commit) : (c.later lat slot what).stallClk = c.stallClk := rfl
@[simp] theorem Core.fetchClk_later (c : Core) (lat slot : Nat) (what : Commit) : (c.later lat slot what).fetchClk = c.fetchClk := rfl
@[simp] theorem Core.clks_later (c : Core) (lat slot : Nat) (what : Commit) : (c.later lat slot what).clks = c.clks := rfl
@[simp] theorem Core.nullRun_later (c : Core) (lat slot : Nat) (what : Commit) : (c.later lat slot what).nullRun = c.nullRun := rfl
@[simp] theorem Core.ordLoads_later (c : Core) (lat slot : Nat) (what : Commit) : (c.later lat slot what).ordLoads = c.ordLoads := rfl
@[simp] theorem Core.ordStores_later (c : Core) (lat slot : Nat) (what : Commit) : (c.later lat slot what).ordStores = c.ordStores := rfl
@[simp] theorem Core.ordMsgs_later (c : Core) (lat slot : Nat) (what : Commit) : (c.later lat slot what).ordMsgs = c.ordMsgs := rfl
@[simp] theorem Core.seen_later (c : Core) (lat slot : Nat) (what : Commit) : (c.later lat slot what).seen = c.seen := rfl
@[simp] theorem Core.fences_later (c : Core) (lat slot : Nat) (what : Commit) : (c.later lat slot what).fences = c.fences := rfl
@[simp] theorem Core.lent_later (c : Core) (lat slot : Nat) (what : Commit) : (c.later lat slot what).lent = c.lent := rfl
@[simp] theorem Core.groupPoison_later (c : Core) (lat slot : Nat) (what : Commit) : (c.later lat slot what).groupPoison = c.groupPoison := rfl
@[simp] theorem Core.bad_later (c : Core) (lat slot : Nat) (what : Commit) : (c.later lat slot what).bad = c.bad := rfl
@[simp] theorem Core.busyUntil_later (c : Core) (lat slot : Nat) (what : Commit) : (c.later lat slot what).busyUntil = c.busyUntil := rfl
@[simp] theorem Core.accAfter_later (c : Core) (lat slot : Nat) (what : Commit) : (c.later lat slot what).accAfter = c.accAfter := rfl
@[simp] theorem Core.chanErr_later (c : Core) (lat slot : Nat) (what : Commit) : (c.later lat slot what).chanErr = c.chanErr := rfl
@[simp] theorem Core.regFaults_later (c : Core) (lat slot : Nat) (what : Commit) : (c.later lat slot what).regFaults = c.regFaults := rfl
@[simp] theorem Core.lastPc_later (c : Core) (lat slot : Nat) (what : Commit) : (c.later lat slot what).lastPc = c.lastPc := rfl
@[simp] theorem Core.lastLc_later (c : Core) (lat slot : Nat) (what : Commit) : (c.later lat slot what).lastLc = c.lastLc := rfl
@[simp] theorem Core.opSeq_later (c : Core) (lat slot : Nat) (what : Commit) : (c.later lat slot what).opSeq = c.opSeq := rfl
@[simp] theorem Core.sstepLc_later (c : Core) (lat slot : Nat) (what : Commit) : (c.later lat slot what).sstepLc = c.sstepLc := rfl

/-! ## `atEnd` -/

@[simp] theorem Core.phase_atEnd (c : Core) (lat slot : Nat) (what : Commit) : (c.atEnd lat slot what).phase = c.phase := rfl
@[simp] theorem Core.pc_atEnd (c : Core) (lat slot : Nat) (what : Commit) : (c.atEnd lat slot what).pc = c.pc := rfl
@[simp] theorem Core.lc_atEnd (c : Core) (lat slot : Nat) (what : Commit) : (c.atEnd lat slot what).lc = c.lc := rfl
@[simp] theorem Core.s_atEnd (c : Core) (lat slot : Nat) (what : Commit) : (c.atEnd lat slot what).s = c.s := rfl
@[simp] theorem Core.p_atEnd (c : Core) (lat slot : Nat) (what : Commit) : (c.atEnd lat slot what).p = c.p := rfl
@[simp] theorem Core.v_atEnd (c : Core) (lat slot : Nat) (what : Commit) : (c.atEnd lat slot what).v = c.v := rfl
@[simp] theorem Core.m_atEnd (c : Core) (lat slot : Nat) (what : Commit) : (c.atEnd lat slot what).m = c.m := rfl
@[simp] theorem Core.t_atEnd (c : Core) (lat slot : Nat) (what : Commit) : (c.atEnd lat slot what).t = c.t := rfl
@[simp] theorem Core.tcfg_atEnd (c : Core) (lat slot : Nat) (what : Commit) : (c.atEnd lat slot what).tcfg = c.tcfg := rfl
@[simp] theorem Core.acc_atEnd (c : Core) (lat slot : Nat) (what : Commit) : (c.atEnd lat slot what).acc = c.acc := rfl
@[simp] theorem Core.q_atEnd (c : Core) (lat slot : Nat) (what : Commit) : (c.atEnd lat slot what).q = c.q := rfl
@[simp] theorem Core.chcnt_atEnd (c : Core) (lat slot : Nat) (what : Commit) : (c.atEnd lat slot what).chcnt = c.chcnt := rfl
@[simp] theorem Core.streams_atEnd (c : Core) (lat slot : Nat) (what : Commit) : (c.atEnd lat slot what).streams = c.streams := rfl
@[simp] theorem Core.loops_atEnd (c : Core) (lat slot : Nat) (what : Commit) : (c.atEnd lat slot what).loops = c.loops := rfl
@[simp] theorem Core.shadow_atEnd (c : Core) (lat slot : Nat) (what : Commit) : (c.atEnd lat slot what).shadow = c.shadow := rfl
@[simp] theorem Core.trapvec_atEnd (c : Core) (lat slot : Nat) (what : Commit) : (c.atEnd lat slot what).trapvec = c.trapvec := rfl
@[simp] theorem Core.trap_atEnd (c : Core) (lat slot : Nat) (what : Commit) : (c.atEnd lat slot what).trap = c.trap := rfl
@[simp] theorem Core.sbchk_atEnd (c : Core) (lat slot : Nat) (what : Commit) : (c.atEnd lat slot what).sbchk = c.sbchk := rfl
@[simp] theorem Core.inh_atEnd (c : Core) (lat slot : Nat) (what : Commit) : (c.atEnd lat slot what).inh = c.inh := rfl
@[simp] theorem Core.sticky_atEnd (c : Core) (lat slot : Nat) (what : Commit) : (c.atEnd lat slot what).sticky = c.sticky := rfl
@[simp] theorem Core.stickyNow_atEnd (c : Core) (lat slot : Nat) (what : Commit) : (c.atEnd lat slot what).stickyNow = c.stickyNow := rfl
@[simp] theorem Core.scratch_atEnd (c : Core) (lat slot : Nat) (what : Commit) : (c.atEnd lat slot what).scratch = c.scratch := rfl
@[simp] theorem Core.tiles_atEnd (c : Core) (lat slot : Nat) (what : Commit) : (c.atEnd lat slot what).tiles = c.tiles := rfl
@[simp] theorem Core.undo_atEnd (c : Core) (lat slot : Nat) (what : Commit) : (c.atEnd lat slot what).undo = c.undo := rfl
@[simp] theorem Core.looked_atEnd (c : Core) (lat slot : Nat) (what : Commit) : (c.atEnd lat slot what).looked = c.looked := rfl
@[simp] theorem Core.clSeen_atEnd (c : Core) (lat slot : Nat) (what : Commit) : (c.atEnd lat slot what).clSeen = c.clSeen := rfl
@[simp] theorem Core.upsets_atEnd (c : Core) (lat slot : Nat) (what : Commit) : (c.atEnd lat slot what).upsets = c.upsets := rfl
@[simp] theorem Core.reports_atEnd (c : Core) (lat slot : Nat) (what : Commit) : (c.atEnd lat slot what).reports = c.reports := rfl
@[simp] theorem Core.entering_atEnd (c : Core) (lat slot : Nat) (what : Commit) : (c.atEnd lat slot what).entering = c.entering := rfl
@[simp] theorem Core.first_atEnd (c : Core) (lat slot : Nat) (what : Commit) : (c.atEnd lat slot what).first = c.first := rfl
@[simp] theorem Core.past_atEnd (c : Core) (lat slot : Nat) (what : Commit) : (c.atEnd lat slot what).past = c.past := rfl
@[simp] theorem Core.pvis_atEnd (c : Core) (lat slot : Nat) (what : Commit) : (c.atEnd lat slot what).pvis = c.pvis := rfl
@[simp] theorem Core.half0_atEnd (c : Core) (lat slot : Nat) (what : Commit) : (c.atEnd lat slot what).half0 = c.half0 := rfl
@[simp] theorem Core.half1_atEnd (c : Core) (lat slot : Nat) (what : Commit) : (c.atEnd lat slot what).half1 = c.half1 := rfl
@[simp] theorem Core.inHalf1_atEnd (c : Core) (lat slot : Nat) (what : Commit) : (c.atEnd lat slot what).inHalf1 = c.inHalf1 := rfl
@[simp] theorem Core.refetched_atEnd (c : Core) (lat slot : Nat) (what : Commit) : (c.atEnd lat slot what).refetched = c.refetched := rfl
@[simp] theorem Core.jump_atEnd (c : Core) (lat slot : Nat) (what : Commit) : (c.atEnd lat slot what).jump = c.jump := rfl
@[simp] theorem Core.branchFrom_atEnd (c : Core) (lat slot : Nat) (what : Commit) : (c.atEnd lat slot what).branchFrom = c.branchFrom := rfl
@[simp] theorem Core.fellFrom_atEnd (c : Core) (lat slot : Nat) (what : Commit) : (c.atEnd lat slot what).fellFrom = c.fellFrom := rfl
@[simp] theorem Core.held_atEnd (c : Core) (lat slot : Nat) (what : Commit) : (c.atEnd lat slot what).held = c.held := rfl
@[simp] theorem Core.heldSub_atEnd (c : Core) (lat slot : Nat) (what : Commit) : (c.atEnd lat slot what).heldSub = c.heldSub := rfl
@[simp] theorem Core.stallFrom_atEnd (c : Core) (lat slot : Nat) (what : Commit) : (c.atEnd lat slot what).stallFrom = c.stallFrom := rfl
@[simp] theorem Core.stallClk_atEnd (c : Core) (lat slot : Nat) (what : Commit) : (c.atEnd lat slot what).stallClk = c.stallClk := rfl
@[simp] theorem Core.fetchClk_atEnd (c : Core) (lat slot : Nat) (what : Commit) : (c.atEnd lat slot what).fetchClk = c.fetchClk := rfl
@[simp] theorem Core.clks_atEnd (c : Core) (lat slot : Nat) (what : Commit) : (c.atEnd lat slot what).clks = c.clks := rfl
@[simp] theorem Core.nullRun_atEnd (c : Core) (lat slot : Nat) (what : Commit) : (c.atEnd lat slot what).nullRun = c.nullRun := rfl
@[simp] theorem Core.ordLoads_atEnd (c : Core) (lat slot : Nat) (what : Commit) : (c.atEnd lat slot what).ordLoads = c.ordLoads := rfl
@[simp] theorem Core.ordStores_atEnd (c : Core) (lat slot : Nat) (what : Commit) : (c.atEnd lat slot what).ordStores = c.ordStores := rfl
@[simp] theorem Core.ordMsgs_atEnd (c : Core) (lat slot : Nat) (what : Commit) : (c.atEnd lat slot what).ordMsgs = c.ordMsgs := rfl
@[simp] theorem Core.seen_atEnd (c : Core) (lat slot : Nat) (what : Commit) : (c.atEnd lat slot what).seen = c.seen := rfl
@[simp] theorem Core.fences_atEnd (c : Core) (lat slot : Nat) (what : Commit) : (c.atEnd lat slot what).fences = c.fences := rfl
@[simp] theorem Core.lent_atEnd (c : Core) (lat slot : Nat) (what : Commit) : (c.atEnd lat slot what).lent = c.lent := rfl
@[simp] theorem Core.groupPoison_atEnd (c : Core) (lat slot : Nat) (what : Commit) : (c.atEnd lat slot what).groupPoison = c.groupPoison := rfl
@[simp] theorem Core.bad_atEnd (c : Core) (lat slot : Nat) (what : Commit) : (c.atEnd lat slot what).bad = c.bad := rfl
@[simp] theorem Core.busyUntil_atEnd (c : Core) (lat slot : Nat) (what : Commit) : (c.atEnd lat slot what).busyUntil = c.busyUntil := rfl
@[simp] theorem Core.accAfter_atEnd (c : Core) (lat slot : Nat) (what : Commit) : (c.atEnd lat slot what).accAfter = c.accAfter := rfl
@[simp] theorem Core.chanErr_atEnd (c : Core) (lat slot : Nat) (what : Commit) : (c.atEnd lat slot what).chanErr = c.chanErr := rfl
@[simp] theorem Core.regFaults_atEnd (c : Core) (lat slot : Nat) (what : Commit) : (c.atEnd lat slot what).regFaults = c.regFaults := rfl
@[simp] theorem Core.lastPc_atEnd (c : Core) (lat slot : Nat) (what : Commit) : (c.atEnd lat slot what).lastPc = c.lastPc := rfl
@[simp] theorem Core.lastLc_atEnd (c : Core) (lat slot : Nat) (what : Commit) : (c.atEnd lat slot what).lastLc = c.lastLc := rfl
@[simp] theorem Core.opSeq_atEnd (c : Core) (lat slot : Nat) (what : Commit) : (c.atEnd lat slot what).opSeq = c.opSeq := rfl
@[simp] theorem Core.sstepLc_atEnd (c : Core) (lat slot : Nat) (what : Commit) : (c.atEnd lat slot what).sstepLc = c.sstepLc := rfl

/-! ## `setTile` -/

@[simp] theorem Core.phase_setTile (c : Core) (t : Nat) (x : Tile) : (c.setTile t x).phase = c.phase := rfl
@[simp] theorem Core.pc_setTile (c : Core) (t : Nat) (x : Tile) : (c.setTile t x).pc = c.pc := rfl
@[simp] theorem Core.lc_setTile (c : Core) (t : Nat) (x : Tile) : (c.setTile t x).lc = c.lc := rfl
@[simp] theorem Core.s_setTile (c : Core) (t : Nat) (x : Tile) : (c.setTile t x).s = c.s := rfl
@[simp] theorem Core.p_setTile (c : Core) (t : Nat) (x : Tile) : (c.setTile t x).p = c.p := rfl
@[simp] theorem Core.v_setTile (c : Core) (t : Nat) (x : Tile) : (c.setTile t x).v = c.v := rfl
@[simp] theorem Core.m_setTile (c : Core) (t : Nat) (x : Tile) : (c.setTile t x).m = c.m := rfl
@[simp] theorem Core.t_setTile (c : Core) (t : Nat) (x : Tile) : (c.setTile t x).t = c.t := rfl
@[simp] theorem Core.tcfg_setTile (c : Core) (t : Nat) (x : Tile) : (c.setTile t x).tcfg = c.tcfg := rfl
@[simp] theorem Core.acc_setTile (c : Core) (t : Nat) (x : Tile) : (c.setTile t x).acc = c.acc := rfl
@[simp] theorem Core.q_setTile (c : Core) (t : Nat) (x : Tile) : (c.setTile t x).q = c.q := rfl
@[simp] theorem Core.chcnt_setTile (c : Core) (t : Nat) (x : Tile) : (c.setTile t x).chcnt = c.chcnt := rfl
@[simp] theorem Core.streams_setTile (c : Core) (t : Nat) (x : Tile) : (c.setTile t x).streams = c.streams := rfl
@[simp] theorem Core.loops_setTile (c : Core) (t : Nat) (x : Tile) : (c.setTile t x).loops = c.loops := rfl
@[simp] theorem Core.shadow_setTile (c : Core) (t : Nat) (x : Tile) : (c.setTile t x).shadow = c.shadow := rfl
@[simp] theorem Core.trapvec_setTile (c : Core) (t : Nat) (x : Tile) : (c.setTile t x).trapvec = c.trapvec := rfl
@[simp] theorem Core.trap_setTile (c : Core) (t : Nat) (x : Tile) : (c.setTile t x).trap = c.trap := rfl
@[simp] theorem Core.sbchk_setTile (c : Core) (t : Nat) (x : Tile) : (c.setTile t x).sbchk = c.sbchk := rfl
@[simp] theorem Core.inh_setTile (c : Core) (t : Nat) (x : Tile) : (c.setTile t x).inh = c.inh := rfl
@[simp] theorem Core.sticky_setTile (c : Core) (t : Nat) (x : Tile) : (c.setTile t x).sticky = c.sticky := rfl
@[simp] theorem Core.stickyNow_setTile (c : Core) (t : Nat) (x : Tile) : (c.setTile t x).stickyNow = c.stickyNow := rfl
@[simp] theorem Core.scratch_setTile (c : Core) (t : Nat) (x : Tile) : (c.setTile t x).scratch = c.scratch := rfl
@[simp] theorem Core.looked_setTile (c : Core) (t : Nat) (x : Tile) : (c.setTile t x).looked = c.looked := rfl
@[simp] theorem Core.clSeen_setTile (c : Core) (t : Nat) (x : Tile) : (c.setTile t x).clSeen = c.clSeen := rfl
@[simp] theorem Core.upsets_setTile (c : Core) (t : Nat) (x : Tile) : (c.setTile t x).upsets = c.upsets := rfl
@[simp] theorem Core.pend_setTile (c : Core) (t : Nat) (x : Tile) : (c.setTile t x).pend = c.pend := rfl
@[simp] theorem Core.reports_setTile (c : Core) (t : Nat) (x : Tile) : (c.setTile t x).reports = c.reports := rfl
@[simp] theorem Core.entering_setTile (c : Core) (t : Nat) (x : Tile) : (c.setTile t x).entering = c.entering := rfl
@[simp] theorem Core.first_setTile (c : Core) (t : Nat) (x : Tile) : (c.setTile t x).first = c.first := rfl
@[simp] theorem Core.past_setTile (c : Core) (t : Nat) (x : Tile) : (c.setTile t x).past = c.past := rfl
@[simp] theorem Core.pvis_setTile (c : Core) (t : Nat) (x : Tile) : (c.setTile t x).pvis = c.pvis := rfl
@[simp] theorem Core.half0_setTile (c : Core) (t : Nat) (x : Tile) : (c.setTile t x).half0 = c.half0 := rfl
@[simp] theorem Core.half1_setTile (c : Core) (t : Nat) (x : Tile) : (c.setTile t x).half1 = c.half1 := rfl
@[simp] theorem Core.inHalf1_setTile (c : Core) (t : Nat) (x : Tile) : (c.setTile t x).inHalf1 = c.inHalf1 := rfl
@[simp] theorem Core.refetched_setTile (c : Core) (t : Nat) (x : Tile) : (c.setTile t x).refetched = c.refetched := rfl
@[simp] theorem Core.jump_setTile (c : Core) (t : Nat) (x : Tile) : (c.setTile t x).jump = c.jump := rfl
@[simp] theorem Core.branchFrom_setTile (c : Core) (t : Nat) (x : Tile) : (c.setTile t x).branchFrom = c.branchFrom := rfl
@[simp] theorem Core.fellFrom_setTile (c : Core) (t : Nat) (x : Tile) : (c.setTile t x).fellFrom = c.fellFrom := rfl
@[simp] theorem Core.held_setTile (c : Core) (t : Nat) (x : Tile) : (c.setTile t x).held = c.held := rfl
@[simp] theorem Core.heldSub_setTile (c : Core) (t : Nat) (x : Tile) : (c.setTile t x).heldSub = c.heldSub := rfl
@[simp] theorem Core.stallFrom_setTile (c : Core) (t : Nat) (x : Tile) : (c.setTile t x).stallFrom = c.stallFrom := rfl
@[simp] theorem Core.stallClk_setTile (c : Core) (t : Nat) (x : Tile) : (c.setTile t x).stallClk = c.stallClk := rfl
@[simp] theorem Core.fetchClk_setTile (c : Core) (t : Nat) (x : Tile) : (c.setTile t x).fetchClk = c.fetchClk := rfl
@[simp] theorem Core.clks_setTile (c : Core) (t : Nat) (x : Tile) : (c.setTile t x).clks = c.clks := rfl
@[simp] theorem Core.nullRun_setTile (c : Core) (t : Nat) (x : Tile) : (c.setTile t x).nullRun = c.nullRun := rfl
@[simp] theorem Core.ordLoads_setTile (c : Core) (t : Nat) (x : Tile) : (c.setTile t x).ordLoads = c.ordLoads := rfl
@[simp] theorem Core.ordStores_setTile (c : Core) (t : Nat) (x : Tile) : (c.setTile t x).ordStores = c.ordStores := rfl
@[simp] theorem Core.ordMsgs_setTile (c : Core) (t : Nat) (x : Tile) : (c.setTile t x).ordMsgs = c.ordMsgs := rfl
@[simp] theorem Core.seen_setTile (c : Core) (t : Nat) (x : Tile) : (c.setTile t x).seen = c.seen := rfl
@[simp] theorem Core.fences_setTile (c : Core) (t : Nat) (x : Tile) : (c.setTile t x).fences = c.fences := rfl
@[simp] theorem Core.lent_setTile (c : Core) (t : Nat) (x : Tile) : (c.setTile t x).lent = c.lent := rfl
@[simp] theorem Core.groupPoison_setTile (c : Core) (t : Nat) (x : Tile) : (c.setTile t x).groupPoison = c.groupPoison := rfl
@[simp] theorem Core.bad_setTile (c : Core) (t : Nat) (x : Tile) : (c.setTile t x).bad = c.bad := rfl
@[simp] theorem Core.busyUntil_setTile (c : Core) (t : Nat) (x : Tile) : (c.setTile t x).busyUntil = c.busyUntil := rfl
@[simp] theorem Core.accAfter_setTile (c : Core) (t : Nat) (x : Tile) : (c.setTile t x).accAfter = c.accAfter := rfl
@[simp] theorem Core.chanErr_setTile (c : Core) (t : Nat) (x : Tile) : (c.setTile t x).chanErr = c.chanErr := rfl
@[simp] theorem Core.regFaults_setTile (c : Core) (t : Nat) (x : Tile) : (c.setTile t x).regFaults = c.regFaults := rfl
@[simp] theorem Core.lastPc_setTile (c : Core) (t : Nat) (x : Tile) : (c.setTile t x).lastPc = c.lastPc := rfl
@[simp] theorem Core.lastLc_setTile (c : Core) (t : Nat) (x : Tile) : (c.setTile t x).lastLc = c.lastLc := rfl
@[simp] theorem Core.opSeq_setTile (c : Core) (t : Nat) (x : Tile) : (c.setTile t x).opSeq = c.opSeq := rfl
@[simp] theorem Core.sstepLc_setTile (c : Core) (t : Nat) (x : Tile) : (c.setTile t x).sstepLc = c.sstepLc := rfl

/-! ## `setStream` -/

@[simp] theorem Core.phase_setStream (c : Core) (f : Fin 8) (st : Option Stream) : (c.setStream f st).phase = c.phase := rfl
@[simp] theorem Core.pc_setStream (c : Core) (f : Fin 8) (st : Option Stream) : (c.setStream f st).pc = c.pc := rfl
@[simp] theorem Core.lc_setStream (c : Core) (f : Fin 8) (st : Option Stream) : (c.setStream f st).lc = c.lc := rfl
@[simp] theorem Core.s_setStream (c : Core) (f : Fin 8) (st : Option Stream) : (c.setStream f st).s = c.s := rfl
@[simp] theorem Core.p_setStream (c : Core) (f : Fin 8) (st : Option Stream) : (c.setStream f st).p = c.p := rfl
@[simp] theorem Core.v_setStream (c : Core) (f : Fin 8) (st : Option Stream) : (c.setStream f st).v = c.v := rfl
@[simp] theorem Core.m_setStream (c : Core) (f : Fin 8) (st : Option Stream) : (c.setStream f st).m = c.m := rfl
@[simp] theorem Core.t_setStream (c : Core) (f : Fin 8) (st : Option Stream) : (c.setStream f st).t = c.t := rfl
@[simp] theorem Core.tcfg_setStream (c : Core) (f : Fin 8) (st : Option Stream) : (c.setStream f st).tcfg = c.tcfg := rfl
@[simp] theorem Core.acc_setStream (c : Core) (f : Fin 8) (st : Option Stream) : (c.setStream f st).acc = c.acc := rfl
@[simp] theorem Core.q_setStream (c : Core) (f : Fin 8) (st : Option Stream) : (c.setStream f st).q = c.q := rfl
@[simp] theorem Core.chcnt_setStream (c : Core) (f : Fin 8) (st : Option Stream) : (c.setStream f st).chcnt = c.chcnt := rfl
@[simp] theorem Core.loops_setStream (c : Core) (f : Fin 8) (st : Option Stream) : (c.setStream f st).loops = c.loops := rfl
@[simp] theorem Core.shadow_setStream (c : Core) (f : Fin 8) (st : Option Stream) : (c.setStream f st).shadow = c.shadow := rfl
@[simp] theorem Core.trapvec_setStream (c : Core) (f : Fin 8) (st : Option Stream) : (c.setStream f st).trapvec = c.trapvec := rfl
@[simp] theorem Core.trap_setStream (c : Core) (f : Fin 8) (st : Option Stream) : (c.setStream f st).trap = c.trap := rfl
@[simp] theorem Core.sbchk_setStream (c : Core) (f : Fin 8) (st : Option Stream) : (c.setStream f st).sbchk = c.sbchk := rfl
@[simp] theorem Core.inh_setStream (c : Core) (f : Fin 8) (st : Option Stream) : (c.setStream f st).inh = c.inh := rfl
@[simp] theorem Core.sticky_setStream (c : Core) (f : Fin 8) (st : Option Stream) : (c.setStream f st).sticky = c.sticky := rfl
@[simp] theorem Core.stickyNow_setStream (c : Core) (f : Fin 8) (st : Option Stream) : (c.setStream f st).stickyNow = c.stickyNow := rfl
@[simp] theorem Core.scratch_setStream (c : Core) (f : Fin 8) (st : Option Stream) : (c.setStream f st).scratch = c.scratch := rfl
@[simp] theorem Core.tiles_setStream (c : Core) (f : Fin 8) (st : Option Stream) : (c.setStream f st).tiles = c.tiles := rfl
@[simp] theorem Core.undo_setStream (c : Core) (f : Fin 8) (st : Option Stream) : (c.setStream f st).undo = c.undo := rfl
@[simp] theorem Core.looked_setStream (c : Core) (f : Fin 8) (st : Option Stream) : (c.setStream f st).looked = c.looked := rfl
@[simp] theorem Core.clSeen_setStream (c : Core) (f : Fin 8) (st : Option Stream) : (c.setStream f st).clSeen = c.clSeen := rfl
@[simp] theorem Core.upsets_setStream (c : Core) (f : Fin 8) (st : Option Stream) : (c.setStream f st).upsets = c.upsets := rfl
@[simp] theorem Core.pend_setStream (c : Core) (f : Fin 8) (st : Option Stream) : (c.setStream f st).pend = c.pend := rfl
@[simp] theorem Core.reports_setStream (c : Core) (f : Fin 8) (st : Option Stream) : (c.setStream f st).reports = c.reports := rfl
@[simp] theorem Core.entering_setStream (c : Core) (f : Fin 8) (st : Option Stream) : (c.setStream f st).entering = c.entering := rfl
@[simp] theorem Core.first_setStream (c : Core) (f : Fin 8) (st : Option Stream) : (c.setStream f st).first = c.first := rfl
@[simp] theorem Core.past_setStream (c : Core) (f : Fin 8) (st : Option Stream) : (c.setStream f st).past = c.past := rfl
@[simp] theorem Core.pvis_setStream (c : Core) (f : Fin 8) (st : Option Stream) : (c.setStream f st).pvis = c.pvis := rfl
@[simp] theorem Core.half0_setStream (c : Core) (f : Fin 8) (st : Option Stream) : (c.setStream f st).half0 = c.half0 := rfl
@[simp] theorem Core.half1_setStream (c : Core) (f : Fin 8) (st : Option Stream) : (c.setStream f st).half1 = c.half1 := rfl
@[simp] theorem Core.inHalf1_setStream (c : Core) (f : Fin 8) (st : Option Stream) : (c.setStream f st).inHalf1 = c.inHalf1 := rfl
@[simp] theorem Core.refetched_setStream (c : Core) (f : Fin 8) (st : Option Stream) : (c.setStream f st).refetched = c.refetched := rfl
@[simp] theorem Core.jump_setStream (c : Core) (f : Fin 8) (st : Option Stream) : (c.setStream f st).jump = c.jump := rfl
@[simp] theorem Core.branchFrom_setStream (c : Core) (f : Fin 8) (st : Option Stream) : (c.setStream f st).branchFrom = c.branchFrom := rfl
@[simp] theorem Core.fellFrom_setStream (c : Core) (f : Fin 8) (st : Option Stream) : (c.setStream f st).fellFrom = c.fellFrom := rfl
@[simp] theorem Core.held_setStream (c : Core) (f : Fin 8) (st : Option Stream) : (c.setStream f st).held = c.held := rfl
@[simp] theorem Core.heldSub_setStream (c : Core) (f : Fin 8) (st : Option Stream) : (c.setStream f st).heldSub = c.heldSub := rfl
@[simp] theorem Core.stallFrom_setStream (c : Core) (f : Fin 8) (st : Option Stream) : (c.setStream f st).stallFrom = c.stallFrom := rfl
@[simp] theorem Core.stallClk_setStream (c : Core) (f : Fin 8) (st : Option Stream) : (c.setStream f st).stallClk = c.stallClk := rfl
@[simp] theorem Core.fetchClk_setStream (c : Core) (f : Fin 8) (st : Option Stream) : (c.setStream f st).fetchClk = c.fetchClk := rfl
@[simp] theorem Core.clks_setStream (c : Core) (f : Fin 8) (st : Option Stream) : (c.setStream f st).clks = c.clks := rfl
@[simp] theorem Core.nullRun_setStream (c : Core) (f : Fin 8) (st : Option Stream) : (c.setStream f st).nullRun = c.nullRun := rfl
@[simp] theorem Core.ordLoads_setStream (c : Core) (f : Fin 8) (st : Option Stream) : (c.setStream f st).ordLoads = c.ordLoads := rfl
@[simp] theorem Core.ordStores_setStream (c : Core) (f : Fin 8) (st : Option Stream) : (c.setStream f st).ordStores = c.ordStores := rfl
@[simp] theorem Core.ordMsgs_setStream (c : Core) (f : Fin 8) (st : Option Stream) : (c.setStream f st).ordMsgs = c.ordMsgs := rfl
@[simp] theorem Core.seen_setStream (c : Core) (f : Fin 8) (st : Option Stream) : (c.setStream f st).seen = c.seen := rfl
@[simp] theorem Core.fences_setStream (c : Core) (f : Fin 8) (st : Option Stream) : (c.setStream f st).fences = c.fences := rfl
@[simp] theorem Core.lent_setStream (c : Core) (f : Fin 8) (st : Option Stream) : (c.setStream f st).lent = c.lent := rfl
@[simp] theorem Core.groupPoison_setStream (c : Core) (f : Fin 8) (st : Option Stream) : (c.setStream f st).groupPoison = c.groupPoison := rfl
@[simp] theorem Core.bad_setStream (c : Core) (f : Fin 8) (st : Option Stream) : (c.setStream f st).bad = c.bad := rfl
@[simp] theorem Core.busyUntil_setStream (c : Core) (f : Fin 8) (st : Option Stream) : (c.setStream f st).busyUntil = c.busyUntil := rfl
@[simp] theorem Core.accAfter_setStream (c : Core) (f : Fin 8) (st : Option Stream) : (c.setStream f st).accAfter = c.accAfter := rfl
@[simp] theorem Core.chanErr_setStream (c : Core) (f : Fin 8) (st : Option Stream) : (c.setStream f st).chanErr = c.chanErr := rfl
@[simp] theorem Core.regFaults_setStream (c : Core) (f : Fin 8) (st : Option Stream) : (c.setStream f st).regFaults = c.regFaults := rfl
@[simp] theorem Core.lastPc_setStream (c : Core) (f : Fin 8) (st : Option Stream) : (c.setStream f st).lastPc = c.lastPc := rfl
@[simp] theorem Core.lastLc_setStream (c : Core) (f : Fin 8) (st : Option Stream) : (c.setStream f st).lastLc = c.lastLc := rfl
@[simp] theorem Core.opSeq_setStream (c : Core) (f : Fin 8) (st : Option Stream) : (c.setStream f st).opSeq = c.opSeq := rfl
@[simp] theorem Core.sstepLc_setStream (c : Core) (f : Fin 8) (st : Option Stream) : (c.setStream f st).sstepLc = c.sstepLc := rfl

/-! ## `setQueue` -/

@[simp] theorem Core.phase_setQueue (c : Core) (q : QReg) (l : List QRow) : (c.setQueue q l).phase = c.phase := rfl
@[simp] theorem Core.pc_setQueue (c : Core) (q : QReg) (l : List QRow) : (c.setQueue q l).pc = c.pc := rfl
@[simp] theorem Core.lc_setQueue (c : Core) (q : QReg) (l : List QRow) : (c.setQueue q l).lc = c.lc := rfl
@[simp] theorem Core.s_setQueue (c : Core) (q : QReg) (l : List QRow) : (c.setQueue q l).s = c.s := rfl
@[simp] theorem Core.p_setQueue (c : Core) (q : QReg) (l : List QRow) : (c.setQueue q l).p = c.p := rfl
@[simp] theorem Core.v_setQueue (c : Core) (q : QReg) (l : List QRow) : (c.setQueue q l).v = c.v := rfl
@[simp] theorem Core.m_setQueue (c : Core) (q : QReg) (l : List QRow) : (c.setQueue q l).m = c.m := rfl
@[simp] theorem Core.t_setQueue (c : Core) (q : QReg) (l : List QRow) : (c.setQueue q l).t = c.t := rfl
@[simp] theorem Core.tcfg_setQueue (c : Core) (q : QReg) (l : List QRow) : (c.setQueue q l).tcfg = c.tcfg := rfl
@[simp] theorem Core.acc_setQueue (c : Core) (q : QReg) (l : List QRow) : (c.setQueue q l).acc = c.acc := rfl
@[simp] theorem Core.chcnt_setQueue (c : Core) (q : QReg) (l : List QRow) : (c.setQueue q l).chcnt = c.chcnt := rfl
@[simp] theorem Core.streams_setQueue (c : Core) (q : QReg) (l : List QRow) : (c.setQueue q l).streams = c.streams := rfl
@[simp] theorem Core.loops_setQueue (c : Core) (q : QReg) (l : List QRow) : (c.setQueue q l).loops = c.loops := rfl
@[simp] theorem Core.shadow_setQueue (c : Core) (q : QReg) (l : List QRow) : (c.setQueue q l).shadow = c.shadow := rfl
@[simp] theorem Core.trapvec_setQueue (c : Core) (q : QReg) (l : List QRow) : (c.setQueue q l).trapvec = c.trapvec := rfl
@[simp] theorem Core.trap_setQueue (c : Core) (q : QReg) (l : List QRow) : (c.setQueue q l).trap = c.trap := rfl
@[simp] theorem Core.sbchk_setQueue (c : Core) (q : QReg) (l : List QRow) : (c.setQueue q l).sbchk = c.sbchk := rfl
@[simp] theorem Core.inh_setQueue (c : Core) (q : QReg) (l : List QRow) : (c.setQueue q l).inh = c.inh := rfl
@[simp] theorem Core.sticky_setQueue (c : Core) (q : QReg) (l : List QRow) : (c.setQueue q l).sticky = c.sticky := rfl
@[simp] theorem Core.stickyNow_setQueue (c : Core) (q : QReg) (l : List QRow) : (c.setQueue q l).stickyNow = c.stickyNow := rfl
@[simp] theorem Core.scratch_setQueue (c : Core) (q : QReg) (l : List QRow) : (c.setQueue q l).scratch = c.scratch := rfl
@[simp] theorem Core.tiles_setQueue (c : Core) (q : QReg) (l : List QRow) : (c.setQueue q l).tiles = c.tiles := rfl
@[simp] theorem Core.undo_setQueue (c : Core) (q : QReg) (l : List QRow) : (c.setQueue q l).undo = c.undo := rfl
@[simp] theorem Core.looked_setQueue (c : Core) (q : QReg) (l : List QRow) : (c.setQueue q l).looked = c.looked := rfl
@[simp] theorem Core.clSeen_setQueue (c : Core) (q : QReg) (l : List QRow) : (c.setQueue q l).clSeen = c.clSeen := rfl
@[simp] theorem Core.upsets_setQueue (c : Core) (q : QReg) (l : List QRow) : (c.setQueue q l).upsets = c.upsets := rfl
@[simp] theorem Core.pend_setQueue (c : Core) (q : QReg) (l : List QRow) : (c.setQueue q l).pend = c.pend := rfl
@[simp] theorem Core.reports_setQueue (c : Core) (q : QReg) (l : List QRow) : (c.setQueue q l).reports = c.reports := rfl
@[simp] theorem Core.entering_setQueue (c : Core) (q : QReg) (l : List QRow) : (c.setQueue q l).entering = c.entering := rfl
@[simp] theorem Core.first_setQueue (c : Core) (q : QReg) (l : List QRow) : (c.setQueue q l).first = c.first := rfl
@[simp] theorem Core.past_setQueue (c : Core) (q : QReg) (l : List QRow) : (c.setQueue q l).past = c.past := rfl
@[simp] theorem Core.pvis_setQueue (c : Core) (q : QReg) (l : List QRow) : (c.setQueue q l).pvis = c.pvis := rfl
@[simp] theorem Core.half0_setQueue (c : Core) (q : QReg) (l : List QRow) : (c.setQueue q l).half0 = c.half0 := rfl
@[simp] theorem Core.half1_setQueue (c : Core) (q : QReg) (l : List QRow) : (c.setQueue q l).half1 = c.half1 := rfl
@[simp] theorem Core.inHalf1_setQueue (c : Core) (q : QReg) (l : List QRow) : (c.setQueue q l).inHalf1 = c.inHalf1 := rfl
@[simp] theorem Core.refetched_setQueue (c : Core) (q : QReg) (l : List QRow) : (c.setQueue q l).refetched = c.refetched := rfl
@[simp] theorem Core.jump_setQueue (c : Core) (q : QReg) (l : List QRow) : (c.setQueue q l).jump = c.jump := rfl
@[simp] theorem Core.branchFrom_setQueue (c : Core) (q : QReg) (l : List QRow) : (c.setQueue q l).branchFrom = c.branchFrom := rfl
@[simp] theorem Core.fellFrom_setQueue (c : Core) (q : QReg) (l : List QRow) : (c.setQueue q l).fellFrom = c.fellFrom := rfl
@[simp] theorem Core.held_setQueue (c : Core) (q : QReg) (l : List QRow) : (c.setQueue q l).held = c.held := rfl
@[simp] theorem Core.heldSub_setQueue (c : Core) (q : QReg) (l : List QRow) : (c.setQueue q l).heldSub = c.heldSub := rfl
@[simp] theorem Core.stallFrom_setQueue (c : Core) (q : QReg) (l : List QRow) : (c.setQueue q l).stallFrom = c.stallFrom := rfl
@[simp] theorem Core.stallClk_setQueue (c : Core) (q : QReg) (l : List QRow) : (c.setQueue q l).stallClk = c.stallClk := rfl
@[simp] theorem Core.fetchClk_setQueue (c : Core) (q : QReg) (l : List QRow) : (c.setQueue q l).fetchClk = c.fetchClk := rfl
@[simp] theorem Core.clks_setQueue (c : Core) (q : QReg) (l : List QRow) : (c.setQueue q l).clks = c.clks := rfl
@[simp] theorem Core.nullRun_setQueue (c : Core) (q : QReg) (l : List QRow) : (c.setQueue q l).nullRun = c.nullRun := rfl
@[simp] theorem Core.ordLoads_setQueue (c : Core) (q : QReg) (l : List QRow) : (c.setQueue q l).ordLoads = c.ordLoads := rfl
@[simp] theorem Core.ordStores_setQueue (c : Core) (q : QReg) (l : List QRow) : (c.setQueue q l).ordStores = c.ordStores := rfl
@[simp] theorem Core.ordMsgs_setQueue (c : Core) (q : QReg) (l : List QRow) : (c.setQueue q l).ordMsgs = c.ordMsgs := rfl
@[simp] theorem Core.seen_setQueue (c : Core) (q : QReg) (l : List QRow) : (c.setQueue q l).seen = c.seen := rfl
@[simp] theorem Core.fences_setQueue (c : Core) (q : QReg) (l : List QRow) : (c.setQueue q l).fences = c.fences := rfl
@[simp] theorem Core.lent_setQueue (c : Core) (q : QReg) (l : List QRow) : (c.setQueue q l).lent = c.lent := rfl
@[simp] theorem Core.groupPoison_setQueue (c : Core) (q : QReg) (l : List QRow) : (c.setQueue q l).groupPoison = c.groupPoison := rfl
@[simp] theorem Core.bad_setQueue (c : Core) (q : QReg) (l : List QRow) : (c.setQueue q l).bad = c.bad := rfl
@[simp] theorem Core.busyUntil_setQueue (c : Core) (q : QReg) (l : List QRow) : (c.setQueue q l).busyUntil = c.busyUntil := rfl
@[simp] theorem Core.accAfter_setQueue (c : Core) (q : QReg) (l : List QRow) : (c.setQueue q l).accAfter = c.accAfter := rfl
@[simp] theorem Core.chanErr_setQueue (c : Core) (q : QReg) (l : List QRow) : (c.setQueue q l).chanErr = c.chanErr := rfl
@[simp] theorem Core.regFaults_setQueue (c : Core) (q : QReg) (l : List QRow) : (c.setQueue q l).regFaults = c.regFaults := rfl
@[simp] theorem Core.lastPc_setQueue (c : Core) (q : QReg) (l : List QRow) : (c.setQueue q l).lastPc = c.lastPc := rfl
@[simp] theorem Core.lastLc_setQueue (c : Core) (q : QReg) (l : List QRow) : (c.setQueue q l).lastLc = c.lastLc := rfl
@[simp] theorem Core.opSeq_setQueue (c : Core) (q : QReg) (l : List QRow) : (c.setQueue q l).opSeq = c.opSeq := rfl
@[simp] theorem Core.sstepLc_setQueue (c : Core) (q : QReg) (l : List QRow) : (c.setQueue q l).sstepLc = c.sstepLc := rfl

/-! ## `writeBytes` -/

/-- A write of the scratchpad changes nothing but it and what it replaced. -/
theorem Core.writeAt_eq (c : Core) (cycle rank a : Nat) (l : List Byte) : ∃ m u, c.writeAt cycle rank a l = { c with scratch := m, undo := u } := by
  induction l generalizing c a with
  | nil => exact ⟨c.scratch, c.undo, rfl⟩
  | cons b r ih =>
    obtain ⟨m, u, h⟩ := ih (c.writeByte cycle rank a b) (a + 1)
    refine ⟨m, u, ?_⟩
    rw [Core.writeAt, h]
    unfold Core.writeByte
    split <;> rfl

/-! ## The other fields -/

@[simp] theorem Core.phase_writeBytes (c : Core) (a : Nat) (l : List Byte) : (c.writeBytes a l).phase = c.phase := by
  obtain ⟨m, u, h⟩ := Core.writeAt_eq c c.lc.toNat 0 a l; rw [Core.writeBytes, h]
@[simp] theorem Core.pc_writeBytes (c : Core) (a : Nat) (l : List Byte) : (c.writeBytes a l).pc = c.pc := by
  obtain ⟨m, u, h⟩ := Core.writeAt_eq c c.lc.toNat 0 a l; rw [Core.writeBytes, h]
@[simp] theorem Core.lc_writeBytes (c : Core) (a : Nat) (l : List Byte) : (c.writeBytes a l).lc = c.lc := by
  obtain ⟨m, u, h⟩ := Core.writeAt_eq c c.lc.toNat 0 a l; rw [Core.writeBytes, h]
@[simp] theorem Core.s_writeBytes (c : Core) (a : Nat) (l : List Byte) : (c.writeBytes a l).s = c.s := by
  obtain ⟨m, u, h⟩ := Core.writeAt_eq c c.lc.toNat 0 a l; rw [Core.writeBytes, h]
@[simp] theorem Core.p_writeBytes (c : Core) (a : Nat) (l : List Byte) : (c.writeBytes a l).p = c.p := by
  obtain ⟨m, u, h⟩ := Core.writeAt_eq c c.lc.toNat 0 a l; rw [Core.writeBytes, h]
@[simp] theorem Core.v_writeBytes (c : Core) (a : Nat) (l : List Byte) : (c.writeBytes a l).v = c.v := by
  obtain ⟨m, u, h⟩ := Core.writeAt_eq c c.lc.toNat 0 a l; rw [Core.writeBytes, h]
@[simp] theorem Core.m_writeBytes (c : Core) (a : Nat) (l : List Byte) : (c.writeBytes a l).m = c.m := by
  obtain ⟨m, u, h⟩ := Core.writeAt_eq c c.lc.toNat 0 a l; rw [Core.writeBytes, h]
@[simp] theorem Core.t_writeBytes (c : Core) (a : Nat) (l : List Byte) : (c.writeBytes a l).t = c.t := by
  obtain ⟨m, u, h⟩ := Core.writeAt_eq c c.lc.toNat 0 a l; rw [Core.writeBytes, h]
@[simp] theorem Core.tcfg_writeBytes (c : Core) (a : Nat) (l : List Byte) : (c.writeBytes a l).tcfg = c.tcfg := by
  obtain ⟨m, u, h⟩ := Core.writeAt_eq c c.lc.toNat 0 a l; rw [Core.writeBytes, h]
@[simp] theorem Core.acc_writeBytes (c : Core) (a : Nat) (l : List Byte) : (c.writeBytes a l).acc = c.acc := by
  obtain ⟨m, u, h⟩ := Core.writeAt_eq c c.lc.toNat 0 a l; rw [Core.writeBytes, h]
@[simp] theorem Core.q_writeBytes (c : Core) (a : Nat) (l : List Byte) : (c.writeBytes a l).q = c.q := by
  obtain ⟨m, u, h⟩ := Core.writeAt_eq c c.lc.toNat 0 a l; rw [Core.writeBytes, h]
@[simp] theorem Core.chcnt_writeBytes (c : Core) (a : Nat) (l : List Byte) : (c.writeBytes a l).chcnt = c.chcnt := by
  obtain ⟨m, u, h⟩ := Core.writeAt_eq c c.lc.toNat 0 a l; rw [Core.writeBytes, h]
@[simp] theorem Core.streams_writeBytes (c : Core) (a : Nat) (l : List Byte) : (c.writeBytes a l).streams = c.streams := by
  obtain ⟨m, u, h⟩ := Core.writeAt_eq c c.lc.toNat 0 a l; rw [Core.writeBytes, h]
@[simp] theorem Core.loops_writeBytes (c : Core) (a : Nat) (l : List Byte) : (c.writeBytes a l).loops = c.loops := by
  obtain ⟨m, u, h⟩ := Core.writeAt_eq c c.lc.toNat 0 a l; rw [Core.writeBytes, h]
@[simp] theorem Core.shadow_writeBytes (c : Core) (a : Nat) (l : List Byte) : (c.writeBytes a l).shadow = c.shadow := by
  obtain ⟨m, u, h⟩ := Core.writeAt_eq c c.lc.toNat 0 a l; rw [Core.writeBytes, h]
@[simp] theorem Core.trapvec_writeBytes (c : Core) (a : Nat) (l : List Byte) : (c.writeBytes a l).trapvec = c.trapvec := by
  obtain ⟨m, u, h⟩ := Core.writeAt_eq c c.lc.toNat 0 a l; rw [Core.writeBytes, h]
@[simp] theorem Core.trap_writeBytes (c : Core) (a : Nat) (l : List Byte) : (c.writeBytes a l).trap = c.trap := by
  obtain ⟨m, u, h⟩ := Core.writeAt_eq c c.lc.toNat 0 a l; rw [Core.writeBytes, h]
@[simp] theorem Core.sbchk_writeBytes (c : Core) (a : Nat) (l : List Byte) : (c.writeBytes a l).sbchk = c.sbchk := by
  obtain ⟨m, u, h⟩ := Core.writeAt_eq c c.lc.toNat 0 a l; rw [Core.writeBytes, h]
@[simp] theorem Core.inh_writeBytes (c : Core) (a : Nat) (l : List Byte) : (c.writeBytes a l).inh = c.inh := by
  obtain ⟨m, u, h⟩ := Core.writeAt_eq c c.lc.toNat 0 a l; rw [Core.writeBytes, h]
@[simp] theorem Core.sticky_writeBytes (c : Core) (a : Nat) (l : List Byte) : (c.writeBytes a l).sticky = c.sticky := by
  obtain ⟨m, u, h⟩ := Core.writeAt_eq c c.lc.toNat 0 a l; rw [Core.writeBytes, h]
@[simp] theorem Core.stickyNow_writeBytes (c : Core) (a : Nat) (l : List Byte) : (c.writeBytes a l).stickyNow = c.stickyNow := by
  obtain ⟨m, u, h⟩ := Core.writeAt_eq c c.lc.toNat 0 a l; rw [Core.writeBytes, h]
@[simp] theorem Core.tiles_writeBytes (c : Core) (a : Nat) (l : List Byte) : (c.writeBytes a l).tiles = c.tiles := by
  obtain ⟨m, u, h⟩ := Core.writeAt_eq c c.lc.toNat 0 a l; rw [Core.writeBytes, h]
@[simp] theorem Core.looked_writeBytes (c : Core) (a : Nat) (l : List Byte) : (c.writeBytes a l).looked = c.looked := by
  obtain ⟨m, u, h⟩ := Core.writeAt_eq c c.lc.toNat 0 a l; rw [Core.writeBytes, h]
@[simp] theorem Core.clSeen_writeBytes (c : Core) (a : Nat) (l : List Byte) : (c.writeBytes a l).clSeen = c.clSeen := by
  obtain ⟨m, u, h⟩ := Core.writeAt_eq c c.lc.toNat 0 a l; rw [Core.writeBytes, h]
@[simp] theorem Core.upsets_writeBytes (c : Core) (a : Nat) (l : List Byte) : (c.writeBytes a l).upsets = c.upsets := by
  obtain ⟨m, u, h⟩ := Core.writeAt_eq c c.lc.toNat 0 a l; rw [Core.writeBytes, h]
@[simp] theorem Core.pend_writeBytes (c : Core) (a : Nat) (l : List Byte) : (c.writeBytes a l).pend = c.pend := by
  obtain ⟨m, u, h⟩ := Core.writeAt_eq c c.lc.toNat 0 a l; rw [Core.writeBytes, h]
@[simp] theorem Core.reports_writeBytes (c : Core) (a : Nat) (l : List Byte) : (c.writeBytes a l).reports = c.reports := by
  obtain ⟨m, u, h⟩ := Core.writeAt_eq c c.lc.toNat 0 a l; rw [Core.writeBytes, h]
@[simp] theorem Core.entering_writeBytes (c : Core) (a : Nat) (l : List Byte) : (c.writeBytes a l).entering = c.entering := by
  obtain ⟨m, u, h⟩ := Core.writeAt_eq c c.lc.toNat 0 a l; rw [Core.writeBytes, h]
@[simp] theorem Core.first_writeBytes (c : Core) (a : Nat) (l : List Byte) : (c.writeBytes a l).first = c.first := by
  obtain ⟨m, u, h⟩ := Core.writeAt_eq c c.lc.toNat 0 a l; rw [Core.writeBytes, h]
@[simp] theorem Core.past_writeBytes (c : Core) (a : Nat) (l : List Byte) : (c.writeBytes a l).past = c.past := by
  obtain ⟨m, u, h⟩ := Core.writeAt_eq c c.lc.toNat 0 a l; rw [Core.writeBytes, h]
@[simp] theorem Core.pvis_writeBytes (c : Core) (a : Nat) (l : List Byte) : (c.writeBytes a l).pvis = c.pvis := by
  obtain ⟨m, u, h⟩ := Core.writeAt_eq c c.lc.toNat 0 a l; rw [Core.writeBytes, h]
@[simp] theorem Core.half0_writeBytes (c : Core) (a : Nat) (l : List Byte) : (c.writeBytes a l).half0 = c.half0 := by
  obtain ⟨m, u, h⟩ := Core.writeAt_eq c c.lc.toNat 0 a l; rw [Core.writeBytes, h]
@[simp] theorem Core.half1_writeBytes (c : Core) (a : Nat) (l : List Byte) : (c.writeBytes a l).half1 = c.half1 := by
  obtain ⟨m, u, h⟩ := Core.writeAt_eq c c.lc.toNat 0 a l; rw [Core.writeBytes, h]
@[simp] theorem Core.inHalf1_writeBytes (c : Core) (a : Nat) (l : List Byte) : (c.writeBytes a l).inHalf1 = c.inHalf1 := by
  obtain ⟨m, u, h⟩ := Core.writeAt_eq c c.lc.toNat 0 a l; rw [Core.writeBytes, h]
@[simp] theorem Core.refetched_writeBytes (c : Core) (a : Nat) (l : List Byte) : (c.writeBytes a l).refetched = c.refetched := by
  obtain ⟨m, u, h⟩ := Core.writeAt_eq c c.lc.toNat 0 a l; rw [Core.writeBytes, h]
@[simp] theorem Core.jump_writeBytes (c : Core) (a : Nat) (l : List Byte) : (c.writeBytes a l).jump = c.jump := by
  obtain ⟨m, u, h⟩ := Core.writeAt_eq c c.lc.toNat 0 a l; rw [Core.writeBytes, h]
@[simp] theorem Core.branchFrom_writeBytes (c : Core) (a : Nat) (l : List Byte) : (c.writeBytes a l).branchFrom = c.branchFrom := by
  obtain ⟨m, u, h⟩ := Core.writeAt_eq c c.lc.toNat 0 a l; rw [Core.writeBytes, h]
@[simp] theorem Core.fellFrom_writeBytes (c : Core) (a : Nat) (l : List Byte) : (c.writeBytes a l).fellFrom = c.fellFrom := by
  obtain ⟨m, u, h⟩ := Core.writeAt_eq c c.lc.toNat 0 a l; rw [Core.writeBytes, h]
@[simp] theorem Core.held_writeBytes (c : Core) (a : Nat) (l : List Byte) : (c.writeBytes a l).held = c.held := by
  obtain ⟨m, u, h⟩ := Core.writeAt_eq c c.lc.toNat 0 a l; rw [Core.writeBytes, h]
@[simp] theorem Core.heldSub_writeBytes (c : Core) (a : Nat) (l : List Byte) : (c.writeBytes a l).heldSub = c.heldSub := by
  obtain ⟨m, u, h⟩ := Core.writeAt_eq c c.lc.toNat 0 a l; rw [Core.writeBytes, h]
@[simp] theorem Core.stallFrom_writeBytes (c : Core) (a : Nat) (l : List Byte) : (c.writeBytes a l).stallFrom = c.stallFrom := by
  obtain ⟨m, u, h⟩ := Core.writeAt_eq c c.lc.toNat 0 a l; rw [Core.writeBytes, h]
@[simp] theorem Core.stallClk_writeBytes (c : Core) (a : Nat) (l : List Byte) : (c.writeBytes a l).stallClk = c.stallClk := by
  obtain ⟨m, u, h⟩ := Core.writeAt_eq c c.lc.toNat 0 a l; rw [Core.writeBytes, h]
@[simp] theorem Core.fetchClk_writeBytes (c : Core) (a : Nat) (l : List Byte) : (c.writeBytes a l).fetchClk = c.fetchClk := by
  obtain ⟨m, u, h⟩ := Core.writeAt_eq c c.lc.toNat 0 a l; rw [Core.writeBytes, h]
@[simp] theorem Core.clks_writeBytes (c : Core) (a : Nat) (l : List Byte) : (c.writeBytes a l).clks = c.clks := by
  obtain ⟨m, u, h⟩ := Core.writeAt_eq c c.lc.toNat 0 a l; rw [Core.writeBytes, h]
@[simp] theorem Core.nullRun_writeBytes (c : Core) (a : Nat) (l : List Byte) : (c.writeBytes a l).nullRun = c.nullRun := by
  obtain ⟨m, u, h⟩ := Core.writeAt_eq c c.lc.toNat 0 a l; rw [Core.writeBytes, h]
@[simp] theorem Core.ordLoads_writeBytes (c : Core) (a : Nat) (l : List Byte) : (c.writeBytes a l).ordLoads = c.ordLoads := by
  obtain ⟨m, u, h⟩ := Core.writeAt_eq c c.lc.toNat 0 a l; rw [Core.writeBytes, h]
@[simp] theorem Core.ordStores_writeBytes (c : Core) (a : Nat) (l : List Byte) : (c.writeBytes a l).ordStores = c.ordStores := by
  obtain ⟨m, u, h⟩ := Core.writeAt_eq c c.lc.toNat 0 a l; rw [Core.writeBytes, h]
@[simp] theorem Core.ordMsgs_writeBytes (c : Core) (a : Nat) (l : List Byte) : (c.writeBytes a l).ordMsgs = c.ordMsgs := by
  obtain ⟨m, u, h⟩ := Core.writeAt_eq c c.lc.toNat 0 a l; rw [Core.writeBytes, h]
@[simp] theorem Core.seen_writeBytes (c : Core) (a : Nat) (l : List Byte) : (c.writeBytes a l).seen = c.seen := by
  obtain ⟨m, u, h⟩ := Core.writeAt_eq c c.lc.toNat 0 a l; rw [Core.writeBytes, h]
@[simp] theorem Core.fences_writeBytes (c : Core) (a : Nat) (l : List Byte) : (c.writeBytes a l).fences = c.fences := by
  obtain ⟨m, u, h⟩ := Core.writeAt_eq c c.lc.toNat 0 a l; rw [Core.writeBytes, h]
@[simp] theorem Core.lent_writeBytes (c : Core) (a : Nat) (l : List Byte) : (c.writeBytes a l).lent = c.lent := by
  obtain ⟨m, u, h⟩ := Core.writeAt_eq c c.lc.toNat 0 a l; rw [Core.writeBytes, h]
@[simp] theorem Core.groupPoison_writeBytes (c : Core) (a : Nat) (l : List Byte) : (c.writeBytes a l).groupPoison = c.groupPoison := by
  obtain ⟨m, u, h⟩ := Core.writeAt_eq c c.lc.toNat 0 a l; rw [Core.writeBytes, h]
@[simp] theorem Core.bad_writeBytes (c : Core) (a : Nat) (l : List Byte) : (c.writeBytes a l).bad = c.bad := by
  obtain ⟨m, u, h⟩ := Core.writeAt_eq c c.lc.toNat 0 a l; rw [Core.writeBytes, h]
@[simp] theorem Core.busyUntil_writeBytes (c : Core) (a : Nat) (l : List Byte) : (c.writeBytes a l).busyUntil = c.busyUntil := by
  obtain ⟨m, u, h⟩ := Core.writeAt_eq c c.lc.toNat 0 a l; rw [Core.writeBytes, h]
@[simp] theorem Core.accAfter_writeBytes (c : Core) (a : Nat) (l : List Byte) : (c.writeBytes a l).accAfter = c.accAfter := by
  obtain ⟨m, u, h⟩ := Core.writeAt_eq c c.lc.toNat 0 a l; rw [Core.writeBytes, h]
@[simp] theorem Core.chanErr_writeBytes (c : Core) (a : Nat) (l : List Byte) : (c.writeBytes a l).chanErr = c.chanErr := by
  obtain ⟨m, u, h⟩ := Core.writeAt_eq c c.lc.toNat 0 a l; rw [Core.writeBytes, h]
@[simp] theorem Core.regFaults_writeBytes (c : Core) (a : Nat) (l : List Byte) : (c.writeBytes a l).regFaults = c.regFaults := by
  obtain ⟨m, u, h⟩ := Core.writeAt_eq c c.lc.toNat 0 a l; rw [Core.writeBytes, h]
@[simp] theorem Core.lastPc_writeBytes (c : Core) (a : Nat) (l : List Byte) : (c.writeBytes a l).lastPc = c.lastPc := by
  obtain ⟨m, u, h⟩ := Core.writeAt_eq c c.lc.toNat 0 a l; rw [Core.writeBytes, h]
@[simp] theorem Core.lastLc_writeBytes (c : Core) (a : Nat) (l : List Byte) : (c.writeBytes a l).lastLc = c.lastLc := by
  obtain ⟨m, u, h⟩ := Core.writeAt_eq c c.lc.toNat 0 a l; rw [Core.writeBytes, h]
@[simp] theorem Core.opSeq_writeBytes (c : Core) (a : Nat) (l : List Byte) : (c.writeBytes a l).opSeq = c.opSeq := by
  obtain ⟨m, u, h⟩ := Core.writeAt_eq c c.lc.toNat 0 a l; rw [Core.writeBytes, h]
@[simp] theorem Core.sstepLc_writeBytes (c : Core) (a : Nat) (l : List Byte) : (c.writeBytes a l).sstepLc = c.sstepLc := by
  obtain ⟨m, u, h⟩ := Core.writeAt_eq c c.lc.toNat 0 a l; rw [Core.writeBytes, h]

/-! ## Registers -/

theorem Core.rdS_wrS_same (c : Core) (n : SReg) (v : Word) (h : n ≠ 0) : (c.wrS n v).rdS n = v := by simp [Core.rdS, Core.wrS, h]
theorem Core.rdS_wrS_ne (c : Core) {n m : SReg} (v : Word) (h : m ≠ n) : (c.wrS n v).rdS m = c.rdS m := by
  by_cases hm : m = 0
  · simp [Core.rdS, hm]
  by_cases hn : n = 0
  · simp [Core.wrS, hn]
  · simp only [Core.rdS, Core.wrS, hm, hn, if_false]
    exact Vector.getElem_set_ne n.isLt m.isLt (fun e => h (Fin.ext e.symm))
theorem Core.rdS_zero (c : Core) : c.rdS 0 = 0 := by simp [Core.rdS]
theorem Core.wrS_zero (c : Core) (v : Word) : c.wrS 0 v = c := by simp [Core.wrS]
theorem Core.rdP_zero (c : Core) : c.rdP 0 = true := by simp [Core.rdP]
theorem Core.wrP_zero (c : Core) (v : Bool) : c.wrP 0 v = c := by simp [Core.wrP]
theorem Core.rdM_zero (c : Core) : c.rdM 0 = BitVec.allOnes 64 := by simp [Core.rdM]
theorem Core.wrM_zero (c : Core) (mask v : BitVec 64) : c.wrM 0 mask v = c := by simp [Core.wrM]

end Sys2Proof.Machine
end

