-- ==== Sys2Proof/Laws/Issue.lean ====
section
/-! SUPPORT. The issue stage on a bundle of one operation: when nothing holds it and nothing traps, it acts and the core advances. -/

namespace Sys2Proof.Machine

variable {s : State} {op : SlotOp} {i : Instr}

/-! ## What stands against the registers -/

theorem State.Clear.regWait {reads writes : List Reg} (h : s.Clear reads writes) (sub : Nat) {r : Reg} (hr : r ∈ reads ++ writes) :
    s.regWait s.cur sub r = none := by
  unfold State.regWait
  split
  · rfl
  · rename_i hw
    rw [Option.map_eq_none_iff, List.find?_eq_none]
    intro a ha hp
    simp only [Bool.and_eq_true, beq_iff_eq] at hp
    rcases h.late a ha hp.1.1 hp.1.2 r hr with h1 | h1
    · exact absurd h1 hw
    · exact absurd (List.contains_iff_mem.mp hp.2) h1

theorem State.Clear.lateWait {reads writes : List Reg} (h : s.Clear reads writes) {r : Reg} (hr : r ∈ reads) : s.lateWait s.cur r = none := by
  unfold State.lateWait
  split
  · rfl
  · rename_i hw
    rw [Option.map_eq_none_iff, List.find?_eq_none]
    intro a ha hp
    simp only [Bool.and_eq_true, beq_iff_eq, decide_eq_true_eq] at hp
    rcases h.lateCl a ha hp.1.1 hp.2 r hr with h1 | h1
    · exact absurd h1 hw
    · exact absurd hp.1.2 h1

theorem State.Clear.readWaits {reads writes : List Reg} (h : s.Clear reads writes) {r : Reg} (hr : r ∈ reads) : s.readWaits s.cur r = [] := by
  simp [State.readWaits, h.regWait 1 (List.mem_append_left _ hr), h.lateWait hr]

theorem State.Clear.regCheck {reads writes : List Reg} (h : s.Clear reads writes) {r : Reg} (hr : r ∈ .p 0 :: reads) :
    s.regCheck s.cur r = none := by
  have hb : s.me.bad.contains (.reg r) = false := by simpa using h.sound r hr
  unfold State.regCheck
  simp only [State.me] at hb
  split <;> first | rfl | simp only [hb, Bool.false_eq_true, if_false]

theorem State.sbTrap_wired (s : State) (k : Nat) {r : Reg} (h : r.wired = true) (d : Nat) : s.sbTrap k r d = none := by simp [State.sbTrap, h]

theorem State.Clear.sbTrap {reads writes : List Reg} (h : s.Clear reads writes) {r : Reg} (hr : r ∈ reads) (d : Nat) :
    s.sbTrap s.cur r d = none := by
  by_cases hs : s.me.sbchk = true
  · rcases h.board hs r hr with h1 | h1
    · exact State.sbTrap_wired _ _ h1 d
    · have : ¬ (s.core s.cur).lc.toNat + d < s.visAt s.cur r := by simp only [State.me] at h1; omega
      simp [State.sbTrap, this]
  · simp only [State.me] at hs
    simp [State.sbTrap, hs]

theorem State.Clear.regReports {writes : List Reg} (h : s.Clear (op.reads.map (·.1)) writes) : s.me.regReports [op] = [] := by
  unfold Core.regReports
  rw [List.map_eq_nil_iff, List.filter_eq_nil_iff]
  intro p hp
  have := h.failed p hp
  simp only [List.any_cons, List.any_nil, Bool.or_false, List.any_eq_true, beq_iff_eq, not_exists, not_and]
  intro r hr e
  exact this (List.mem_map.mpr ⟨r, hr, e⟩)

theorem Core.addrUpset_nil {c : Core} (h : c.upsets = []) : c.addrUpset = none := by simp [Core.addrUpset, h]
theorem Core.laneUpset_nil {c : Core} (h : c.upsets = []) : c.laneUpset = none := by simp [Core.laneUpset, h]

theorem State.Clear.addrTrap {reads writes : List Reg} (h : s.Clear reads writes) : s.addrTrap s.cur op = none := by
  unfold State.addrTrap
  rcases h.steady with h1 | h1
  · simp only [State.cov] at h1
    split
    · rfl
    · split <;> simp [h1]
  · simp only [State.me] at h1
    simp [Core.addrUpset_nil h1]

theorem State.Clear.laneDiffers {reads writes : List Reg} (h : s.Clear reads writes) : s.laneDiffers s.cur = false := by
  unfold State.laneDiffers
  rcases h.steady with h1 | h1
  · simp only [State.cov] at h1
    simp [h1]
  · simp only [State.me] at h1
    simp [Core.laneUpset_nil h1]

/-! ## Tiles -/

theorem State.TilesFree.tileWait {ts : List Nat} (h : s.TilesFree ts) : s.me.tileWait ts = none := by
  unfold Core.tileWait
  rw [Option.map_eq_none_iff, List.find?_eq_none]
  intro t ht
  simp [(h t ht).1]

theorem State.TilesFree.overrunTrap {ts : List Nat} (h : s.TilesFree ts) : s.me.overrunTrap ts = none := by
  unfold Core.overrunTrap
  rw [Option.map_eq_none_iff, List.find?_eq_none]
  intro t ht
  simp [(h t ht).2]

/-! ## Streams -/

theorem Core.streamsOf_unbound {l : List Reg} (h : s.Unbound l) : s.me.streamsOf l = [] := by
  unfold Core.streamsOf
  rw [List.filterMap_eq_nil_iff]
  intro r hr
  cases r <;> first | rfl | exact h _ hr

theorem State.Unbound.left {l m : List Reg} (h : s.Unbound (l ++ m)) : s.Unbound l := fun n hn => h n (List.mem_append_left _ hn)
theorem State.Unbound.right {l m : List Reg} (h : s.Unbound (l ++ m)) : s.Unbound m := fun n hn => h n (List.mem_append_right _ hn)

theorem bundlePops_unbound (h : s.Unbound (op.reads.map (·.1))) : bundlePops s.me [op] = [] := by
  simp [bundlePops, Core.streamsOf_unbound h]

theorem bundlePushes_unbound (h : s.Unbound op.writes) : bundlePushes s.me [op] = [] := by
  simp [bundlePushes, Core.streamsOf_unbound h]

theorem pushedGroups_unbound (h : s.Unbound op.writes) : s.me.pushedGroups [op] = [] := by
  simp [Core.pushedGroups, bundlePushes_unbound h]

/-- What an operation reads of the scratchpad, where it names no bound stream. -/
theorem State.issueLooks_unbound (h : s.Unbound (op.reads.map (·.1))) : s.issueLooks s.cur [op] = op.looks s := by
  have hp := bundlePops_unbound (op := op) h
  simp only [State.me] at hp
  simp [State.issueLooks, hp]

theorem State.settled_nil (s : State) : s.Settled [] := fun _ _ _ _ _ h => absurd h List.not_mem_nil

theorem State.Settled.groupWait {ops : List SlotOp} (h : s.Settled (s.issueLooks s.cur ops)) : s.groupWait s.cur ops = none := by
  unfold State.groupWait
  rw [Option.bind_eq_none_iff]
  intro g hg
  have hm := List.mem_of_find?_eq_some hg
  have hp := List.find?_some hg
  simp only [List.any_eq_true] at hp
  obtain ⟨x, hx, y, hy, hxy⟩ := hp
  exact absurd hxy (by simp [h g hm x hx y hy])

theorem State.streamsGo_of_unbound (h : s.Unbound (op.reads.map (·.1) ++ op.writes)) (hl : s.Settled (op.looks s)) : s.StreamsGo op where
  settled := by rw [State.issueLooks_unbound h.left]; exact hl
  misuse := by simp [Core.streamMisuse, Core.streamsOf_unbound h.left, Core.streamsOf_unbound h.right]
  waits := by
    have hp := bundlePops_unbound (op := op) h.left
    have hq := bundlePushes_unbound (op := op) h.right
    unfold State.streamWaits
    simp only [State.me] at hp hq
    simp [hp, hq]
  tiles := by
    have hp := bundlePops_unbound (op := op) h.left
    have hq := bundlePushes_unbound (op := op) h.right
    simp [Core.streamTiles, hp, pushedGroups_unbound h.right, State.TilesFree]
  check := by
    have hp := Core.streamsOf_unbound h.left
    have hq := Core.streamsOf_unbound h.right
    simp only [State.me] at hp hq
    simp [State.streamCheck, hp, hq]

theorem State.popped_unbound (h : s.Unbound (op.reads.map (·.1))) : s.popped op = s := by
  simp [State.popped, bundlePops_unbound h]

/-! ## The verdict and the issue -/

/-- What an operation's own checks must answer for it to issue. -/
structure State.Passes (s : State) (op : SlotOp) : Prop where
  tiles : s.TilesFree (op.tiles s)
  wait : op.wait s = []
  instead : op.instead s = none
  place : op.place s = true → s.PlaceFree
  takes : op.takes s = []
  scales : ∀ r ∈ op.scales s, s.sbTrap s.cur r 0 = none
  check : op.check s = none
  owner : s.ownerTrap s.cur [{ word := opWord i, guard := 0, on := true, op := op }] op = none
  pop : s.popTrap s.cur [{ word := opWord i, guard := 0, on := true, op := op }] op = none
  last : op.last s = none
  stuck : op.stuck s = false

/-- What comes before an operation's own check raises nothing. -/
theorem State.before_check (h : s.Clear (op.reads.map (·.1)) op.writes) (hs : s.StreamsGo op) (hc : ∀ r ∈ op.scales s, s.sbTrap s.cur r 0 = none) :
    s.regCheck s.cur (.p (0 : PReg).val) = none ∧ s.sbTrap s.cur (.p (0 : PReg).val) 0 = none ∧ (s.core s.cur).streamMisuse op = none
      ∧ (op.reads.findSome? fun r => s.regCheck s.cur r.1) = none ∧ (op.reads.findSome? fun r => s.sbTrap s.cur r.1 r.2) = none
      ∧ ((op.scales s).findSome? fun r => s.sbTrap s.cur r 0) = none ∧ s.addrTrap s.cur op = none ∧ s.streamCheck s.cur [op] op = none := by
  refine ⟨h.regCheck (by simp), State.sbTrap_wired _ _ rfl 0, ?_, ?_, ?_, ?_, h.addrTrap, hs.check⟩
  · have := hs.misuse; simpa only [State.me] using this
  · rw [List.findSome?_eq_none_iff]
    exact fun r hr => h.regCheck (List.mem_cons_of_mem _ (List.mem_map.mpr ⟨r, hr, rfl⟩))
  · rw [List.findSome?_eq_none_iff]
    exact fun r hr => h.sbTrap (List.mem_map.mpr ⟨r, hr, rfl⟩) r.2
  · rw [List.findSome?_eq_none_iff]
    exact hc

theorem SlotOp.alone_ops (op : SlotOp) (i : Instr) :
    (List.filter (fun x : IssueSlot => x.on) [{ word := opWord i, guard := 0, on := true, op := op }]).map (·.op) = [op] := rfl

theorem State.slotTrap_none (h : s.Clear (op.reads.map (·.1)) op.writes) (hs : s.StreamsGo op) (hp : s.Passes (i := i) op) :
    s.slotTrap s.cur (op.alone i) { word := opWord i, guard := 0, on := true, op := op } = none := by
  obtain ⟨h1, h2, h3, h4, h5, h6, h7, h8⟩ := State.before_check h hs hp.scales
  unfold State.slotTrap
  simp only [SlotOp.alone, SlotOp.alone_ops, h1, h2, h3, h4, h5, h6, h7, h8, hp.check, hp.owner, hp.pop, hp.last, if_true, Option.map_none,
    Option.orElse_eq_orElse, Option.orElse_eq_or, Option.none_or]

/-- A trap that an operation's own check raises, as the bundle reports it: the slot is the operation's, and INFO0 of an illegal
instruction is its 60 bits (R354, R374). -/
def Trap.raisedBy (t : Trap) (op : SlotOp) (i : Instr) : Trap :=
  if t.defer then t else { t with slot := op.slot, info0 := if t.cause = 3 then BitVec.ofNat 64 (opWord i) else t.info0 }

theorem State.slotTrap_check (h : s.Clear (op.reads.map (·.1)) op.writes) (hs : s.StreamsGo op) (hc : ∀ r ∈ op.scales s, s.sbTrap s.cur r 0 = none)
    {t : Trap} (ht : op.check s = some t) :
    s.slotTrap s.cur (op.alone i) { word := opWord i, guard := 0, on := true, op := op } = some (t.raisedBy op i) := by
  obtain ⟨h1, h2, h3, h4, h5, h6, h7, h8⟩ := State.before_check h hs hc
  unfold State.slotTrap
  simp only [SlotOp.alone, SlotOp.alone_ops, h1, h2, h3, h4, h5, h6, h7, h8, ht, if_true, Option.map_some, Option.orElse_eq_orElse, Option.orElse_eq_or,
    Option.none_or, Option.some_or, Trap.raisedBy]

theorem State.placeWaits_nil (hp : op.place s = true → s.PlaceFree) : s.placeWaits s.cur (op.alone i) = [] := by
  unfold State.placeWaits SlotOp.alone
  by_cases h : op.place s = true
  · have := hp h
    simp only [State.PlaceFree] at this
    obtain ⟨n, hn⟩ : ∃ n, 64 - s.inFlight s.cur = n + 1 := ⟨63 - s.inFlight s.cur, by omega⟩
    simp [h, hn]
  · simp [h]

theorem State.waits_nil (h : s.Clear (op.reads.map (·.1)) op.writes) (hs : s.StreamsGo op) (ht : s.TilesFree (op.tiles s))
    (hw : op.wait s = []) (hp : op.place s = true → s.PlaceFree) : s.waits s.cur (op.alone i) = [] := by
  have h1 : (op.reads.flatMap fun r => s.readWaits s.cur r.1) = [] := by
    rw [List.flatMap_eq_nil_iff]
    exact fun r hr => h.readWaits (List.mem_map.mpr ⟨r, hr, rfl⟩)
  have h2 : (op.writes.filterMap fun r => s.regWait s.cur 0x0B r) = [] := by
    rw [List.filterMap_eq_nil_iff]
    intro r hr
    exact h.regWait 0x0B (List.mem_append_right _ hr)
  have h3 := ht.tileWait
  have h4 := hs.tiles.tileWait
  have h5 := State.placeWaits_nil (i := i) hp
  simp only [State.me] at h3 h4
  simp only [SlotOp.alone] at h5
  simp [State.waits, SlotOp.alone, h1, h2, h3, h4, hw, hs.waits, hs.settled.groupWait, h5]

/-- The operation and its streams meet no deferred report. -/
theorem State.metReports_nil (h : s.Clear (op.reads.map (·.1)) op.writes) (hs : s.StreamsGo op) (ht : s.TilesFree (op.tiles s))
    (hk : op.takes s = []) : s.metReports s.cur (op.alone i) [] = [] := by
  have hr := h.regReports
  have h1 := ht.overrunTrap
  have h2 := hs.tiles.overrunTrap
  simp only [State.me] at hr h1 h2
  have hc : (s.core s.cur).chanErr.filter (s.chanHeld s.cur (op.alone i) []) = [] := by
    rw [List.filter_eq_nil_iff]
    intro e _
    have ht' : ∀ t ∈ op.tiles s ++ (s.core s.cur).streamTiles [op], ((s.core s.cur).tile t).engine = false := by
      intro t hm
      rcases List.mem_append.mp hm with h3 | h3
      · exact (ht t h3).1
      · exact (hs.tiles t h3).1
    simp only [State.chanHeld, List.any_nil, Bool.false_or, State.issueTiles, SlotOp.alone, SlotOp.alone_ops, List.flatMap_cons, List.flatMap_nil,
      List.append_nil, Bool.not_eq_true, List.any_eq_false]
    intro t hm
    simp [ht' t hm]
  unfold State.metReports
  rw [hc]
  simp [SlotOp.alone, hr, State.overrunReports, h1, h2, hk]

theorem State.judge_trap (h : s.Clear (op.reads.map (·.1)) op.writes) (hs : s.StreamsGo op) (ht : s.TilesFree (op.tiles s))
    (hw : op.wait s = []) (hi : op.instead s = none) (hp : op.place s = true → s.PlaceFree) (hk : op.takes s = [])
    (hx : ∀ r ∈ op.scales s, s.sbTrap s.cur r 0 = none) {t : Trap} (hc : op.check s = some t) :
    s.judge s.cur (op.alone i) = .trap (t.raisedBy op i) := by
  have h1 := State.waits_nil (i := i) h hs ht hw hp
  have h2 := State.metReports_nil (i := i) h hs ht hk
  have h3 := State.slotTrap_check (i := i) h hs hx hc
  unfold State.judge
  simp only [h1, List.append_nil, h2, oldestTrap, firstWait, List.foldl_nil]
  simp only [SlotOp.alone] at h3 ⊢
  simp only [SlotOp.alone_ops, List.findSome?_cons, List.findSome?_nil, hi, h3]

/-- An operation whose own check raises a trap takes it in place of the bundle. -/
theorem SlotOp.run_traps (h : s.Clear (op.reads.map (·.1)) op.writes) (hs : s.StreamsGo op) (ht : s.TilesFree (op.tiles s))
    (hw : op.wait s = []) (hi : op.instead s = none) (hp : op.place s = true → s.PlaceFree) (hk : op.takes s = [])
    (hx : ∀ r ∈ op.scales s, s.sbTrap s.cur r 0 = none) {t : Trap} (hc : op.check s = some t) (h21 : ¬ (t.cause = 0x21 ∧ t.sub = 2)) :
    op.run i s = .next (s.trap s.cur (t.raisedBy op i) s.me.pc s.me.lc) := by
  unfold SlotOp.run State.issueBundle
  simp only [State.judge_trap h hs ht hw hi hp hk hx hc]
  have hn : ¬ ((t.raisedBy op i).cause = 0x21 ∧ (t.raisedBy op i).sub = 2) := by
    unfold Trap.raisedBy
    split <;> exact h21
  have : s.spendAddr s.cur (t.raisedBy op i) = s := by
    unfold State.spendAddr
    split
    · rw [if_neg (by simpa using hn)]
    · rfl
  rw [this]
  rfl

theorem State.judge_go (h : s.Clear (op.reads.map (·.1)) op.writes) (hs : s.StreamsGo op) (hp : s.Passes (i := i) op) :
    s.judge s.cur (op.alone i) = .go := by
  have h1 := State.waits_nil (i := i) h hs hp.tiles hp.wait hp.place
  have h2 := State.metReports_nil (i := i) h hs hp.tiles hp.takes
  have h3 := State.slotTrap_none (i := i) h hs hp
  unfold State.judge
  simp only [h1, List.append_nil, h2, oldestTrap, firstWait, List.foldl_nil]
  simp only [SlotOp.alone] at h3 ⊢
  simp only [SlotOp.alone_ops, List.findSome?_cons, List.findSome?_nil, hp.instead, h3, List.any_cons, List.any_nil, hp.stuck, Bool.or_false,
    Bool.false_eq_true, if_false]

/-- A bundle of one operation pops streams that the operation reads. -/
theorem mem_bundlePops {c : Core} {f : Fin 8} (h : f ∈ bundlePops c [op]) :
    (c.streamsOf (op.reads.map (·.1))).any (fun p => p.1 == f) = true := by
  have hall : ∀ x ∈ bundlePops c [op], (c.streamsOf (op.reads.map (·.1))).any (fun p => p.1 == x) = true := by
    unfold bundlePops
    refine List.foldlRecOn (motive := fun l => ∀ x ∈ l, (c.streamsOf (op.reads.map (·.1))).any (fun p => p.1 == x) = true) _ _ (fun _ hx => absurd hx List.not_mem_nil) fun acc hacc y hy x hx => ?_
    split at hx
    · exact hacc x hx
    · rcases List.mem_append.mp hx with hx | hx
      · exact hacc x hx
      · simp only [List.flatMap_cons, List.flatMap_nil, List.append_nil] at hy
        obtain ⟨p, hp, hpy⟩ := List.mem_map.mp hy
        exact List.any_eq_true.mpr ⟨p, hp, by rw [List.mem_singleton.mp hx, ← hpy]; exact beq_self_eq_true _⟩
  exact hall f h

/-- A look at no bytes leaves the state as it is. -/
@[simp] theorem State.look_nil (s : State) (k : Nat) : s.look k [] = s := rfl

/-- A bundle of one operation issues. -/
theorem SlotOp.run_issues (h : s.Clear (op.reads.map (·.1)) op.writes) (hs : s.StreamsGo op) (hp : s.Passes (i := i) op) :
    op.run i s = .next (op.after s.me.pc
      ((op.act ((op.pre (s.popped op)).look s.cur (op.looks s))).advance s.cur (s.nextPc s.cur) 0 1 (predWrites [op]))) := by
  have hj := State.judge_go h hs hp
  unfold SlotOp.run State.issueBundle
  simp only [hj]
  have hx : (List.filter (fun x : IssueSlot => x.on) (op.alone i)).map (·.op) = [op] := rfl
  have hy : (op.alone i).map (·.op) = [op] := rfl
  have hperf : s.perform s.cur (op.alone i) = op.act ((op.pre (s.popped op)).look s.cur (op.looks s)) := by
    unfold State.perform State.popped
    simp only [h.laneDiffers, Bool.false_eq_true, if_false, hx, List.foldl_cons, List.foldl_nil, List.flatMap_cons, List.flatMap_nil, List.append_nil]
    congr 3
    refine List.foldl_rel (r := Eq) rfl fun f hf t _ ht => ?_
    subst ht
    simp only [List.find?_cons, mem_bundlePops hf, Option.map_some, Option.getD_some]
  simp only [hperf, hx, hy, List.foldl_cons, List.foldl_nil]
  rfl

/-- The same for an operation that names no bound stream and that has no check, hands no tile over and pops no queue. -/
theorem SlotOp.run_plain (h : s.Clear (op.reads.map (·.1)) op.writes) (hu : s.Unbound (op.reads.map (·.1) ++ op.writes))
    (ht : s.TilesFree (op.tiles s)) (hw : op.wait s = []) (hi : op.instead s = none) (hc : op.check s = none) (hh : op.hands = none)
    (hq : op.pops = none) (hl : op.last s = none) (hp : op.place s = true → s.PlaceFree) (hk : op.takes s = [])
    (hx : ∀ r ∈ op.scales s, s.sbTrap s.cur r 0 = none) (hg : s.Settled (op.looks s)) (hb : op.stuck s = false) :
    op.run i s = .next (op.after s.me.pc
      ((op.act ((op.pre s).look s.cur (op.looks s))).advance s.cur (s.nextPc s.cur) 0 1 (predWrites [op]))) := by
  have hp : s.Passes (i := i) op :=
    { tiles := ht, wait := hw, instead := hi, check := hc, last := hl, place := hp, takes := hk, scales := hx, stuck := hb
      owner := by simp [State.ownerTrap, hh]
      pop := by simp [State.popTrap, hq] }
  rw [SlotOp.run_issues h (State.streamsGo_of_unbound hu hg) hp, State.popped_unbound hu.left]

end Sys2Proof.Machine
end

