-- ==== Sys2Proof/Laws/Scalar.lean ====
section
/-! SUPPORT. What a bundle of one A-slot operation does when it issues: one lemma for each shape. -/

namespace Sys2Proof.Machine

variable {s : State} {i : Instr}

/-- Lists of scalar, predicate, mask, tile or accumulator registers name no stream. -/
theorem State.unbound_of_noV {l : List Reg} (h : ∀ r ∈ l, ∀ n, r ≠ .v n) : s.Unbound l := fun n hn => absurd rfl (h _ hn n)

theorem State.tilesFree_nil : s.TilesFree [] := fun _ h => absurd h (List.not_mem_nil)

theorem predWrites_p (op : SlotOp) (n : Nat) (h : op.writes = [.p n]) : predWrites [op] = BitVec.ofNat 16 (2 ^ n) := by
  simp [predWrites, h]

theorem predWrites_nil (op : SlotOp) (h : op.writes = []) : predWrites [op] = 0 := by simp [predWrites, h]

/-- An operation that has no condition of its own and names no vector register. -/
theorem SlotOp.run_simple {op : SlotOp} (h : s.Clear (op.reads.map (·.1)) op.writes)
    (hv : ∀ r ∈ op.reads.map (·.1) ++ op.writes, ∀ n, r ≠ .v n) (ht : op.tiles s = []) (hw : op.wait s = []) (hi : op.instead s = none)
    (hc : op.check s = none) (hh : op.hands = none) (hq : op.pops = none) (hl : op.last s = none)
    (hp : op.place s = false) (hk : op.takes s = []) (hx : op.scales s = []) (hg : op.looks s = []) (hb : op.stuck s = false) :
    op.run i s = .next (op.after s.me.pc ((op.act (op.pre s)).advance s.cur (s.nextPc s.cur) 0 1 (predWrites [op]))) := by
  have := SlotOp.run_plain (i := i) h (State.unbound_of_noV hv) (by rw [ht]; exact State.tilesFree_nil) hw hi hc hh hq hl
    (by simp [hp]) hk (by simp [hx]) (by rw [hg]; exact s.settled_nil) hb
  simpa only [hg, State.look_nil] using this

theorem run_alu1 {lat : Nat} {d a : SReg} {f : Word → Word} (h : s.Clear [.s a.val] [.s d.val]) :
    (alu1 lat d a f).run i s = .next (s.issues fun t => t.putS 1 d (f (s.me.rdS a)) lat) :=
  SlotOp.run_simple (op := alu1 lat d a f) h (by simp [alu1, rS]) rfl rfl rfl rfl rfl rfl rfl rfl rfl rfl rfl rfl

theorem run_alu2 {lat : Nat} {d a b : SReg} {f : Word → Word → Word} (h : s.Clear [.s a.val, .s b.val] [.s d.val]) :
    (alu2 lat d a b f).run i s = .next (s.issues fun t => t.putS 1 d (f (s.me.rdS a) (s.me.rdS b)) lat) :=
  SlotOp.run_simple (op := alu2 lat d a b f) h (by simp [alu2, rS]) rfl rfl rfl rfl rfl rfl rfl rfl rfl rfl rfl rfl

end Sys2Proof.Machine
end

