-- ==== Sys2Proof/Tests/Slice0.lean ====
section
/-! SUPPORT. Tests: ill-formed terms are refused, words that the spec writes out decode, single steps, and a state that meets the
hypotheses of each statement. -/

namespace Sys2Proof.Tests
open Sys2Proof Sys2Proof.Machine
set_option Elab.async false

/-! ## Each check of `Instr.wf` refuses a term -/

theorem test_wf_loop_empty : Instr.wf (.loop 1 0) = false := by decide
theorem test_wf_bfx_past_63 : Instr.wf (.bfx 1 2 60 5) = false := by decide
theorem test_wf_bfi_length_64_at_1 : Instr.wf (.bfi 1 2 3 1 0) = false := by decide
theorem test_wf_scvt_from_tri5 : Instr.wf (.scvt 1 2 .tri5 .fp32 .rne .sat) = false := by decide
theorem test_wf_scvt_to_tri2 : Instr.wf (.scvt 1 2 .fp32 .tri2 .rne .sat) = false := by decide
theorem test_wf_vcvt_tapered_rounds_to_nearest : Instr.wf (.vcvt 1 2 .fp32 .tap16 .rtz .sat 0) = false := by decide
theorem test_wf_vpack_narrow_source : Instr.wf (.vpack 1 2 .bf16 .fp16 .rne .sat 0) = false := by decide
theorem test_wf_vpack_part_of_16_bits : Instr.wf (.vpack 1 2 .fp32 .bf16 .rne .sat 2) = false := by decide
theorem test_wf_vpack_part_of_8_bits : Instr.wf (.vpack 1 2 .fp32 .i8 .rne .sat 3) = true := by decide
theorem test_wf_vunpk_wide_source : Instr.wf (.vunpk 1 2 .fp32 .fp32 .rne .sat 0) = false := by decide
theorem test_wf_vshuf_rot_names_no_vb : Instr.wf (.vshuf 1 2 3 .rot 4 0) = false := by decide
theorem test_wf_vshuf_zip_has_no_k : Instr.wf (.vshuf 1 2 3 .ziplo 1 0) = false := by decide
theorem test_wf_vshuf_rev : Instr.wf (.vshuf 1 2 0 .rev 1 0) = false := by decide
theorem test_wf_mma_window : Instr.wf (.mma 57 0 1 false true .linear) = false := by decide
theorem test_wf_mmt_window : Instr.wf (.mmt 57 0 1 false true .linear) = false := by decide
theorem test_wf_aclr_window : Instr.wf (.aclr 57) = false := by decide
theorem test_wf_agive_window : Instr.wf (.agive 57) = false := by decide
theorem test_wf_ald_columns : Instr.wf (.ald 0 1 63 0 1) = false := by decide
theorem test_wf_ald_words : Instr.wf (.ald 0 0 63 32 1) = false := by decide
theorem test_wf_acpy_rows : Instr.wf (.acpy 511 0 0 1 1) = false := by decide
theorem test_wf_drain_rows : Instr.wf (.drain 0 0 64 .fp32 .rne .sat 0 0) = false := by decide
theorem test_wf_drain_base_unused : Instr.wf (.drain 0 0 0 .fp32 .rne .sat 1 5) = false := by decide
theorem test_wf_drain_to_ternary : Instr.wf (.drain 0 0 0 .tri2 .rne .sat 0 0) = false := by decide
theorem test_wf_ld_signed_64 : Instr.wf (.ld 1 2 0 .b8 true .localS false 0 .plain .task) = false := by decide
theorem test_wf_ld_tag_in_device_space : Instr.wf (.ld 1 2 0 .b8 false .device true 0 .plain .task) = false := by decide
theorem test_wf_st_order_in_local_space : Instr.wf (.st 1 2 0 .b8 .localS false 0 .acqRel .task) = false := by decide
theorem test_wf_vld_tag_in_cluster_space : Instr.wf (.vld 1 2 0 0 0 .cluster false 1) = false := by decide
theorem test_wf_vst_tag_in_device_space : Instr.wf (.vst 1 2 0 0 0 .device true 0) = false := by decide
theorem test_wf_ldw_signed_64 : Instr.wf (.ldw 1 0 0 .b8 true) = false := by decide
theorem test_wf_give_count_0 : Instr.wf (.give 0 true 0) = false := by decide
theorem test_wf_give_count_65 : Instr.wf (.give 0 true 65) = false := by decide
theorem test_wf_give_tile_384 : Instr.wf (.give 384 true 1) = false := by decide
theorem test_wf_tagrd_tile_384 : Instr.wf (.tagrd 1 384) = false := by decide
theorem test_wf_tfmt_tile_384 : Instr.wf (.tfmt 384 .fp32) = false := by decide
theorem test_wf_atom_third_operand : Instr.wf (.atom 1 2 3 4 .add true .device .task) = false := by decide
theorem test_wf_atom_float_of_64_bits : Instr.wf (.atom 1 2 3 0 .fadd32 true .device .task) = false := by decide
theorem test_wf_atomd_exchange : Instr.wf (.atomd 1 2 .xchg true .task) = false := by decide
theorem test_wf_casw_past_s63 : Instr.wf (.casw 61 2 8 16 true .task) = false := by decide
theorem test_wf_chase_no_hop : Instr.wf (.chase 1 2 0 0) = false := by decide
theorem test_wf_ratom_exchange_without_reply : Instr.wf (.ratom 0 1 2 3 .xchg true) = false := by decide
theorem test_wf_sendt_tile_384 : Instr.wf (.sendt 384 0) = false := by decide
theorem test_wf_recvt_tile_384 : Instr.wf (.recvt 384 0 0) = false := by decide
theorem test_wf_qsend_17_rows : Instr.wf (.qsend 0 0 16) = false := by decide
theorem test_wf_ksrch_inc_0 : Instr.wf (.ksrch 1 0 0 0) = false := by decide
theorem test_wf_kred_inc_0 : Instr.wf (.kred 1 0 0 0) = false := by decide
theorem test_wf_kop_inc_0 : Instr.wf (.kop 1 0 0 0) = false := by decide
theorem test_wf_event : Instr.wf .nodeEnd = false := by decide

/-! ## Slot words that the spec works out -/

theorem test_decode_br : decodeTableWord 400 (escaped 0 0x0281FFFFFFF40000) = some (.br 0xFFFFFFF4) := by decide +kernel
theorem test_decode_waitc : decodeTableWord 400 (escaped 0 0x000B40000000000D) = some (.waitcImm 2 13) := by decide +kernel
theorem test_decode_rewind : decodeTableWord 400 (escaped 0 0x000E000000000000) = some .rewind := by decide +kernel
theorem test_decode_addi : decodeTableWord 400 (escaped 1 0x0303144FFFFFFFF8) = some (.addi 5 4 0xFFFFFFFF8) := by decide +kernel
theorem test_decode_cmpi : decodeTableWord 400 (escaped 1 0x001E224000000000) = some (.cmpi 2 9 .eq 0) := by decide +kernel
theorem test_decode_vfma : decodeTableWord 400 (escaped 2 0x0013184434000000) = some (.vfma 3 1 2 3 2 0 .rne) := by decide +kernel
theorem test_decode_vshuf : decodeTableWord 400 (escaped 2 0x0031390A08600000) = some (.vshuf 7 4 5 .slidedn 3 0) := by decide +kernel
theorem test_decode_mma : decodeTableWord 400 (escaped 3 0x00054004A0000000) = some (.mma 16 0 1 false true .tree8) := by decide +kernel
theorem test_decode_mmt : decodeTableWord 400 (escaped 3 0x0006000880000000) = some (.mmt 0 0 2 false true .linear) := by decide +kernel
theorem test_decode_tld : decodeTableWord 400 (escaped 3 0x0003321100000000) = some (.tld 3 8 false true 1) := by decide +kernel
theorem test_decode_drain : decodeTableWord 400 (escaped 3 0x000A211E20C50000) = some (.drain 8 1 15 .fp32 .rne .sat 3 5) := by
  decide +kernel
theorem test_decode_ld_device : decodeTableWord 400 (escaped 4 0x000114400010580A)
    = some (.ld 5 4 16 .b4 true .device false 0 .acqRel .dev) := by decide +kernel
theorem test_decode_ld_local : decodeTableWord 400 (escaped 4 0x0001000010004260)
    = some (.ld 0 0 0x1000 .b4 false .localS true 3 .plain .task) := by decide +kernel
theorem test_decode_vst : decodeTableWord 400 (escaped 4 0x0004194000000200) = some (.vst 3 10 0 0 0 .device false 0) := by decide +kernel
theorem test_decode_give : decodeTableWord 400 (escaped 4 0x000903E000000000) = some (.give 7 true 64) := by decide +kernel
theorem test_decode_copygo : decodeTableWord 400 (escaped 4 0x000E060000000000) = some (.copygo 0 12) := by decide +kernel
theorem test_decode_send : decodeTableWord 400 (escaped 5 0x00011848000007E0) = some (.send 3 9 63) := by decide +kernel
theorem test_decode_recv : decodeTableWord 400 (escaped 5 0x0002284800007FE0) = some (.recv 5 9 15 63) := by decide +kernel
theorem test_decode_coll : decodeTableWord 400 (escaped 5 0x0006000000000000) = some (.coll 0 0 0 0) := by decide +kernel
theorem test_decode_ksrch : decodeTableWord 400 (escaped 5 0x00071DC010000000) = some (.ksrch 7 3 4 1) := by decide +kernel
theorem test_decode_kred : decodeTableWord 400 (escaped 5 0x0008191010000000) = some (.kred 6 2 1 1) := by decide +kernel
theorem test_decode_kop : decodeTableWord 400 (escaped 5 0x0009189010000000) = some (.kop 6 1 1 1) := by decide +kernel

/-- R117's worked bundle of two guarded slots, from its 24 code words. -/
theorem test_decode_two_slots :
    (decodeBundle { cmd := false, collHeld := [] } false (literalBundle ([0x0062, 0x0000, 0xF400, 0xFFFF, 0x81FF, 0xFF82, 0xFFFF, 0x44FF, 0x3031]
      ++ List.replicate 15 0))).toOption.map (fun b => (b.stall.val, b.restart, b.slots))
    = some (2, false, [{ g := 2, gn := true, op := .br 0xFFFFFFF4 }, { g := 3, gn := false, op := .addi 5 4 0xFFFFFFFF8 }]) := by decide +kernel

/-- An unassigned code word, a word of the dictionary, an unassigned opcode and a nonzero unused bit are refused. -/
theorem test_decode_unassigned_word : decodeTableWord 16 0x2000 = none := by decide +kernel
theorem test_decode_dictionary_word : decodeTableWord 16 0x0000 = none := by decide +kernel
theorem test_decode_unassigned_op : decodeTableWord 400 (escaped 1 0x0070000000000000) = none := by decide +kernel
theorem test_decode_unused_bit : decodeTableWord 400 (escaped 0 0x0000000000000001) = none := by decide +kernel

/-! ## Single steps, with values from the spec's examples or worked by hand -/

def testNode : Node :=
  { slot := 0, index := 0, seed := 0, image := probeImage, place := List.replicate 384 (0, 0), digest := 0, manifestAt := 0, aligned := true }

/-- A running node whose task 0 is about to issue. -/
def task (f : Core → Core := id) : State :=
  { State.reset with cores := [(0, f { Core.idle with phase := .running })], node := some testNode }

/-- A command core that runs a graph program. -/
def graphTask (f : Core → Core := id) : State :=
  { State.reset with
    cores := [(cmdKey, f { Core.idle with phase := .running })], cur := cmdKey, graph := some 0
    slots := [(0, { valid := true, st := .running, status := some 0x123 })] }

def runs (i : Instr) (s : State) (p : State → Bool) : Bool :=
  match exec i s with
  | .next t => p t
  | _ => false

def sregs (l : List (SReg × Word)) (c : Core) : Core := l.foldl (fun c p => c.wrS p.1 p.2) c

/-- The only result in flight. -/
def inFlight (t : State) : Option (Nat × Commit) := if t.me.pend.length = 1 then t.me.pend.head?.map fun p => (p.key, p.what) else none

theorem test_add_wraps : runs (.add 1 2 3) (task (sregs [(2, 0xFFFFFFFFFFFFFFFF), (3, 2)])) (fun t => t.me.rdS 1 == 1 && t.me.lc == 1) = true := by
  decide +kernel
theorem test_sub_borrows : runs (.sub 1 2 3) (task (sregs [(2, 1), (3, 2)])) (fun t => t.me.rdS 1 == 0xFFFFFFFFFFFFFFFF) = true := by decide +kernel
theorem test_add_to_s0 : runs (.add 0 2 3) (task (sregs [(2, 1), (3, 2)])) (fun t => t.me.rdS 0 == 0) = true := by decide +kernel
theorem test_mulh_of_minus_one : runs (.mulh 1 2 3) (task (sregs [(2, 0xFFFFFFFFFFFFFFFF), (3, 2)]))
    (fun t => inFlight t == some (6, .s 1 0xFFFFFFFFFFFFFFFF)) = true := by decide +kernel
theorem test_mulhn_of_ones : runs (.mulhn 1 2 3) (task (sregs [(2, 0xFFFFFFFFFFFFFFFF), (3, 2)]))
    (fun t => inFlight t == some (6, .s 1 1)) = true := by decide +kernel
theorem test_div_by_zero : runs (.div 1 2 3) (task (sregs [(2, 7)])) (fun t => inFlight t == some (36, .s 1 0xFFFFFFFFFFFFFFFF)) = true := by
  decide +kernel
theorem test_div_truncates : runs (.div 1 2 3) (task (sregs [(2, -7), (3, 2)])) (fun t => inFlight t == some (36, .s 1 (-3))) = true := by
  decide +kernel
theorem test_rem_sign_of_dividend : runs (.rem 1 2 3) (task (sregs [(2, -7), (3, 2)])) (fun t => inFlight t == some (36, .s 1 (-1))) = true := by
  decide +kernel
theorem test_rem_by_zero : runs (.rem 1 2 3) (task (sregs [(2, 7)])) (fun t => inFlight t == some (36, .s 1 7)) = true := by decide +kernel
theorem test_shl_by_64 : runs (.shl 1 2 3) (task (sregs [(2, 5), (3, 64)])) (fun t => t.me.rdS 1 == 5) = true := by decide +kernel
theorem test_sha_keeps_sign : runs (.sha 1 2 3) (task (sregs [(2, 0x8000000000000000), (3, 63)])) (fun t => t.me.rdS 1 == -1) = true := by
  decide +kernel
theorem test_lih_example : runs (.lih 3 0x1000) (task (sregs [(3, 0)])) (fun t => t.me.rdS 3 == 0x0040000000000000) = true := by decide +kernel
theorem test_clz_of_zero : runs (.clz 1 2) (task) (fun t => t.me.rdS 1 == 64) = true := by decide +kernel
theorem test_bfi_replaces_field : runs (.bfi 1 2 3 4 8) (task (sregs [(2, 0xFFFF), (3, 0x12)])) (fun t => t.me.rdS 1 == 0xF12F) = true := by
  decide +kernel
theorem test_cmpi_sign_extends : runs (.cmpi 2 9 .lt 0) (task (sregs [(9, -1)])) (fun t => t.me.rdP 2 && t.me.rdP 0) = true := by decide +kernel
theorem test_sfadd_one_and_one : runs (.sfadd 1 2 2 .rne) (task (sregs [(2, 0xFFFFFFFF3F800000)]))
    (fun t => inFlight t == some (8, .s 1 0x40000000)) = true := by decide +kernel
theorem test_scvt_saturates : runs (.scvt 1 2 .fp32 .i8 .rne .sat) (task (sregs [(2, 0x43800000)]))
    (fun t => inFlight t == some (8, .s 1 0x7F)) = true := by decide +kernel
theorem test_scvt_traps : runs (.scvt 1 2 .fp32 .i8 .rne .trap) (task (sregs [(2, 0x43800000)]))
    (fun t => (t.me.phase == .stopped) && ((t.node.bind (·.status)) == some 0x20)) = true := by decide +kernel
theorem test_chkeq_unequal : runs (.chkeq 1 2) (task (sregs [(1, 5)])) (fun t => (t.node.bind (·.status)) == some 0x21) = true := by
  decide +kernel

theorem test_br_back : runs (.br 0xFFFFFFF4) (task ({ · with pc := 0x400000001000 })) (fun t => t.me.pc == 0x400000000FE8) = true := by
  decide +kernel
theorem test_loop_of_none_goes_past : runs (.loop 1 1) (task fun c => { c with
    pc := 0x400000000010
    half0 := some { head := 0x400000000000, next := 0, rep := false,
                    items := [⟨0x400000000010, 2, .bundle 0⟩, ⟨0x400000000012, 2, .bundle 0⟩, ⟨0x400000000014, 2, .bundle 0⟩] } })
    (fun t => t.me.pc == 0x400000000014 && t.me.loops.isEmpty) = true := by decide +kernel
theorem test_waitc_reached : runs (.waitcImm 2 13) (task fun c => { c with chcnt := c.chcnt.set 2 13 }) (fun t => t.me.lc == 1) = true := by
  decide +kernel
theorem test_waitc_holds : runs (.waitcImm 2 13) (task fun c => { c with chcnt := c.chcnt.set 2 12 })
    (fun t => t.me.lc == 0 && t.clk == 1 && t.me.held.isSome) = true := by decide +kernel
theorem test_rft_outside_handler : runs .rft (task) (fun t => (t.node.bind (·.status)) == some 0x03) = true := by decide +kernel
theorem test_trap_enters_handler : runs (.trap 7) (task ({ · with trapvec := 0x400000002000 }))
    (fun t => t.me.inh && t.me.pc == 0x400000002000 && t.me.trap.cause == 0x0722 && t.me.trap.lc == 1) = true := by decide +kernel
theorem test_csrw_sticky_clears : runs (.csrw 0x031 1) (task fun c => sregs [(1, 1)] { c with sticky := 3 }) (fun t => t.me.sticky == 2) = true := by
  decide +kernel
theorem test_csrw_tcfg_keeps_named_bits : runs (.csrw 0x081 1) (task (sregs [(1, 0xFFFFFFFF)])) (fun t => t.me.tcfg[1] == 0x3FFFFF3) = true := by
  decide +kernel
theorem test_movps_reads_p0_as_1 : runs (.movps 1 3) (task) (fun t => t.me.rdS 1 == 1) = true := by decide +kernel
theorem test_plog_nand : runs (.plog 1 0 0 7) (task) (fun t => t.me.rdP 1 == false) = true := by decide +kernel

/-- The spec's VMULH examples: 0x80 × 0x80 gives 0x40 in both; 0xFF × 0x02 gives 0xFF signed and 0x01 unsigned. -/
def bytesTask (a b : BitVec 2048) : State := task fun c => { c with v := (c.v.set 1 a).set 2 b }
theorem test_vmulh_signed_bytes : runs (.vmulh 3 1 2 0 .i8q) (bytesTask 0xFF80 0x0280) (fun t => lane t.me.v[3] 0 == 0xFF40) = true := by
  decide +kernel
theorem test_vmulh_unsigned_bytes : runs (.vmulh 3 1 2 0 .n8q) (bytesTask 0xFF80 0x0280) (fun t => lane t.me.v[3] 0 == 0x0140) = true := by
  decide +kernel
theorem test_vadd_lanes_apart : runs (.vadd 3 1 2 0 .i32) (bytesTask 0x00000001FFFFFFFF 1) (fun t => t.me.v[3] == 0x0000000100000000) = true := by
  decide +kernel
theorem test_vext_lane : runs (.vext 4 1 1) (bytesTask 0x0000000700000000 0) (fun t => inFlight t == some (4, .s 4 7)) = true := by
  decide +kernel
theorem test_mpop_of_m0 : runs (.mpop 4 0) (task) (fun t => t.me.rdS 4 == 64) = true := by decide +kernel
theorem test_vpop_of_empty_queue : runs (.vpop 1 2) (task) (fun t => (t.node.bind (·.status)) == some 0x14) = true := by decide +kernel

theorem test_movtc_illegal_shape : runs (.movtc 1 2) (task (sregs [(2, 0x3FFFFF3)])) (fun t => (t.node.bind (·.status)) == some 0x04) = true := by
  decide +kernel
theorem test_tap8_rounds_in_the_exponent : (convert .fp32 .tap8 0x49000000 .rne .sat).toOption = some 0x7E ∧ (convert .fp32 .tap8 0x48C00000 .rne .sat).toOption = some 0x7D
    := by decide +kernel
theorem test_tri5_example : (List.range 5).map (fun i => (decodeTri5 0x58 i).1) = [1, -1, 0, 0, 1] := by decide

theorem test_st_then_bytes : runs (.st 1 2 0 .b2 .localS false 0 .plain .task) (task (sregs [(1, 0xABCD), (2, 0x100)]))
    (fun t => t.me.byteAt 0x100 == 0xCD && t.me.byteAt 0x101 == 0xAB && t.me.byteAt 0x102 == 0) = true := by decide +kernel
theorem test_ld_misaligned : runs (.ld 1 2 0 .b2 false .localS false 0 .plain .task) (task (sregs [(2, 0x101)]))
    (fun t => (t.node.bind (·.status)) == some 0x33) = true := by decide +kernel
theorem test_ld_sign_extends : runs (.ld 1 2 0 .b1 true .localS false 0 .plain .task) (task fun c => sregs [(2, 5)] { c with scratch := [(5, 0x80)] })
    (fun t => inFlight t == some (8, .s 1 0xFFFFFFFFFFFFFF80)) = true := by decide +kernel
theorem test_ldw_past_the_window : runs (.ldw 5 2 8 .b8 false) ({ task with node := some { testNode with
      image := { probeImage with windows := [none, none, some { handle := 0, off := 0, size := 10, cache := List.replicate 10 (0x11 : Byte) }] } } })
    (fun t => t.me.pend.map (·.what) == [.s 5 0x1111, .sticky 2]) = true := by decide +kernel
theorem test_ldw_unbound : runs (.ldw 5 3 0 .b8 false) (task) (fun t => (t.node.bind (·.status)) == some 0x32) = true := by decide +kernel
theorem test_atom_local_min : runs (.atom 1 2 3 0 .min false .localS .task) (task fun c => sregs [(2, 8), (3, 0xFFFFFFFF)] { c with scratch := [(8, 5)] })
    (fun t => t.me.readNat 8 4 == 0xFFFFFFFF && inFlight t == some (8, .s 1 5)) = true := by decide +kernel
theorem test_give_hands_over : runs (.give 7 true 64) (task) (fun t => (t.me.tile 7).engine && (t.me.tile 7).expect == 64) = true := by decide +kernel
theorem test_agg_words_example : aggWords none true 7 0x4000000100 = (0x0400004000000100, 7)
    ∧ (aggWords (some .add) true 7 0x4000000100).1 = 0x0C00004000000100 := by decide +kernel

theorem test_send_without_circuit : runs (.send 1 9 3) (task) (fun t => (t.node.bind (·.status)) == some 0x03) = true := by decide +kernel
theorem test_ksrch_misaligned : runs (.ksrch 1 0 0 1) (task (sregs [(1, 32)])) (fun t => (t.node.bind (·.status)) == some 0x33) = true := by
  decide +kernel
theorem test_chunk_starts : (List.range 7).map (chunkStart .fp32 1000 7) = [0, 128, 256, 384, 512, 704, 832]
    ∧ (List.range 8).map (chunkStart .fp32 100 7) = [0, 0, 0, 0, 0, 64, 64, 100] := by decide +kernel

theorem test_nodew_gives_the_status : runs (.nodew 3) (graphTask) (fun t => t.me.rdS 3 == 0x123) = true := by decide +kernel
theorem test_sigh_without_write : runs (.sigh 1 0 9) (graphTask) (fun t => t.host == [.msix 9]) = true := by decide +kernel

theorem test_link_trains : runs (.linkTrainingComplete 3) State.reset (fun t => (t.link 3).state == .up && (t.link 2).state == .untrained) = true := by
  decide +kernel
theorem test_link_down : runs (.lnkctlDown 3) State.reset (fun t => (t.link 3).state == .dead) = true := by decide +kernel
theorem test_wire_flit_when_untrained : runs (.wireFlitReceived 0 0 { src := 0, dst := 0, left := 0 }) State.reset (fun t => t == State.reset) = true := by decide +kernel
theorem test_service_level_needs_firmware : runs (.serviceLevelChange 1) State.reset (fun t => t.level == 0) = true := by decide +kernel
/-- R455: of two events of one TIME the one of the lower class is written first. -/
theorem test_scribe_order : (let r := ((State.reset.scribe1 6 0 0x1FF 0 1125).linkEvent 3 1).scribe
    bits (r.record 0).toNat 120 8 == 4 && bits (r.record 1).toNat 120 8 == 6 && bits (r.record 1).toNat 64 32 == 1) = true := by decide +kernel
theorem test_freeze : runs .scrctlFreeze State.reset (fun t => t.scribe.frozen) = true := by decide +kernel
theorem test_bpladd_asks : runs (.bpladd 5) State.reset (fun t => t.regs.bplstat == 1 && t.regs.bplpend == 5) = true := by decide +kernel
theorem test_bar2_round_trip : runs (.hostBar2Write 0x40 [1, 2, 3]) { State.reset with level := 2 } (fun t => runs (.hostBar2Read 0x41 2) t fun u =>
    u.host == [.read 0x41 [2, 3] false]) = true := by decide +kernel
theorem test_scrub_poisons_line : runs (.patrolScrub false 0x1234 true) State.reset (fun t => t.poison.length == 1 && t.mem == []) = true := by
  decide +kernel
theorem test_cold_reset_forgets_memory : runs .coldReset { State.reset with mem := [(0, 1)], level := 2 } (fun t => t == State.reset) = true := by
  decide +kernel
theorem test_graph_store_when_invalid : runs (.graphStartStore 5 0x1F) { State.reset with level := 1 } (fun t => (t.slot 5).discarded == 1) = true := by
  decide +kernel
theorem test_sha256_of_nothing : leNat (sha256 []).reverse = 0xE3B0C44298FC1C149AFBF4C8996FB92427AE41E4649B934CA495991B7852B855 := by
  decide +kernel

/-- The primes below 312: 64 of them. -/
def smallPrimes : List Nat := (List.range 312).filter fun n => decide (2 ≤ n) && (List.range n).all fun d => decide (d < 2) || n % d != 0

/-- f is the first 32 bits of the fraction of the k-th root of n, whose whole part is below 18. -/
def rootFraction (k n f : Nat) : Bool :=
  (List.range 18).any fun r => decide ((r * 2 ^ 32 + f) ^ k ≤ n * 2 ^ (32 * k)) && decide (n * 2 ^ (32 * k) < (r * 2 ^ 32 + f + 1) ^ k)

/-- The constants of SHA-256 are what the function's definition makes of the primes. -/
theorem test_sha256_constants : smallPrimes.length = 64
    ∧ (smallPrimes.zipIdx.all fun p => rootFraction 3 p.1 (bits cubeFractions (32 * p.2) 32)) = true
    ∧ ((smallPrimes.take 8).zipIdx.all fun p => rootFraction 2 p.1 (bits squareFractions (32 * p.2) 32)) = true := by decide +kernel

/-! ## States that meet the hypotheses of the statements -/

/-- Nothing is under way that could stand against a register. -/
def quiet (s : State) : Bool := s.me.regFaults.isEmpty && s.accs.isEmpty && s.clAccs.isEmpty && s.me.bad.isEmpty && !s.me.sbchk
  && s.me.upsets.isEmpty

theorem clear_of_quiet {s : State} (h : quiet s = true) (r w : List Reg) : s.Clear r w := by
  simp only [quiet, Bool.and_eq_true, List.isEmpty_iff, Bool.not_eq_true'] at h
  obtain ⟨⟨⟨⟨⟨h1, h2⟩, h3⟩, h4⟩, h5⟩, h6⟩ := h
  exact { failed := by simp [h1], late := by simp [h2], lateCl := by simp [h3], sound := by simp [h4], board := by simp [h5], steady := .inr h6 }

theorem ok_of_toOption {ε α : Type} {x : Except ε α} {a : α} (h : x.toOption = some a) : x = .ok a := by
  cases x with
  | error => cases h
  | ok => exact congrArg Except.ok (Option.some.inj h)

/-- With no result in flight no stream owes bytes. -/
theorem settled_of_none {s : State} (h : s.me.heldGroups = []) (l : List (Nat × Nat)) : s.Settled l := fun g hg => by simp [h] at hg

theorem ready_of_quiet {s : State} (h : quiet s = true) (hs : ∀ i : Fin 8, s.me.streams[i] = none) (slot lat : Nat) (r w : List Reg) :
    s.Ready slot lat r w where
  clear := clear_of_quiet h r w
  streams := State.streamsGo_of_unbound (fun n _ => by
    unfold Core.boundAt
    split
    · rw [show s.me.streams[n % 8]'(Nat.mod_lt _ (by decide)) = none from hs ⟨n % 8, Nat.mod_lt _ (by decide)⟩]; rfl
    · rfl) s.settled_nil

theorem task_clear (r w : List Reg) : (task).Clear r w := clear_of_quiet (by decide) r w
theorem task_ready (slot lat : Nat) (r w : List Reg) : (task).Ready slot lat r w := ready_of_quiet (by decide) (by decide) slot lat r w
theorem graph_clear (r w : List Reg) : (graphTask).Clear r w := clear_of_quiet (by decide) r w

/-- A local output of 4 bytes, a word of memory, a tag: any local access of this task passes. -/
theorem task_local : (task).LocalBytes 0x17FFC0 64 true false 0 where
  inside := by decide
  tiles := { free := by unfold State.TilesFree; decide, tagged := by decide, verified := by decide }
  good := by decide
  settled := fun _ => settled_of_none (by decide) _

/-! ### Slots A, C and V -/

theorem witness_scalar_three_registers : ∃ (s : State) (d a b : SReg) (p : PReg),
    s.Clear [.s a.val, .s b.val] [.s d.val] ∧ s.Clear [.s a.val, .s b.val, .p p.val] [.s d.val] :=
  ⟨task, 1, 2, 3, 4, task_clear _ _, task_clear _ _⟩

theorem witness_scalar_immediates : ∃ (s : State) (d a b : SReg) (pos len : Fin 64),
    s.Clear [.s a.val] [.s d.val] ∧ s.Clear [] [.s d.val] ∧ s.Clear [.s d.val] [.s d.val] ∧ s.Clear [.s a.val, .s b.val] [.s d.val]
    ∧ pos.val + (if len.val = 0 then 64 else len.val) ≤ 64 :=
  ⟨task, 1, 2, 3, 60, 4, task_clear _ _, task_clear _ _, task_clear _ _, task_clear _ _, by decide⟩
/-- The longest field starts at bit 0. -/
theorem witness_bit_field_of_64 : (0 : Fin 64).val + (if (0 : Fin 64).val = 0 then 64 else (0 : Fin 64).val) ≤ 64 := by decide

theorem witness_scalar_compares : ∃ (s : State) (pd : PReg) (a b : SReg),
    s.Clear [.s a.val] [.p pd.val] ∧ s.Clear [.s a.val, .s b.val] [.p pd.val] := ⟨task, 1, 2, 3, task_clear _ _, task_clear _ _⟩

theorem witness_scalar_floats : ∃ (s : State) (d a b c : SReg), s.Clear [.s a.val, .s b.val] [.s d.val]
    ∧ s.Clear [.s a.val, .s b.val, .s c.val] [.s d.val] := ⟨task, 1, 2, 3, 4, task_clear _ _, task_clear _ _⟩
/-- 256.0 to I8: refused with OV trap, saturated otherwise. -/
theorem witness_conversion : (task (sregs [(2, 0x43800000)])).Clear [.s 2] [.s 1]
    ∧ (∃ sub, convert .fp32 .i8 0x43800000 .rne .trap = .error sub) ∧ ∃ y, convert .fp32 .i8 0x43800000 .rne .sat = .ok y :=
  ⟨clear_of_quiet (by decide) _ _, ⟨_, rfl⟩, ⟨_, rfl⟩⟩

theorem witness_check_equal : ∃ (s t : State) (a b : SReg), s.Clear [.s a.val, .s b.val] [] ∧ s.me.rdS a = s.me.rdS b
    ∧ t.Clear [.s a.val, .s b.val] [] ∧ t.me.rdS a ≠ t.me.rdS b :=
  ⟨task, task (sregs [(1, 5)]), 1, 2, task_clear _ _, by decide, clear_of_quiet (by decide) _ _, by decide⟩

theorem witness_branches : ∃ (s : State) (a : SReg), s.Clear [] [] ∧ s.Clear [] [.s 63] ∧ s.Clear [.s a.val] [] ∧ s.Clear [.s 63] [] :=
  ⟨task, 2, task_clear _ _, task_clear _ _, task_clear _ _, task_clear _ _⟩
/-- A segment of three bundles: a body of two fits after the first, one of three does not. -/
def threeBundles (c : Core) : Core :=
  { c with
    pc := 0x400000000010
    half0 := some { head := 0x400000000000, next := 0, rep := false,
                    items := [⟨0x400000000010, 2, .bundle 0⟩, ⟨0x400000000012, 2, .bundle 0⟩, ⟨0x400000000014, 2, .bundle 0⟩] } }
theorem witness_loop : (task threeBundles).Clear [.s 1] [] ∧ (task threeBundles).me.loops.length < 4
    ∧ 2 ≤ (task threeBundles).me.bundlesLeft ∧ ¬ 3 ≤ (task threeBundles).me.bundlesLeft := by
  exact ⟨clear_of_quiet (by decide) _ _, by decide, by decide, by decide⟩

theorem witness_advance : ∃ s : State, (s.core 0).pend = [] ∧ (s.core 0).jump = none ∧ (s.core 0).loops = [] := ⟨task, by decide, by decide, by decide⟩
theorem witness_advance_jump : ∃ s : State, (s.core 0).pend = [] ∧ (s.core 0).jump = some 16 := ⟨task ({ · with jump := some 16 }), by decide, by decide⟩
theorem witness_advance_loop : ∃ (s : State) (l : Loop), (s.core 0).pend = [] ∧ (s.core 0).jump = none ∧ (s.core 0).loops = [] ++ [l]
    ∧ l.last = (s.core 0).pc ∧ 1 < l.left :=
  ⟨task ({ · with pc := 32, loops := [{ first := 16, last := 32, left := 2 }] }), { first := 16, last := 32, left := 2 }, by decide, by decide,
    by decide, by decide, by decide⟩
/-- The inner of two loops that end at one bundle has its last pass behind it. -/
theorem witness_advance_ends_loop : ∃ (s : State) (l o : Loop), (s.core 0).pend = [] ∧ (s.core 0).jump = none ∧ (s.core 0).loops = [o] ++ [l]
    ∧ l.last = (s.core 0).pc ∧ l.left ≤ 1 ∧ o.last = (s.core 0).pc :=
  ⟨task ({ · with pc := 32, loops := [{ first := 0, last := 32, left := 2 }, { first := 16, last := 32, left := 1 }] }), { first := 16, last := 32, left := 1 },
    { first := 0, last := 32, left := 2 }, by decide, by decide, by decide, by decide, by decide, by decide⟩
theorem witness_advance_within_loop : ∃ (s : State) (l : Loop), (s.core 0).pend = [] ∧ (s.core 0).jump = none ∧ (s.core 0).loops = [] ++ [l]
    ∧ l.last ≠ (s.core 0).pc :=
  ⟨task ({ · with pc := 16, loops := [{ first := 16, last := 32, left := 2 }] }), { first := 16, last := 32, left := 2 }, by decide, by decide,
    by decide, by decide⟩

theorem witness_boundaries : (task).Clear [] [] ∧ (task).me.allReports = [] := ⟨task_clear _ _, by decide⟩
/-- A report that ENDT delivers in its place, due or not. -/
theorem witness_boundary_report : ∃ s : State, s.Clear [] [] ∧ ∃ t, oldestTrap s.me.allReports = some t :=
  ⟨task ({ · with reports := [{ due := 9, trap := { cause := 0x30, sub := 2, defer := true } }] }), clear_of_quiet (by decide) _ _,
    Option.isSome_iff_exists.mp (by decide)⟩

/-- A counter at the threshold, the furthest past it, and one that has not reached it. -/
def counter (v : BitVec 48) : State := task fun c => { c with chcnt := c.chcnt.set 1 v }
theorem witness_wait_reached : (counter 5).Clear [] [] ∧ (counter 5).Clear [.s 2] [] ∧ ((counter 5).me.chcnt[1] - (5 : BitVec 48)).toNat < 2 ^ 47
    ∧ ((counter 0x800000000004).me.chcnt[1] - (5 : BitVec 48)).toNat < 2 ^ 47 :=
  ⟨clear_of_quiet (by decide) _ _, clear_of_quiet (by decide) _ _, by decide, by decide⟩
theorem witness_wait_holds : (counter 4).Clear [] [] ∧ 2 ^ 47 ≤ ((counter 4).me.chcnt[1] - (5 : BitVec 48)).toNat ∧ (counter 4).me.chanErr = []
    ∧ 2 ^ 47 ≤ ((counter 0x800000000005).me.chcnt[1] - (5 : BitVec 48)).toNat :=
  ⟨clear_of_quiet (by decide) _ _, by decide, by decide, by decide⟩

def handler : State := task fun c => { c with inh := true, shadow := { c.shadow with pc := 0x400000000100 } }
theorem witness_trap_and_return : (task).Clear [] [] ∧ handler.Clear [] allSP ∧ (task).me.inh = false ∧ handler.Clear [] [] ∧ handler.me.inh = true ∧ handler.me.shadow.pc ≠ 0
    ∧ (task).me.shadow.pc = 0 := ⟨task_clear _ _, clear_of_quiet (by decide) _ _, by decide, clear_of_quiet (by decide) _ _, by decide, by decide, by decide⟩

theorem witness_csr : ∃ (s : State) (d : SReg) (n : Fin 16) (nd : Node), s.Clear [] [.s d.val] ∧ s.Clear [.tcfg n.val] [.s d.val] ∧ s.cur ≠ 384
    ∧ s.node = some nd ∧ s.Clear [.s d.val] [] ∧ s.Clear [.s d.val] [.tcfg n.val] :=
  ⟨task, 1, 2, testNode, task_clear _ _, task_clear _ _, by decide, rfl, task_clear _ _, task_clear _ _⟩

theorem witness_predicates : ∃ (s : State) (pd pa pb : PReg) (d : SReg) (mask : BitVec 16), s.Clear [.p pa.val, .p pb.val] [.p pd.val]
    ∧ s.Clear ((maskPregs mask).map fun i => .p i.val) [.s d.val] ∧ s.Clear [.s d.val] ((maskPregs mask).map fun i => .p i.val) :=
  ⟨task, 1, 2, 3, 4, 0xFFFF, task_clear _ _, task_clear _ _, task_clear _ _⟩

theorem witness_vector : ∃ (s : State) (vd va vb vc : VReg) (m : MReg), s.Ready 2 1 [.v va.val, .v vb.val, .m m.val] [.v vd.val]
    ∧ s.Ready 2 1 [.v va.val, .m m.val] [.v vd.val] ∧ s.Ready 2 4 [.v va.val, .v vb.val, .m m.val] [.v vd.val]
    ∧ s.Ready 2 4 [.v va.val, .v vb.val, .v vc.val, .m m.val] [.v vd.val] ∧ s.Ready 2 8 [.v va.val, .m m.val] [.v vd.val] :=
  ⟨task, 1, 2, 3, 4, 5, task_ready .., task_ready .., task_ready .., task_ready .., task_ready ..⟩

/-- A bound local input stream that has its first group, at V24. -/
def streamTask : State := task fun c => { c with
  scratch := [(0x100, 0x2A)]
  streams := c.streams.set 0 (some { output := false, device := false, tc := false, tagx := 0, handle := 0, start := 0x100, counts := [2, 1, 1],
                                     strides := [256, 0, 0], pc := 0 }) }
/-- An operation that reads the stream is ready, and its first group arrives. -/
theorem witness_vector_stream : streamTask.Ready 2 1 [.v 24, .v 2, .m 0] [.v 1] ∧ lane ((streamTask.fed 2 1 [.v 24, .v 2, .m 0]).me.rdV 24) 0 = 0x2A :=
  ⟨{ clear := clear_of_quiet (by decide) _ _
     streams := { misuse := by decide +kernel, waits := by decide +kernel, settled := settled_of_none (by decide) _, tiles := by unfold State.TilesFree; decide +kernel, check := by decide +kernel } },
   by decide +kernel⟩

theorem witness_vector_scalar : ∃ (s : State) (vd va : VReg) (sa : SReg) (m : MReg), s.Ready 2 1 [.v va.val, .s sa.val, .m m.val] [.v vd.val]
    ∧ s.Ready 2 4 [.v va.val, .s sa.val, .m m.val] [.v vd.val] ∧ s.Ready 2 4 [.v va.val, .s sa.val, .v vd.val, .m m.val] [.v vd.val] :=
  ⟨task, 1, 2, 3, 4, task_ready .., task_ready .., task_ready ..⟩

theorem witness_vector_masks : ∃ (s : State) (vd va vb : VReg) (md ma mb m : MReg) (d : SReg),
    (∀ (lat : Nat) (w : MaskOp), lat = 1 ∨ lat = 4 → s.Ready 2 lat ([.v va.val, .v vb.val, .m m.val] ++ (if w = .set then [] else [.m md.val])) [.m md.val])
    ∧ s.Ready 2 1 [.v va.val, .v vb.val, .m m.val] [.v vd.val] ∧ s.Ready 2 1 [.m ma.val, .m mb.val] [.m md.val]
    ∧ s.Ready 2 1 [.m ma.val] [.s d.val] ∧ s.Ready 2 1 [.m m.val] [.v vd.val] :=
  ⟨task, 1, 2, 3, 1, 2, 3, 4, 5, fun _ _ _ => task_ready .., task_ready .., task_ready .., task_ready .., task_ready ..⟩

/-- Zero lanes convert; a lane of 256.0 does not convert to I8 when overflow traps. -/
def bigLane : State := task fun c => { c with v := c.v.set 2 (BitVec.ofNat 2048 (0x43800000 * 2 ^ 32)) }
theorem witness_vector_conversion : ∃ (s : State) (vd va : VReg) (m : MReg), s.Ready 2 3 [.v va.val, .m m.val] [.v vd.val]
    ∧ s.Ready 2 3 [.v va.val] [.v vd.val]
    ∧ (∀ i, i < 64 → (s.me.rdM m).getLsbD i = true → ∃ y, convert .fp32 .i8 ((lane (s.me.peekV va) i).toNat % 2 ^ Fmt.width .fp32) .rne .trap = .ok y)
    ∧ (∀ i, i < 64 → ∃ y, convert .fp32 .i8 ((lane (s.me.peekV va) i).toNat % 2 ^ Fmt.width .fp32) .rne .trap = .ok y)
    ∧ ∀ i, i < 64 → ∃ y, convert .i8 .fp32 (bits (s.me.peekV va).toNat (Fmt.width .i8 * (64 * 3 + i)) (Fmt.width .i8)) .rne .sat = .ok y := by
  have h0 : ∀ i, i < 64 → lane ((task).me.peekV 2) i = 0 := by decide +kernel
  have h1 : ∀ i, i < 64 → bits ((task).me.peekV 2).toNat (Fmt.width .i8 * (64 * 3 + i)) (Fmt.width .i8) = 0 := by decide +kernel
  refine ⟨task, 1, 2, 3, task_ready .., task_ready .., ?_, ?_, ?_⟩
  · intro i hi _; rw [h0 i hi]; exact ⟨0, rfl⟩
  · intro i hi; rw [h0 i hi]; exact ⟨0, rfl⟩
  · intro i hi; rw [h1 i hi]; exact ⟨0, rfl⟩
theorem witness_vector_conversion_refused : bigLane.Ready 2 3 [.v 2, .m 0] [.v 1] ∧ (bigLane.me.rdM 0).getLsbD 1 = true
    ∧ (∃ sub, convert .fp32 .i8 ((lane (bigLane.me.peekV 2) 1).toNat % 2 ^ Fmt.width .fp32) .rne .trap = .error sub)
    ∧ ∀ j, j < 1 → (bigLane.me.rdM 0).getLsbD j = true → ∃ y, convert .fp32 .i8 ((lane (bigLane.me.peekV 2) j).toNat % 2 ^ Fmt.width .fp32) .rne .trap = .ok y := by
  have h1 : lane (bigLane.me.peekV 2) 1 = 0x43800000 := by decide +kernel
  have h0 : lane (bigLane.me.peekV 2) 0 = 0 := by decide +kernel
  refine ⟨ready_of_quiet (by decide) (by decide) .., by decide, ?_, ?_⟩
  · rw [h1]; exact ⟨_, rfl⟩
  · intro j hj _; obtain rfl : j = 0 := by omega
    rw [h0]; exact ⟨0, rfl⟩

/-- The narrow forms trap alike: lane 1 of a VPACK, and the NaN in lane 1 of a BF16 source of a VUNPK. -/
def nanLane : State := task fun c => { c with v := c.v.set 2 (BitVec.ofNat 2048 (0x7FC0 * 2 ^ 16)) }
theorem witness_vunpk_refused : (nanLane.me.rdM 0).getLsbD 1 = true ∧ nanLane.Ready 2 3 [.v 2] [.v 1]
    ∧ (∃ sub, convert .bf16 .i8 (bits (nanLane.me.peekV 2).toNat (Fmt.width .bf16 * 1) (Fmt.width .bf16)) .rne .trap = .error sub)
    ∧ ∃ y, convert .bf16 .i8 (bits (nanLane.me.peekV 2).toNat 0 (Fmt.width .bf16)) .rne .trap = .ok y := by
  have h1 : bits (nanLane.me.peekV 2).toNat (Fmt.width .bf16 * 1) (Fmt.width .bf16) = 0x7FC0 := by decide +kernel
  have h0 : bits (nanLane.me.peekV 2).toNat 0 (Fmt.width .bf16) = 0 := by decide +kernel
  rw [h1, h0]
  exact ⟨by decide, ready_of_quiet (by decide) (by decide) .., ⟨_, rfl⟩, _, rfl⟩

theorem witness_vector_moves : ∃ (s : State) (vd va vb : VReg) (m : MReg) (sa d : SReg), s.Ready 2 2 [.v va.val, .v vb.val, .m m.val] [.v vd.val]
    ∧ (∀ fn : ShufFn, s.Ready 2 2 ([.v va.val, .m m.val] ++ (if ShufFn.readsB fn then [.v vb.val] else [])) [.v vd.val])
    ∧ s.Ready 2 2 [.s sa.val, .m m.val] [.v vd.val] ∧ s.Ready 2 2 [.s sa.val] [.v vd.val] ∧ s.Ready 2 2 [.v va.val] [.s d.val]
    ∧ s.Ready 2 1 [.v va.val, .m m.val] [.v vd.val] ∧ s.Ready 2 1 [] [.v vd.val] ∧ s.me.queue 0 = [] :=
  ⟨task, 1, 2, 3, 4, 5, 6, task_ready .., fun _ => task_ready .., task_ready .., task_ready .., task_ready .., task_ready .., task_ready .., by decide⟩
/-- A queue that holds one row. -/
def oneRow : State := task fun c => c.setQueue 0 [{ words := 7 }]
theorem witness_vpop_row : oneRow.Ready 2 1 [] [.v 1] ∧ ∃ row rest, oneRow.me.queue 0 = row :: rest ∧ row.bad = false :=
  ⟨ready_of_quiet (by decide) (by decide) .., { words := 7 }, [], rfl, rfl⟩

theorem witness_vector_reductions : (task).Ready 2 6 [.v 2, .m 3] [.s 1] := task_ready ..

/-! ### Slots X, L and F -/

/-- A core whose tiles are as at task start, with no bad word: local accesses of any place pass. -/
theorem local_of_start {s : State} (ht : s.me.tiles = []) (hb : s.me.bad = []) {a n : Nat} (h : a + n ≤ scratchTop) (isRead : Bool)
    (hg : s.me.heldGroups = [] := by decide) : s.LocalBytes a n isRead false 0 where
  inside := h
  tiles := { free := fun t _ => by simp [Core.tile, ht, Sparse.get, Sparse.find?], tagged := by simp
             verified := fun _ _ t _ => by simp [Core.tile, ht, Sparse.get, Sparse.find?] }
  good := fun _ w _ => by simp [hb]
  settled := fun _ => settled_of_none hg _
theorem task_bytes {a n : Nat} (h : a + n ≤ scratchTop) (isRead : Bool) : (task).LocalBytes a n isRead false 0 := local_of_start rfl rfl h isRead
theorem task_tiles (ts : List Nat) : (task).TilesFree ts := fun t _ => by
  simp [Core.tile, show (task).me.tiles = [] from rfl, Sparse.get, Sparse.find?]
theorem task_groups (g h : Nat) : (task).GroupsFree g h := fun _ hl => by simp [show (task).me.lent = [] from rfl] at hl
theorem groups_of_none {s : State} (h : s.me.lent = []) (g k : Nat) : s.GroupsFree g k := fun _ hl => by simp [h] at hl

theorem witness_matrix_issue : (task).Clear [.t 0, .tcfg 0, .t 1, .tcfg 1] [] ∧ (task).GroupsFree 56 63
    ∧ matOk false (task).me.tcfg[0] (task).me.tcfg[1] = true ∧ (task).me.busyUntil ≤ (task).me.lc.toNat ∧ (task).me.groupPoison = [] :=
  ⟨task_clear _ _, task_groups _ _, by decide +kernel, by decide, by decide⟩
/-- Shapes of MMT: 64 × 8 I8 against 64 × 8 TRI2, and 64 × 5 I8 against 64 × 1 TRI5. -/
theorem witness_mmt_shapes : matOk true 0x73F81 0x73F90 = true ∧ matOk true 0x43F81 0x3FA1 = true := by decide +kernel
def busy : State := task fun c => { c with busyUntil := 10 }
theorem witness_matrix_busy : busy.Clear [.t 0, .tcfg 0, .t 1, .tcfg 1] [] ∧ busy.GroupsFree 0 7
    ∧ matOk false busy.me.tcfg[0] busy.me.tcfg[1] = true ∧ busy.me.lc.toNat < busy.me.busyUntil :=
  ⟨clear_of_quiet (by decide) _ _, groups_of_none rfl _ _, by decide +kernel, by decide⟩
def smallMat : MatOp :=
  { mmt := false, row0 := 0, m := 64, n := 64, k := 1, fa := .fp32, fb := .fp32, a := 0, b := 0, neg := false, clr := true, sum := .linear }
theorem witness_matrix_commit : smallMat.m ≤ 64 ∧ smallMat.n ≤ 64 ∧ ∀ r j, .acc r j ∉ ((task).core 0).bad := ⟨by decide, by decide, fun _ _ => by
  simp [show ((task).core 0).bad = [] from rfl]⟩

/-- A shape that R87 allows, the largest, and one that it does not. -/
theorem witness_movtc : (task).Clear [.s 1] [.tcfg 2]
    ∧ (cfgRows 0x1F3F13 ≤ 64 ∧ cfgPairs 0x1F3F13 = true ∧ cfgRows 0x1F3F13 * cfgCols 0x1F3F13 * cfgWidth 0x1F3F13 ≤ 65536)
    ∧ ¬(cfgRows 0x203F13 ≤ 64 ∧ cfgPairs 0x203F13 = true ∧ cfgRows 0x203F13 * cfgCols 0x203F13 * cfgWidth 0x203F13 ≤ 65536) :=
  ⟨task_clear _ _, by decide +kernel, by decide +kernel⟩
theorem witness_tile_registers : (task).Clear [.tcfg 2] [.s 1] ∧ (task).Clear [] [.t 2] := ⟨task_clear _ _, task_clear _ _⟩
/-- A TLD of the 8 KiB that end the scratchpad, transposed. -/
theorem witness_tld : ∃ s : State, s.Clear [.s 1, .tcfg 2] [.t 2] ∧ cfgOk s.me.tcfg[2] = true ∧ (cfgWidth s.me.tcfg[2] ≠ 2 ∧ cfgFmt s.me.tcfg[2] ≠ 10)
    ∧ (s.me.rdS 1).toNat % 64 = 0
    ∧ s.LocalBytes (s.me.rdS 1).toNat ((cfgRows s.me.tcfg[2] * cfgCols s.me.tcfg[2] * cfgWidth s.me.tcfg[2] + 7) / 8) true false 0
    ∧ ∀ x ∈ tilesTouched (s.me.rdS 1).toNat ((cfgRows s.me.tcfg[2] * cfgCols s.me.tcfg[2] * cfgWidth s.me.tcfg[2] + 7) / 8),
        (s.me.tile x).fmt = 0 ∨ (s.me.tile x).fmt = cfgFmt s.me.tcfg[2] :=
  ⟨task (sregs [(1, 0x17E000)]), clear_of_quiet (by decide) _ _, by decide +kernel, by decide +kernel, by decide +kernel,
    local_of_start (by decide) (by decide) (by decide +kernel) _, by decide +kernel⟩

/-- ALD and ACPY of the last row and column. -/
theorem witness_accumulator_moves : (task).Clear [] [] ∧ (task).GroupsFree 56 63 ∧ (63 : Fin 64).val + (0 : Fin 64).val ≤ 63
    ∧ (511 : Fin 512).val + (0 : Fin 128).val ≤ 511 ∧ ((task).me.rdS 1).toNat % 4 = 0 ∧ (task).Clear [.s 1] [] ∧ (task).LocalBytes 0 4 true false 0
    ∧ (task).Clear (.s 1 :: (List.range 1).map fun i => .acc (511 + i) (rectMask 63 0)) [] ∧ (task).LocalBytes 0 4 false false 0 ∧ (task).me.bad = []
    ∧ (task).me.groupPoison = [] :=
  ⟨task_clear _ _, task_groups _ _, by decide, by decide, by decide, task_clear _ _, task_bytes (by decide) _, task_clear _ _,
    task_bytes (by decide) _, rfl, rfl⟩

theorem witness_drain : (task).GroupsFree 0 7 ∧ (task).me.groupPoison = [] ∧ (task).Clear (.s 1 :: ((List.range 64).map fun i => .scale (4 * i)) ++ (List.range 64).map fun i => .acc i (BitVec.allOnes 64)) []
    ∧ ((task).me.rdS 1).toNat % 4 = 0 ∧ (task).LocalBytes 0 512 true false 0 :=
  ⟨task_groups _ _, rfl, task_clear _ _, by decide, task_bytes (by decide) _⟩
def windowInUse : State := task fun c => { c with accAfter := [(3, 5)] }
theorem witness_agive : (task).Clear [] [] ∧ (task).me.windowAfter 0 ≤ (task).me.lc.toNat ∧ (task).GroupsFree 0 7 ∧ (task).Clear [] [.s 1]
    ∧ windowInUse.Clear [] [] ∧ windowInUse.me.lc.toNat < windowInUse.me.windowAfter 0 :=
  ⟨task_clear _ _, by decide, task_groups _ _, task_clear _ _, clear_of_quiet (by decide) _ _, by decide⟩
/-- A row of zeros drains to FP32; a row whose column 1 is 256.0 does not drain to I8 when overflow traps. -/
theorem witness_drain_row : ((task).core 0).groupPoison = [] ∧ ((task).core 0).bad = [] ∧ (∀ j, j < 64 → lane (((task).core 0).accRow 0) j = 0)
    ∧ ∃ y, encodeVal .fp32 .rne .sat (fp32 0) = .ok y := by
  have h : ∀ j, j < 64 → lane (((task).core 0).accRow 0) j = 0 := by decide +kernel
  exact ⟨rfl, rfl, h, _, rfl⟩
def bigRow : State := task fun c => c.setAccRow 0 (BitVec.ofNat 2048 (0x43800000 * 2 ^ 32))
theorem witness_drain_row_refused : (bigRow.core 0).groupPoison = [] ∧ (bigRow.core 0).bad = []
    ∧ (∃ sub, encodeVal .i8 .rne .trap (fp32 (lane ((bigRow.core 0).accRow 0) 1)) = .error sub)
    ∧ ∃ y, encodeVal .i8 .rne .trap (fp32 (lane ((bigRow.core 0).accRow 0) 0)) = .ok y := by
  have h1 : lane ((bigRow.core 0).accRow 0) 1 = 0x43800000 := by decide +kernel
  have h0 : lane ((bigRow.core 0).accRow 0) 0 = 0 := by decide +kernel
  rw [h1, h0]; exact ⟨by decide, by decide, ⟨_, rfl⟩, _, rfl⟩

/-- Row 0 of a DRAIN into a queue of 33 rows. -/
def rowTooMany (j : Nat) : Pending :=
  { key := 2 * (4 + j) + 1, slot := 3, lc := 0, pc := 0
    what := .room { row0 := 0, nrow := 1, q := 0, df := .fp32, rm := .rne, ov := .sat, i32 := false, cols := none, rows := none } j }
def fullQueue : State := task fun c => { c.setQueue 0 (List.replicate 33 { words := 7 }) with pend := [rowTooMany 0, rowTooMany 1] }
theorem witness_row_room : 32 < ((fullQueue.core 0).queue 0).length - 0 ∧ ((fullQueue.core 0).queue 0).length - 1 ≤ 32
    ∧ ∀ x ∈ (fullQueue.core 0).pend, x.lc = (rowTooMany 0).lc ∧ x.pc = (rowTooMany 0).pc := by decide +kernel
theorem witness_matrix_results (a : Nat) (l : List Byte) : (∃ p : Pending, p.what = .t 1 8 0xFF) ∧ (∃ p : Pending, p.what = .tcfg 1 0x3F)
    ∧ (∃ p : Pending, p.what = .acc 511 1 7) ∧ (∃ p : Pending, p.what = .aclr 56) ∧ (∃ p : Pending, p.what = .store a l false) ∧ (∃ p : Pending, p.what = .qclr 1)
    ∧ ∀ u ∈ ((task).core 0).undo, u.after 0 0 = false :=
  ⟨⟨{ key := 0, slot := 3, lc := 0, pc := 0, what := _ }, rfl⟩, ⟨{ key := 0, slot := 3, lc := 0, pc := 0, what := _ }, rfl⟩,
    ⟨{ key := 0, slot := 3, lc := 0, pc := 0, what := _ }, rfl⟩, ⟨{ key := 0, slot := 3, lc := 0, pc := 0, what := _ }, rfl⟩,
    ⟨{ key := 0, slot := 3, lc := 0, pc := 0, what := _ }, rfl⟩, ⟨{ key := 0, slot := 3, lc := 0, pc := 0, what := _ }, rfl⟩, by decide⟩

theorem task_cluster {a n : Nat} (h : a % 2 ^ 21 + n ≤ scratchTop) (ha : a < 2 ^ 21) : (task).ClusterBytes a n :=
  ⟨by omega, h, by rw [show a / 2 ^ 21 = 0 by omega]; decide⟩
theorem task_core (k : Nat) : ((task).core k).looked = [] := by
  unfold State.core Sparse.get
  by_cases h : k = 0
  · simp [h, task, State.reset, Sparse.find?, Core.idle]
  · simp [Ne.symm h, task, State.reset, Sparse.find?, Core.idle]
/-- Nothing of a scratchpad has been looked at: no store of a cluster comes too late. -/
theorem task_in_time (a n : Nat) : (task).InTime a n := by simp [State.InTime, State.tooLate, Core.sawAfter, task_core]
theorem witness_load_store : (task).Clear [.s 2] [.s 1] ∧ (task).Clear [.s 2, .s 1] [] ∧ ((task).me.rdS 2 + (0 : BitVec 20).signExtend 64).toNat % 8 = 0
    ∧ (task).LocalBytes 0 8 true false 0 ∧ (task).LocalBytes 0 8 false false 0 ∧ (task).ClusterBytes 0 8 ∧ (task).InTime 0 8 ∧ (task).PlaceFree :=
  ⟨task_clear _ _, task_clear _ _, by decide, task_bytes (by decide) _, task_bytes (by decide) _, task_cluster (by decide) (by decide),
    task_in_time _ _, by unfold State.PlaceFree; decide⟩
/-- The last 8 bytes of the scratchpad. -/
theorem witness_load_last_bytes : ((task (sregs [(2, 0x17FFF8)])).me.rdS 2).toNat % 8 = 0 ∧ (task (sregs [(2, 0x17FFF8)])).LocalBytes 0x17FFF8 8 true false 0 :=
  ⟨by decide, local_of_start (by decide) (by decide) (by decide) _⟩

theorem task_settled (l : List (Nat × Nat)) : (task).Settled l := settled_of_none (by decide) l
theorem task_place : (task).PlaceFree := by unfold State.PlaceFree; decide
/-- Addresses at the end of the scratchpad, of the cluster space and of the device space, for LD, ST and ATOM. -/
theorem witness_load_faults : (task).Clear [.s 2] [.s 1] ∧ (task).Clear [.s 2, .s 1] [] ∧ (task).Clear ([.s 2, .s 3] ++ [.s 4]) [.s 1] ∧ (task).PlaceFree
    ∧ (task).TilesFree (tilesTouched 0x180000 4) ∧ (task).Settled [(0x180000, 4)] ∧ (0x180000 % 4 = 0 ∧ scratchTop < 0x180000 + 4
    ∧ (task).hasTask (clusterOf 0 * 32 + 2 ^ 21 / 2 ^ 21) = false ∧ (0x101 : Nat) % 2 ≠ 0 ∧ (2 ^ 57 : Nat) % 8 = 0 ∧ (task).me.chanErr = []) :=
  ⟨task_clear _ _, task_clear _ _, task_clear _ _, task_place, task_tiles _, task_settled _, by decide⟩
/-- Lanes of a vector access whose first address is a: the first misaligned, the second past the end of the scratchpad, of a cluster's scratchpad, of the
device space; a tile of ternary digits with a stride; tags. -/
def from2 (a : Word) (f : Core → Core := id) : State := task fun c => f (sregs [(2, a)] c)
def lanesFrom (s : State) (a stride : Nat) : List (Nat × Nat) := strideLanes (fmtOfCode (s.me.tile (a / 4096)).fmt) a stride (s.me.rdM 0)
theorem witness_vector_faults : let s (a : Word) := from2 a
    (∀ a : Word, (s a).Ready 4 4 [.s 2, .m 0] [.v 1] ∧ (s a).Ready 4 14 [.s 2, .m 0] [.v 1] ∧ (s a).Ready 4 1 [.s 2, .v 1, .m 0] [])
    ∧ (∃ rest, lanesFrom (s 0x102) 0x102 1 = [] ++ (0, 0x102) :: rest) ∧ 0x102 % elemBytes .raw32 ≠ 0
    ∧ (∃ rest, lanesFrom (s 0x17FFFC) 0x17FFFC 1 = [(0, 0x17FFFC)] ++ (1, 0x180000) :: rest) ∧ 0x17FFFC + elemBytes .raw32 ≤ scratchTop
    ∧ ¬ 0x180000 + elemBytes .raw32 ≤ scratchTop ∧ targetFmt (s 0x17FFFC) 0x17FFFC = .raw32 ∧ fmtOfCode ((s 0).firstXlat 0 (2 ^ 57 - 4)).fmt = .raw32
    ∧ (∃ rest, strideLanes .raw32 (2 ^ 57 - 4) 1 ((s 0).me.rdM 0) = [(0, 2 ^ 57 - 4)] ++ (1, 2 ^ 57) :: rest)
    ∧ (∃ rest, lanesFrom (from2 0 fun c => c.setTile 0 { fmt := fmtCode .tri2 }) 0 2 = [] ++ (0, 0) :: rest)
    ∧ (∃ us, tilesOf .raw32 (lanesFrom (s 0) 0 1) = [] ++ 0 :: us) := by
  have hr (a : Word) (lat : Nat) (r w : List Reg) : (from2 a).Ready 4 lat r w :=
    ready_of_quiet (by simp [quiet, from2, task, sregs, State.me, State.core, State.reset, Sparse.get, Sparse.find?, Core.wrS, Core.idle])
      (by simp [from2, task, sregs, State.me, State.core, State.reset, Sparse.get, Sparse.find?, Core.wrS, Core.idle]) _ _ _ _
  exact ⟨fun a => ⟨hr a _ _ _, hr a _ _ _, hr a _ _ _⟩, ⟨_, rfl⟩, by decide, ⟨_, rfl⟩, by decide, by decide, by decide +kernel, by decide +kernel, ⟨_, rfl⟩,
    ⟨_, rfl⟩, _, rfl⟩
/-- TLD of a shape of 2 FP32 rows of 8: a base that is not a multiple of 64, the last 64 bytes, past them, and tiles of another tag or format. -/
theorem witness_tile_load_faults : (task).Clear [.s 2, .tcfg 2] [.t 1] ∧ cfgOk (task).me.tcfg[2] = true ∧ (task).TilesFree (tilesTouched 0x17FFC0 128)
    ∧ (task).Settled [(0x17FFC0, 128)] ∧ (32 % 64 ≠ 0 ∧ 0x17FFC0 % 64 = 0 ∧ scratchTop < 0x17FFC0 + 128 ∧ tilesTouched 0 128 = [] ++ 0 :: []
    ∧ ¬((from2 0 fun c => c.setTile 0 { fmt := 3 }).me.tile 0).fmt = 0) :=
  ⟨task_clear _ _, by decide +kernel, task_tiles _, task_settled _, by decide +kernel⟩
def oneTile (x : Tile) : State := task (·.setTile 0 x)
theorem witness_load_tile_checks : (oneTile { tag := 2 }).Clear [.s 2] [.s 1] ∧ ((oneTile { tag := 2 }).me.tile 0).tag.toNat ≠ (1 : Fin 16).val
    ∧ ((oneTile { verified := false }).me.tile 0).verified = false ∧ (oneTile { verified := false }).TilesFree [0]
    ∧ ((oneTile { engine := true }).me.tile 0).engine = true ∧ ((oneTile { engine := true }).me.tile 0).overrun = false :=
  ⟨clear_of_quiet (by decide) _ _, by decide, by decide, by unfold State.TilesFree; decide, by decide, by decide⟩
def crowded : State :=
  { task with accs := List.replicate 64 { id := 0, core := 0, pc := 0, lc := 0, op := .place, addr := 0, todo := [], inLoad := false, inStore := false, deps := [] } }
theorem witness_no_place : crowded.Clear [.s 2] [.s 1] ∧ 64 ≤ crowded.inFlight crowded.cur ∧ crowded.me.chanErr = [] :=
  ⟨{ failed := by decide, lateCl := by simp [show crowded.clAccs = [] from rfl], sound := by decide, board := by decide, steady := by decide
     late := by intro a ha _ h; rw [List.eq_of_mem_replicate ha] at h; exact absurd h (by decide) }, by decide +kernel, by decide⟩

theorem task_lanes (f : Fmt) (l : List (Nat × Nat)) (r : Bool) (h : ∀ p ∈ l, p.2 % elemBytes f = 0 ∧ p.2 + elemBytes f ≤ scratchTop) :
    LocalLanes (task) f l r false 0 where
  aligned := fun p hp => (h p hp).1
  inside := fun p hp => (h p hp).2
  tiles := { free := task_tiles _, tagged := by simp
             verified := fun _ _ t _ => by simp [Core.tile, show (task).me.tiles = [] from rfl, Sparse.get, Sparse.find?] }
  good := fun _ _ _ w _ => by simp [show (task).me.bad = [] from rfl]
  settled := fun _ => settled_of_none (by decide) _
theorem witness_vector_memory : (task).me.rdM 0 ≠ 0 ∧ (task).Ready 4 4 [.s 2, .m 0] [.v 1] ∧ (task).Ready 4 14 [.s 2, .m 0] [.v 1]
    ∧ (task).Ready 4 1 [.s 2, .v 1, .m 0] [] ∧ LocalLanes (task) (fmtOfCode ((task).me.tile 0).fmt)
        (strideLanes (fmtOfCode ((task).me.tile 0).fmt) 0 64 ((task).me.rdM 0)) true false 0
    ∧ LocalLanes (task) (fmtOfCode ((task).me.tile 0).fmt) (strideLanes (fmtOfCode ((task).me.tile 0).fmt) 0 64 ((task).me.rdM 0)) false false 0
    ∧ ¬(fmtOfCode ((task).me.tile 0).fmt = .tri2 ∨ fmtOfCode ((task).me.tile 0).fmt = .tri5) :=
  ⟨by decide, task_ready .., task_ready .., task_ready .., task_lanes _ _ _ (by decide +kernel), task_lanes _ _ _ (by decide +kernel), by decide⟩
/-- Every lane of a cluster access reaches the core's own scratchpad. -/
theorem witness_cluster_lanes : let fc := fmtOfCode (((task).core 0).tile 0).fmt
    (task).ClusterBytes 0 1 ∧ ¬(fc = .tri2 ∨ fc = .tri5) ∧ targetFmt (task) 0 = fc ∧ (∀ a n, (task).InTime a n)
    ∧ (∀ p ∈ strideLanes fc 0 1 ((task).me.rdM 0), p.2 % elemBytes fc = 0 ∧ (task).ClusterBytes p.2 (elemBytes fc))
    ∧ ∀ p ∈ indexLanes ((task).me.rdS 2) ((task).me.peekV 3) 0 ((task).me.rdM 0), p.2 % elemBytes fc = 0 ∧ (task).ClusterBytes p.2 (elemBytes fc) := by
  have h : ∀ p ∈ strideLanes (fmtOfCode (((task).core 0).tile 0).fmt) 0 1 ((task).me.rdM 0), p.2 % elemBytes (fmtOfCode (((task).core 0).tile 0).fmt) = 0
      ∧ p.2 < 1024 := by decide +kernel
  have h' : ∀ p ∈ indexLanes ((task).me.rdS 2) ((task).me.peekV 3) 0 ((task).me.rdM 0), p.2 = 0 := by decide +kernel
  have he : elemBytes (fmtOfCode (((task).core 0).tile 0).fmt) ≤ 8 := by decide +kernel
  refine ⟨task_cluster (by decide) (by decide), by decide +kernel, by decide +kernel, fun _ _ => task_in_time _ _, fun p hp => ⟨(h p hp).1, task_cluster ?_ ?_⟩,
    fun p hp => ?_⟩
  · have := (h p hp).2; rw [Nat.mod_eq_of_lt (by omega)]; simp only [scratchTop]; omega
  · have := (h p hp).2; omega
  · rw [h' p hp]; exact ⟨by simp, task_cluster (by simp only [scratchTop]; omega) (by decide)⟩
theorem witness_vector_memory_device : (task).PlaceFree ∧ ((task).firstXlat 0 0).blk = 0
    ∧ ¬(fmtOfCode ((task).firstXlat 0 0).fmt = .tri2 ∨ fmtOfCode ((task).firstXlat 0 0).fmt = .tri5)
    ∧ ∀ p ∈ strideLanes (fmtOfCode ((task).firstXlat 0 0).fmt) 0 1 ((task).me.rdM 0), ((task).firstXlat 0 p.2).blk = 0 ∧
        p.2 % elemBytes (fmtOfCode ((task).firstXlat 0 0).fmt) = 0 ∧ p.2 < 2 ^ 57 :=
  ⟨by unfold State.PlaceFree; decide, by decide +kernel, by decide +kernel, by decide +kernel⟩

theorem witness_indexed_memory : (task).Ready 4 4 [.s 2, .v 3, .m 0] [.v 1] ∧ (task).Ready 4 14 [.s 2, .v 3, .m 0] [.v 1]
    ∧ (task).Ready 4 1 [.s 2, .v 3, .v 1, .m 0] [] ∧ (task).PlaceFree
    ∧ LocalLanes (task) .raw32 (indexLanes ((task).me.rdS 2) ((task).me.peekV 3) 0 ((task).me.rdM 0)) true false 0
    ∧ ∀ p ∈ indexLanes ((task).me.rdS 2) ((task).me.peekV 3) 0 ((task).me.rdM 0), ((task).firstXlat 0 p.2).blk = 0 ∧
        p.2 % elemBytes (fmtOfCode ((task).firstXlat 0 0).fmt) = 0 ∧ p.2 < 2 ^ 57 := by
  have h : ∀ p ∈ indexLanes ((task).me.rdS 2) ((task).me.peekV 3) 0 ((task).me.rdM 0), p.2 = 0 := by decide +kernel
  refine ⟨task_ready .., task_ready .., task_ready .., by unfold State.PlaceFree; decide, task_lanes _ _ _ ?_, ?_⟩
  · intro p hp; rw [h p hp]; decide
  · intro p hp; rw [h p hp]; exact ⟨by decide +kernel, by simp, by decide⟩

/-- W0 bound to 5,000 bytes, of which the first 4,096 are cached: a read that ends with the cache, and one that goes past it. -/
def windowed : State :=
  { task with node := some { testNode with image := { probeImage with windows := [some { handle := 0, off := 0, size := 5000, cache := [] }] } } }
theorem witness_windows : windowed.Clear [] [.s 1] ∧ windowed.Ready 4 4 [] [.v 1] ∧ windowed.PlaceFree
    ∧ (∃ b, windowed.boundWindow 0 = some b ∧ 4088 + min 8 (b.size - 4088) ≤ 4096 ∧ 0 < min 8 (b.size - 4096) ∧ 4096 < 4096 + min 8 (b.size - 4096)
        ∧ min 256 (b.size - 5000) = 0)
    ∧ windowed.boundWindow 1 = none :=
  ⟨clear_of_quiet (by decide) _ _, ready_of_quiet (by decide) (by decide) .., by unfold State.PlaceFree; decide, ⟨_, rfl, by decide⟩, by decide⟩

/-- The range that W0's handle names is valid with GEN 0; a handle with another GEN is stale. -/
def rangedWindow : State := { windowed with slots := [(0, { rtab := 0x2000 })], mem := [(0x2019, 0x10)] }
theorem witness_window_stale : (rangedWindow.handleRange (clusterOf rangedWindow.cur) (rangedWindow.slotOfCore rangedWindow.cur) 0).stale 0x1000 = true
    ∧ (rangedWindow.handleRange (clusterOf rangedWindow.cur) (rangedWindow.slotOfCore rangedWindow.cur) 0).stale 0 = false := by decide +kernel

/-- A store of ACPY that will write tile 0. -/
def pendingStore : State := task fun c => { c with pend := [{ key := 20, slot := 3, lc := 6, pc := 0, what := .store 0 [1, 2, 3, 4] false }] }
theorem witness_tile_handoff : (task).TilesFree [5] ∧ (task).Clear [] [] ∧ (task).me.pendingTiles ++ (task).lateTiles (task).cur = [] ∧ (task).Clear [] [.s 1]
    ∧ ((task).me.tile 5).fmt < 64 ∧ ((task).me.tile 5).expect < 128 ∧ ((task).me.tile 5).arrived < 128
    ∧ pendingStore.TilesFree [0] ∧ pendingStore.Clear [] [] ∧ (∃ p ∈ pendingStore.me.pendingTiles ++ pendingStore.lateTiles 0, p.1 = 0 ∧ p.2 = 10)
    ∧ ∀ r ∈ pendingStore.me.pendingTiles ++ pendingStore.lateTiles 0, r.1 = 0 → r.2 ≤ 10 :=
  ⟨task_tiles _, task_clear _ _, by decide, task_clear _ _, by decide, by decide, by decide, by unfold State.TilesFree; decide,
    clear_of_quiet (by decide) _ _, by decide +kernel, by decide +kernel⟩

/-- A local pattern of one group at 0x100. -/
def pattern : State := task fun c => sregs [(1, 0x100)] { c with scratch := [(0x118, 1), (0x11A, 1), (0x11C, 1)] }
theorem witness_sbind : let g (i : Nat) : Nat := pattern.me.readNat (0x100 + 8 * i) 8
    pattern.Clear [.s 1] [] ∧ pattern.LocalBytes 0x100 64 true false 0 ∧ (pattern.me.rdS 1).toNat % 64 = 0 ∧ pattern.me.streams[0] = none
    ∧ g 0 < 256 ∧ bit (g 0) 1 = false ∧ bit (g 0) 3 = false ∧ g 1 = 0 ∧ g 2 < scratchTop ∧ g 3 < 2 ^ 48 ∧ bits (g 3) 0 16 ≠ 0
    ∧ bits (g 3) 16 16 ≠ 0 ∧ bits (g 3) 32 16 ≠ 0 ∧ g 7 = 0 :=
  ⟨clear_of_quiet (by decide) _ _, local_of_start (by decide) (by decide) (by decide) _, by decide +kernel⟩
theorem witness_streams_bound : streamTask.Clear [.s 1] [] ∧ streamTask.LocalBytes 0 64 true false 0 ∧ streamTask.me.streams[0].isSome = true
    ∧ streamTask.Clear [] [] ∧ streamTask.accs = [] ∧ streamTask.clAccs = [] :=
  ⟨clear_of_quiet (by decide) _ _, local_of_start (by decide) (by decide) (by decide) _, by decide, clear_of_quiet (by decide) _ _, rfl, rfl⟩
theorem witness_qst : oneRow.Clear [.s 2] [] ∧ oneRow.PlaceFree ∧ (∃ row rest, oneRow.me.queue 0 = row :: rest ∧ row.bad = false)
    ∧ (oneRow.me.rdS 2 + (0 : BitVec 20).signExtend 64).toNat % 256 = 0 ∧ oneRow.me.queue 1 = [] :=
  ⟨clear_of_quiet (by decide) _ _, by unfold State.PlaceFree; decide, ⟨_, _, rfl, rfl⟩, by decide, by decide⟩

theorem witness_atomics : ((task).me.rdS 2).toNat % 32 = 0 ∧ (task).Clear [.s 2, .s 3, .s 4] [.s 1] ∧ (task).Clear [.s 2, .s 3] [.s 1]
    ∧ (task).LocalBytes 0 8 true false 0 ∧ (task).ClusterBytes 0 8 ∧ (task).InTime 0 8 ∧ (task).PlaceFree ∧ (task).Clear [.s 2, .s 3] [] ∧ (task).Clear [.s 2] [.s 1]
    ∧ (task).Clear (.s 2 :: ((List.range 4).map fun i => Reg.s (8 + i)) ++ (List.range 4).map fun i => Reg.s (12 + i))
        ((List.range 4).map fun i => Reg.s (16 + i)) :=
  ⟨by decide, task_clear _ _, task_clear _ _, task_bytes (by decide) _, task_cluster (by decide) (by decide),
    task_in_time _ _, task_place, task_clear _ _, task_clear _ _, task_clear _ _⟩
theorem witness_atomic_values : (0xFFFFFFFF : Nat) < 2 ^ 32 ∧ (0xFFFFFFFFFFFFFFFF : Nat) < 2 ^ 64 := by decide

theorem witness_remote_and_command : ((task).me.rdS 2).toNat < 2 ^ 57 ∧ (task).PlaceFree ∧ (task).Clear [.s 2, .s 3, .s 4] []
    ∧ (task).Clear [.s 2, .s 3, .s 4] [.s 1] ∧ (task).Clear [.s 2, .s 4] [.s 1] ∧ (task).Clear [.s 4] [] ∧ (task).Clear [] [] ∧ (task).Clear [.s 2] []
    ∧ (task).cmds = [] :=
  ⟨by decide, by unfold State.PlaceFree; decide, task_clear _ _, task_clear _ _, task_clear _ _, task_clear _ _, task_clear _ _, task_clear _ _, rfl⟩

/-- An older store and an older load of the same byte. -/
def olderStore : Access :=
  { id := 5, core := 0, pc := 0, lc := 0, op := .st, addr := 8, todo := [{ va := 8, n := 1, data := 1 }], inLoad := false, inStore := true, deps := [] }
def olderLoad : Access :=
  { id := 6, core := 0, pc := 0, lc := 0, op := .ld 1 .b1 false, addr := 8, todo := [{ va := 8, n := 1 }], inLoad := true, inStore := false, deps := [] }
def older2 : State := { task with accs := [olderStore, olderLoad], nextId := 7 }
theorem witness_ordering : olderStore ∈ older2.accs ∧ olderStore.core = 0 ∧ olderStore.place ≠ .performed ∧ olderStore.isAgg = false
    ∧ olderStore.inStore = true ∧ olderLoad ∈ older2.accs ∧ olderLoad.core = 0 ∧ olderLoad.place ≠ .performed ∧ olderLoad.isAgg = false
    ∧ olderLoad.inLoad = true ∧ older2.overlaps olderLoad 0 (older2.slotOfCore 0) [{ va := 8, n := 1, data := 2 }] = true ∧ Scope.dev ≠ .dom ∧ Scope.dev ≠ .sys := by
  decide +kernel
/-- A device input stream with groups still to ask for, a device output stream with one still in the pipelines, and an aggregated element. -/
def oneGroup (output : Bool) (done : Nat) : Stream :=
  { output := output, device := true, tc := false, tagx := 0, handle := 0, start := 0, counts := [2, 1, 1], strides := [256, 0, 0], pc := 0, done := done }
def ordered : State :=
  { task (fun c => { c with streams := (c.streams.set 0 (some (oneGroup false 0))).set 1 (some (oneGroup true 1)) }) with
    accs := [{ olderStore with op := .agg none true 1 3, place := .sent }] }
theorem witness_ordering_streams : (ordered.core 0).streams[0] = some (oneGroup false 0) ∧ (ordered.core 0).streams[1] = some (oneGroup true 1)
    ∧ (oneGroup false 0).moved < (oneGroup false 0).total ∧ (oneGroup true 1).moved < min (oneGroup true 1).total (oneGroup true 1).done
    ∧ ∀ a ∈ ordered.accs, a.core = 0 ∧ a.isAgg = true := by decide +kernel
theorem witness_ordering_fenced : ∃ (s : State) (e : Dep), e ∈ (s.core 0).ordLoads ∧ e ∈ (s.core 0).ordStores ∧ s.depMet e = false :=
  ⟨{ older2 with cores := [(0, { Core.idle with phase := .running, ordLoads := [⟨6, .performed⟩], ordStores := [⟨6, .performed⟩] })] }, ⟨6, .performed⟩, by decide,
    by decide, by decide⟩

def circ9 (rx : List RxPlace) (out : Nat) : Circuit :=
  { id := 9, links := 0, lat := 4, rtask := 0, stask := 0, rhere := true, shere := true, rx := rx
    out := List.replicate out ({ type := 2, circ := 9, data := 0 }, []) }
def circuited (rx : List RxPlace) (out : Nat) (f : Core → Core := id) : State := { task f with circuits := [circ9 rx out] }
/-- Room for exactly the 6 flits of a message of 64 words, beside 10 others. -/
theorem witness_send : (circuited [] 10).circuits.find? (fun c => c.id == (9 : Circ).val) = some (circ9 [] 10)
    ∧ (circ9 [] 10).shere = true ∧ (circ9 [] 10).stask = (circuited [] 10).cur ∧ (circuited [] 10).Ready 5 1 [.v 1] []
    ∧ (circ9 [] 10).out.length + (64 + 15) / 16 + 2 ≤ 16 :=
  ⟨rfl, by decide, by decide, ready_of_quiet (by decide) (by decide) .., by decide⟩
theorem witness_send_waits : (circuited [] 11).circuits.find? (fun c => c.id == (9 : Circ).val) = some (circ9 [] 11)
    ∧ (circuited [] 11).Ready 5 1 [.v 1] [] ∧ 16 < (circ9 [] 11).out.length + (64 + 15) / 16 + 2 ∧ (circuited [] 11).me.chanErr = [] :=
  ⟨rfl, ready_of_quiet (by decide) (by decide) .., by decide, by decide⟩
theorem witness_send_by_another : ∃ (s : State) (ci : Circuit), s.circuits.find? (fun c => c.id == (9 : Circ).val) = some ci
    ∧ ¬(ci.shere = true ∧ ci.stask = s.cur) ∧ s.Ready 5 1 [.v 1] [] :=
  ⟨{ task with circuits := [{ circ9 [] 0 with stask := 1 }] }, { circ9 [] 0 with stask := 1 }, by decide, by decide,
    ready_of_quiet (by decide) (by decide) ..⟩
theorem witness_sendt : (circuited [] 0).Clear [] [] ∧ (circuited [] 0).TilesFree [383] ∧ (circuited [] 0).me.pendingTiles ++ (circuited [] 0).lateTiles 0 = []
    ∧ (circuited [] 0).me.queue 1 = [] :=
  ⟨clear_of_quiet (by decide) _ _, by unfold State.TilesFree; decide, by decide, by decide⟩
theorem witness_qsend : ∃ s : State, s.Clear [] [] ∧ s.circuits.find? (fun c => c.id == (9 : Circ).val) = some (circ9 [] 0) ∧ 1 ≤ (s.me.queue 0).length
    ∧ (∀ r ∈ (s.me.queue 0).take 1, r.bad = false) ∧ (s.me.queue 0).length < 2 :=
  ⟨circuited [] 0 fun c => c.setQueue 0 [{ words := 7 }], clear_of_quiet (by decide) _ _, by decide, by decide, by decide, by decide⟩

def word1 (stamp : Word) (kind len : Nat) : Message :=
  { circ := 9, stamp := stamp, kind := kind, len := len, fmt := 0, sdev := 0, stask := 0, cstep := 0, payload := [0x2A] }
/-- A message of one word, stamped 15 logical cycles ago, as the task at LC 20 expects it; one of another stamp; none. -/
def receiving (l : List RxPlace) : State := circuited l 0 ({ · with lc := 20 })
theorem witness_receive : (receiving [.ready (word1 5 0 1)]).Ready 5 1 [] [.v 1] ∧ (receiving [.ready (word1 5 0 1)]).me.lc - (15 : BitVec 24).signExtend 64 = 5
    ∧ (receiving []).Ready 5 1 [] [.v 1] ∧ (circ9 [.ready (word1 5 0 1)] 0).rhere = true ∧ (circ9 [.ready (word1 5 0 1)] 0).rtask = (receiving [.ready (word1 5 0 1)]).cur
    ∧ (circ9 [.ready (word1 5 0 1)] 0).rx = .ready (word1 5 0 1) :: [] ∧ (word1 5 0 1).stamp = 5 ∧ (word1 5 0 1).kind = 0
    ∧ (word1 5 0 1).len = (0 : Fin 64).val + 1 ∧ (word1 6 0 1).stamp ≠ 5 ∧ (word1 5 0 2).len ≠ (0 : Fin 64).val + 1 ∧ (word1 5 1 1).kind ≠ 0
    ∧ (receiving []).me.chanErr = [] :=
  ⟨ready_of_quiet (by decide) (by decide) .., by decide, ready_of_quiet (by decide) (by decide) .., by decide +kernel⟩
theorem witness_recvt : (receiving [.ready (word1 5 1 1)]).Clear [] [] ∧ (receiving [.ready (word1 5 1 1)]).TilesFree [3]
    ∧ (receiving [.ready (word1 5 1 1)]).me.pendingTiles ++ (receiving [.ready (word1 5 1 1)]).lateTiles 0 = [] :=
  ⟨clear_of_quiet (by decide) _ _, by unfold State.TilesFree; decide, by decide⟩

theorem witness_engine_commands : (task).Clear [.s 1] [] ∧ (task).PlaceFree ∧ (task).cmds = [] ∧ bits ((task).collTemplate (task).cur 0).toNat 48 9 = (task).cur
    ∧ ((task).me.rdS 1).toNat % 64 = 0 ∧ ((task (sregs [(1, 32)])).me.rdS 1).toNat % 64 ≠ 0 ∧ (task (sregs [(1, 32)])).Clear [.s 1] [] :=
  ⟨task_clear _ _, by unfold State.PlaceFree; decide, rfl, by decide +kernel, by decide, by decide, clear_of_quiet (by decide) _ _⟩
def otherIssuer : State := { task with node := some { testNode with image := { probeImage with collT := [BitVec.ofNat 512 (5 * 2 ^ 48)] } } }
theorem witness_coll_by_another : otherIssuer.Clear [.s 1] [] ∧ otherIssuer.PlaceFree
    ∧ bits (otherIssuer.collTemplate otherIssuer.cur (0 : Fin 256).val).toNat 48 9 ≠ otherIssuer.cur :=
  ⟨clear_of_quiet (by decide) _ _, by unfold State.PlaceFree; decide, by decide +kernel⟩

/-! ### The command core, traps and the steps of the cores -/

theorem witness_command_core : graphTask.graph = some 0 ∧ (graphTask).Clear [] [.s 3] ∧ ((graphTask).slot 0).status = some 0x123 ∧ (graphTask).Clear [] []
    ∧ (graphTask).choose = some 0 ∧ ((graphTask).issues id).choose = some 0 ∧ ((graphTask).issues id).graph = some 0 ∧ (graphTask).cur = 384
    ∧ (graphTask).me.pend = [] ∧ (graphTask).me.phase ≠ .aligning :=
  ⟨rfl, graph_clear _ _, by decide, graph_clear _ _, by decide +kernel, by decide +kernel, by decide +kernel, rfl, by decide, by decide⟩
/-- The slot's node still runs. -/
def nodeRuns : State := { graphTask with slots := [(0, { valid := true, st := .running, status := none })], node := some testNode }
theorem witness_node_runs : nodeRuns.graph = some 0 ∧ nodeRuns.Clear [] [.s 3] ∧ (nodeRuns.slot 0).status = none ∧ nodeRuns.me.chanErr = []
    ∧ nodeRuns.cur = 384 ∧ nodeRuns.Clear [.s 1, .s 2] [] ∧ nodeRuns.node.isSome = true :=
  ⟨rfl, clear_of_quiet (by decide) _ _, by decide, by decide, rfl, clear_of_quiet (by decide) _ _, rfl⟩

theorem witness_sigh : (graphTask (sregs [(2, 0x1000)])).Clear [.s 1, .s 2] [] ∧ (2 : SReg) ≠ 0 ∧ ((graphTask (sregs [(2, 0x1000)])).me.rdS 2).toNat % 8 = 0 :=
  ⟨clear_of_quiet (by decide) _ _, by decide, by decide⟩

/-- The memory that holds the smallest image: a header, one directory entry, 384 task entries of which the first names a bundle, windows, and
a segment of 24 code words. Bytes 224 to 255, its SIG, are the SHA-256 of the other bytes. -/
def imageMem : List (Nat × Byte) :=
  [(1, 0x01), (2, 0x01), (4, 0x31), (5, 0x47), (6, 0x4c), (7, 0x59), (12, 0xc0), (13, 0x0d), (22, 0x40), (40, 0x01), (45, 0x01),
   (48, 0x80), (49, 0x01), (52, 0x40), (53, 0x01), (96, 0x08), (100, 0x40), (101, 0x0d), (112, 0x40), (116, 0x80), (117, 0x0d),
   (224, 0x60), (225, 0x16), (226, 0x14), (227, 0xd0), (228, 0xcc), (229, 0x3c), (230, 0x17), (231, 0x27), (232, 0xe6), (233, 0xaa),
   (234, 0xc9), (235, 0x51), (236, 0xb6), (237, 0x7b), (238, 0x58), (239, 0x92), (240, 0x52), (241, 0x34), (242, 0xd5), (243, 0x78),
   (244, 0x64), (245, 0xd1), (246, 0x3b), (248, 0x8e), (249, 0xb8), (250, 0x77), (251, 0x97), (252, 0x63), (253, 0x74), (254, 0x76),
   (255, 0x46), (256, 0x80), (257, 0x0d), (320, 0x90), (321, 0x0d), (327, 0x80), (3464, 0x18)]
/-- A page of every cluster's cache: the first 4 KiB of tier 0 at address 0. -/
def firstPage : List (Nat × Cluster) := [0, 12, 13, 14, 22].map fun c => (c, { pages := [{ slot := 0, base := 0, size := 4096, pte := 3 }] })
def imaged : State :=
  { State.reset with
    level := 2, clusters := firstPage, mem := imageMem
    cores := [(cmdKey, { Core.idle with phase := .running })], cur := cmdKey, slots := [(0, { valid := true, st := .ready })] }
def loads (s : State) (n base args : Nat) : Bool :=
  match s.loadNode n base args with
  | .ok _ => true
  | .error _ => false
/-- The result is there and passes the test. -/
def ok1 {ε α : Type} (x : Except ε α) (p : α → Bool) : Bool :=
  match x with
  | .ok a => p a
  | .error _ => false
def launching : State := { imaged with graph := some 0 }

/-! The image's bytes, read through the cached page. -/

theorem imaged_translate (va n : Nat) (h : va < 4096) : launching.translate cmdCluster 0 va n = .ok { key := va, word := 3 } := by
  have hb : bit va 56 = false := by
    unfold bit
    rw [Nat.div_eq_of_lt (show va < 2 ^ 56 by omega)]
    rfl
  have hc : launching.cluster cmdCluster = { pages := [{ slot := 0, base := 0, size := 4096, pte := 3 }] } := by decide +kernel
  have hl : launching.leafOf cmdCluster 0 va = .ok { pte := 3, base := 0, size := 4096 } := by
    unfold State.leafOf
    rw [hc]
    simp [h]
  have hr : launching.rangeMatch cmdCluster 0 va = none := by
    unfold State.rangeMatch
    rw [hc]
    rfl
  unfold State.translate
  rw [hb, hr, hl]
  simp [bit, Leaf.xlat, memKey, pteTier, ptePa, bits]
theorem imaged_reads (fuel va n : Nat) (h : va + n ≤ 4096) (hf : n = 0 ∨ n + va % 64 ≤ 64 * fuel) :
    launching.readVa 0 0 fuel va n = .ok ((List.range n).map fun i => launching.memByte (va + i)) := by
  induction fuel generalizing va n with
  | zero => rw [show n = 0 by omega]; rfl
  | succ f ih =>
    unfold State.readVa
    by_cases hn : n = 0
    · subst hn; rfl
    · have h1 : min n (64 - va % 64) ≤ n := Nat.min_le_left ..
      have h2 : min n (64 - va % 64) ≤ 64 - va % 64 := Nat.min_le_right ..
      have h3 : min n (64 - va % 64) = n ∨ min n (64 - va % 64) = 64 - va % 64 := by
        rcases Nat.le_total n (64 - va % 64) with h | h
        · exact .inl (Nat.min_eq_left h)
        · exact .inr (Nat.min_eq_right h)
      rw [if_neg hn]
      generalize min n (64 - va % 64) = k at h1 h2 h3 ⊢
      have hp : launching.spoilt va k = false := by simp [State.spoilt, State.poisoned, launching, imaged, State.reset]
      simp only [show ¬ 2 ^ 57 ≤ va by omega, if_false, imaged_translate va _ (by omega), hp, Bool.not_false, Bool.true_and, Bool.false_eq_true]
      rw [ih _ _ (by omega) (by omega)]
      have hr : List.range n = List.range k ++ (List.range (n - k)).map (k + ·) := by
        rw [← List.range_add]; congr 1; omega
      rw [hr]
      simp [State.memBytes, Nat.add_assoc]
/-- The bytes of the image: those that the memory lists, and zeros between them. -/
def imageBytes : List Byte :=
  leBytes 328 (0x8000000000000d900000000000000000 * 2 ^ 2496 + 0xd80 * 2 ^ 2048
    + 0x467674639777b88e003bd16478d5345292587bb651c9aae627173cccd0141660 * 2 ^ 1792
    + 0xd8000000040000000000000000000000d4000000008000000000000000000000000000000000000000000000000000000000000000000000000000000000000014000000180000001000000000100000000000000000000000000000000004000000000000000000dc000000000594c473100010100)
  ++ List.replicate 3136 0 ++ [0x18] ++ List.replicate 55 0
theorem get_off {m : List (Nat × Byte)} {k : Nat} (h : ∀ p ∈ m, p.1 ≠ k) : Sparse.get 0 m k = 0 := by
  have : Sparse.find? k m = none := by
    induction m with
    | nil => rfl
    | cons p r ih =>
      obtain ⟨j, v⟩ := p
      have hj : j ≠ k := h (j, v) (by simp)
      simp only [Sparse.find?, hj, if_false, ih fun q hq => h q (by simp [hq])]
  simp [Sparse.get, this]
/-- Where memory lists nothing it reads as zeros. -/
theorem image_zeros (a n : Nat) (h : ∀ p ∈ imageMem, p.1 < a ∨ a + n ≤ p.1) :
    (List.range n).map (fun i => launching.memByte (a + i)) = List.replicate n 0 := by
  induction n with
  | zero => rfl
  | succ n ih =>
    rw [List.range_succ, List.map_append, ih fun p hp => by have := h p hp; omega, List.replicate_succ']
    congr 1
    exact congrArg (· :: []) (get_off fun p hp => by have := h p hp; omega)
theorem image_read : launching.readAt 0 0 0 3520 = .ok imageBytes := by
  unfold State.readAt
  rw [imaged_reads _ _ _ (by decide) (by decide), imageBytes, show (3520 : Nat) = 328 + 3136 + 1 + 55 from rfl, List.range_add, List.range_add,
    List.range_add]
  simp only [List.map_append, List.map_map]
  have h (a n : Nat) (h : ∀ p ∈ imageMem, p.1 < a ∨ a + n ≤ p.1) :
      (List.range n).map ((fun i => launching.memByte (0 + i)) ∘ fun x => a + x) = List.replicate n 0 := by
    rw [← image_zeros a n h]
    exact List.map_congr_left fun i _ => by simp
  rw [h 328 3136 (by decide +kernel), h (328 + 3136 + 1) 55 (by decide +kernel)]
  exact congrArg Except.ok (congrArg (· ++ List.replicate 55 (0 : Byte)) (congr (congrArg _ (congrArg (· ++ List.replicate 3136 (0 : Byte)) (by decide +kernel)))
    (by decide +kernel)))
theorem image_head : launching.readAt 0 0 0 256 = .ok (imageBytes.take 256) := by
  unfold State.readAt
  rw [imaged_reads _ _ _ (by decide) (by decide)]
  exact congrArg Except.ok (by decide +kernel)
/-- n blocks of 64 bytes. -/
def cut : Nat → List Byte → List (List Byte)
  | 0, _ => []
  | n + 1, l => l.take 64 :: cut n (l.drop 64)
theorem blocks_of_cut (n : Nat) (l : List Byte) (x : Histories) : Histories.blocks n l x = (cut n l).foldl Histories.block x := by
  induction n generalizing l x with
  | zero => rfl
  | succ n ih => exact ih _ _
/-- The image with its SIG zero, padded and cut into blocks: six that hold something, 48 of zeros, the segment's, and the padding's. -/
def imageBlocks : List (List Byte) :=
  cut 6 (part imageBytes 0 224 ++ List.replicate 32 0 ++ (imageBytes.drop 256).take 128) ++ List.replicate 48 (List.replicate 64 0)
    ++ [List.replicate 8 0 ++ 0x18 :: List.replicate 55 0, shaPad 3520]
theorem image_blocks : cut 56 (part imageBytes 0 224 ++ List.replicate 32 0 ++ imageBytes.drop 256 ++ shaPad 3520) = imageBlocks := by decide +kernel
/-- The state half way. -/
def halfway : Histories := { up := [0xd758f012, 0x1a7066ab, 0x1796dfb4, 0x26a80f72], low := [0x13d86be3, 0x6b374f27, 0x2d099a4d, 0x83e79e01] }
theorem image_hash1 : (imageBlocks.take 28).foldl Histories.block Histories.first = halfway := by decide +kernel
theorem image_hash2 : (imageBlocks.drop 28).foldl Histories.block halfway
    = { up := [0x601614d0, 0xcc3c1727, 0xe6aac951, 0xb67b5892], low := [0x5234d578, 0x64d13b00, 0x8eb87797, 0x63747646] } := by decide +kernel
theorem sha_of_blocks {m : List Byte} {c k : Nat} {l : List (List Byte)} (hn : m.length = c) (hk : (m ++ shaPad c).length / 64 = k)
    (hl : cut k (m ++ shaPad c) = l) : sha256 m = (l.foldl Histories.block Histories.first).bytes := by
  subst hn hk hl
  exact congrArg Histories.bytes (blocks_of_cut _ _ _)
theorem image_signed : sigOk imageBytes = true := by
  unfold sigOk
  have h : sha256 (part imageBytes 0 224 ++ List.replicate 32 0 ++ imageBytes.drop 256) = _ :=
    sha_of_blocks (c := 3520) (k := 56) (l := imageBlocks) (by decide +kernel) (by decide +kernel) image_blocks
  rw [h, ← List.take_append_drop 28 imageBlocks, List.foldl_append, image_hash1, image_hash2]
  decide +kernel
theorem image_reads : launching.readImage 0 0 = .ok imageBytes := by
  unfold State.readImage State.readWords
  rw [if_neg (by decide), image_head]
  simp only [show headerCheck (words64 (imageBytes.take 256) 0 32) = none by decide +kernel,
    show bits ((words64 (imageBytes.take 256) 0 32).getD 1 0) 32 32 = 3520 by decide +kernel, image_read, image_signed, if_true]
theorem loads_of_parts {s : State} {n base args : Nat} {img : List Byte} {ld : Loaded} {w : List (Option BoundWindow)} (h1 : s.readImage n base = .ok img)
    (h2 : (s.level = 1 && s.tier0Named n) = false) (h3 : ¬ 2 ^ 20 ≤ (s.slot n).recs.length) (h4 : loadItems img base = .ok ld)
    (h5 : s.bindWindows n args ld 0 ld.wins = .ok w) : loads s n base args = true := by
  unfold loads State.loadNode
  simp only [h1, h2, h3, h4, h5, if_false, Bool.false_eq_true]
theorem ok_of_ok1 {ε α : Type} {x : Except ε α} {p : α → Bool} (h : ok1 x p = true) : ∃ a, x = .ok a ∧ p a = true := by
  cases x with
  | error => cases h
  | ok a => exact ⟨a, rfl, h⟩
theorem image_items : ok1 (loadItems imageBytes 0) (fun ld => decide (ld.wins = List.replicate 8 0)) = true := by decide +kernel
theorem no_windows (ld : Loaded) : ∃ w, launching.bindWindows 0 0 ld 0 (List.replicate 8 0) = .ok w := ⟨_, rfl⟩
theorem launching_loads : loads launching 0 0 0 = true := by
  obtain ⟨ld, hl, hw⟩ := ok_of_ok1 image_items
  obtain ⟨w, hb⟩ := no_windows ld
  rw [← of_decide_eq_true hw] at hb
  exact loads_of_parts image_reads (by decide +kernel) (by decide +kernel) hl hb
theorem loads_iff {s : State} {n base args : Nat} (h : loads s n base args = true) : ∃ ld, s.loadNode n base args = .ok ld := by
  unfold loads at h
  split at h
  · next ld hd => exact ⟨ld, hd⟩
  · cases h
theorem witness_launch : launching.graph = some 0 ∧ launching.cur = 384 ∧ launching.Clear [.s 1, .s 2] [] ∧ launching.node = none
    ∧ launching.choose = some 0 ∧ ∃ ld, launching.loadNode 0 (launching.me.rdS 1).toNat (launching.me.rdS 2).toNat = .ok ld :=
  ⟨rfl, rfl, clear_of_quiet (by decide +kernel) _ _, rfl, by decide +kernel, by
    rw [show (launching.me.rdS 1).toNat = 0 by decide +kernel, show (launching.me.rdS 2).toNat = 0 by decide +kernel]
    exact loads_iff launching_loads⟩

/-! Which slot's graph runs plays no part in reading an image. -/

theorem walk_graph (s : State) (g : Option Nat) (va fuel key : Nat) : State.walk { s with graph := g } va fuel key = s.walk va fuel key := by
  induction fuel generalizing key with
  | zero => rfl
  | succ n ih => simp only [State.walk, ih]; rfl
theorem leafOf_graph (s : State) (g : Option Nat) (cl slot va : Nat) : State.leafOf { s with graph := g } cl slot va = s.leafOf cl slot va := by
  unfold State.leafOf; rw [walk_graph]; rfl
theorem translate_graph (s : State) (g : Option Nat) (cl slot va n : Nat) : State.translate { s with graph := g } cl slot va n = s.translate cl slot va n := by
  unfold State.translate; rw [leafOf_graph]; rfl
theorem readAt_graph (s : State) (g : Option Nat) (slot base va n : Nat) : State.readAt { s with graph := g } slot base va n = s.readAt slot base va n := by
  unfold State.readAt
  generalize n / 64 + 2 = fuel
  induction fuel generalizing va n with
  | zero => rfl
  | succ k ih => simp only [State.readVa, ih, translate_graph]; rfl
theorem readImage_graph (s : State) (g : Option Nat) (slot base : Nat) : State.readImage { s with graph := g } slot base = s.readImage slot base := by
  simp only [State.readImage, State.readWords, readAt_graph]
theorem bindWindows_graph (s : State) (g : Option Nat) (slot args : Nat) (ld : Loaded) (l : List Nat) (i : Nat) :
    State.bindWindows { s with graph := g } slot args ld i l = s.bindWindows slot args ld i l := by
  have hf : ∀ hd base off size, State.fillWindow { s with graph := g } slot hd base off size = s.fillWindow slot hd base off size := by
    intros; simp only [State.fillWindow, readAt_graph]
  have hp : ∀ va, State.pageRange { s with graph := g } slot va = s.pageRange slot va := by
    intro va; unfold State.pageRange; rw [leafOf_graph]; rfl
  have hb : ∀ w, State.bindWindow { s with graph := g } slot args ld w = s.bindWindow slot args ld w := by
    intro w; simp only [State.bindWindow, hf, hp]; rfl
  induction l generalizing i with
  | nil => rfl
  | cons w r ih => simp only [State.bindWindows, hb, ih]

theorem loads_parts {s : State} {g : Option Nat} {n base args : Nat} (h : loads { s with graph := g } n base args = true) :
    ∃ img ld w, s.readImage n base = .ok img ∧ loadItems img base = .ok ld ∧ s.bindWindows n args ld 0 ld.wins = .ok w := by
  obtain ⟨x, h⟩ := loads_iff h
  unfold State.loadNode at h
  rw [readImage_graph] at h
  split at h
  · simp at h
  · next img hi =>
    split at h
    · simp at h
    · split at h
      · simp at h
      · split at h
        · simp at h
        · next ld hl =>
          split at h
          · simp at h
          · next w hw => exact ⟨img, ld, w, hi, hl, by rw [bindWindows_graph] at hw; exact hw⟩
theorem witness_graph_start : imaged.graph = none ∧ imaged.cmdBusy = .free ∧ imaged.choose = some 0 ∧ (imaged.slot 0).st = .ready
    ∧ ∃ img ld w, imaged.readImage 0 (imaged.slot 0).prog.toNat = .ok img ∧ loadItems img (imaged.slot 0).prog.toNat = .ok ld
      ∧ imaged.bindWindows 0 (imaged.slot 0).args.toNat ld 0 ld.wins = .ok w :=
  ⟨rfl, rfl, by decide +kernel, by decide +kernel, by
    rw [show (imaged.slot 0).prog.toNat = 0 by decide +kernel, show (imaged.slot 0).args.toNat = 0 by decide +kernel]
    exact loads_parts (g := some 0) launching_loads⟩

theorem witness_trap_handler : ∃ s : State, (0 : Nat) ≠ 384 ∧ coreCause 0x21 = true ∧ bits (s.core 0).trapvec.toNat 0 57 ≠ 0 ∧ (s.core 0).inh = false
    ∧ (s.core 0).phase ≠ .stopped ∧ (s.core 0).pend = [] ∧ (s.core 0).reports = [] ∧ s.awaited 0 = none ∧ s.awaitedCl 0 = false :=
  ⟨task ({ · with trapvec := 0x400000002000 }), by decide⟩
theorem witness_trap_stops : ∃ (s : State) (n : Node), s.node = some n ∧ bits (s.core 0).trapvec.toNat 0 57 = 0 ∧ (s.core 0).phase ≠ .stopped
    ∧ (s.core 0).pend = [] ∧ (s.core 0).reports = [] ∧ s.awaited 0 = none ∧ s.awaitedCl 0 = false ∧ s.scribe.frozen = false
    ∧ s.scribe.freezeIn = none ∧ n.slot < 64 ∧ (s.placeOf 0).1 < 16 ∧ (s.placeOf 0).2 < 64
    ∧ s.scribe.later (Sparse.get 0 s.scribe.ring ((s.scribe.head - 1).toNat % 8192)) (scribeKey 1 0) = false :=
  ⟨task, testNode, rfl, by decide +kernel⟩
/-- A bundle held since clock 0, one clock before the patience of the node, and at it. -/
def heldAt (clk : Nat) : State := { task ({ · with held := some 0, trapvec := 0x400000002000 }) with clk := clk }
theorem witness_patience : ((heldAt 0).core 0).held = some 0 ∧ (heldAt ((heldAt 0).patience 0 - 1)).counted 0 0 < (heldAt 0).patience 0
    ∧ (heldAt ((heldAt 0).patience 0)).patience 0 ≤ (heldAt ((heldAt 0).patience 0)).counted 0 0 ∧ bits ((heldAt 0).core 0).trapvec.toNat 0 57 ≠ 0
    ∧ ((heldAt 0).core 0).inh = false ∧ ((heldAt 0).core 0).phase ≠ .stopped ∧ ((heldAt 0).core 0).pend = [] ∧ ((heldAt 0).core 0).reports = [] :=
  ⟨by decide, by decide, by decide, by decide, by decide, by decide, by decide, by decide⟩
/-- Clocks that a migration holds the tasks for do not count. -/
theorem witness_patience_migration : ({ heldAt 5000 with migration := some { slot := 0, index := 0, off := 0, tier := false, heldFrom := some 100 } } : State).counted 0 0
    = 100 := by decide

theorem node_goes_on {s : State} (h : s.node = some testNode) : nodeGoesOn s := fun n hn => by rw [h] at hn; cases hn; rfl
/-- Task 0 before a bundle of one ADDI guarded by P1. -/
def guarded (f : Core → Core := id) : State := { task with cores := [(0, f (probeCore (escaped 1 (slotWord 1 false 3 0))))] }
def plain : State := { task with cores := [(0, probeCore (escaped 1 (slotWord 0 false 3 0)))] }
/-- What the head of a core is, as a bundle that is nullified or not. -/
def headIs (s : State) (nullified : Bool) : Bool :=
  match s.head 0 with
  | .bundle _ _ b => (s.core 0).nullifies b == nullified
  | _ => false
theorem of_headIs {s : State} {x : Bool} (h : headIs s x = true) : ∃ half w b, s.head 0 = .bundle half w b ∧ (s.core 0).nullifies b = x := by
  unfold headIs at h
  split at h
  · next half w b hb => exact ⟨half, w, b, hb, by simpa using h⟩
  · cases h
theorem witness_nullified : nextBundle (guarded) 0 ∧ ∃ half w b, (guarded).head 0 = .bundle half w b ∧ ((guarded).core 0).nullifies b = true :=
  ⟨{ running := by decide +kernel, first := by decide +kernel, entering := by decide +kernel, quiet := by decide +kernel, node := node_goes_on rfl },
    of_headIs (by decide +kernel)⟩
theorem witness_fixed_result : ∃ (s : State) (p q : Pending), ((task fun c => { c with pend := [p] }).core 0).pend = [p] ∧ s.cur = 0
    ∧ ((task fun c => { c with pend := [p] }).core 0).lc.toNat * 2 < p.key ∧ q.key ≤ ((task fun c => { c with pend := [q] }).core 0).lc.toNat * 2 :=
  ⟨task, { key := 2, slot := 1, lc := 0, pc := 0, what := .s 1 5 }, { key := 0, slot := 1, lc := 0, pc := 0, what := .s 1 5 }, by decide, rfl, by decide, by decide⟩
/-- A task that ENDT, or SSTEP, holds behind a load. -/
def boundary (p : Phase) : State := { task ({ · with phase := p, held := some 0 }) with accs := [olderLoad] }
/-- A state when the clocks of patience have passed. -/
def timed (s : State) : State :=
  { s with cur := 0, clk := s.clk + (0 + s.patience 0 - s.clk),
           scribe := { s.scribe with time := s.scribe.time + BitVec.ofNat 64 ((0 + s.patience 0 - s.clk) * 1000 / s.mhz) } }
theorem witness_timing_trap_ending : ((boundary .ending).core 0).held = some 0 ∧ ((boundary .ending).core 0).entering = none ∧ (boundary .ending).clNext 0 = none
    ∧ nodeGoesOn (boundary .ending)
    ∧ ((boundary .ending).core 0).dueTraps = [] ∧ (boundary .ending).settled 0 = false ∧ ((boundary .ending).core 0).phase = .ending
    ∧ (boundary .ending).patience 0 ≤ (timed (boundary .ending)).counted 0 0 :=
  ⟨by decide, by decide, by decide, node_goes_on rfl, by decide +kernel, by decide +kernel, by decide, by decide +kernel⟩
/-- Task 0 before a WAITC whose counter has not come, running or behind an SSTEP whose load is outstanding. -/
def channelWait (p : Phase) : State :=
  { plain with
    cores := [(0, { probeCore (0xFFFF + 2 ^ 16 * (soloBundle (.waitcImm 2 13)).getD 0) with held := some 0, phase := p })]
    accs := if p = .sstep then [olderLoad] else [] }
/-- The bundle at the head is not nullified, and is held by a wait that patience bounds. -/
def heldHead (u : State) : Bool :=
  match u.head 0 with
  | .bundle half w b =>
    !(u.core 0).nullifies b && !b.restart && (u.reportsNow 0 (issueSlots (u.core 0) w b)).isEmpty
      && match (u.updCore 0 fun c => { c with inHalf1 := half }).judge 0 (issueSlots (u.core 0) w b) (u.sstepWait 0) with
        | .hold _ x => x.sub != 0
        | _ => false
  | _ => false
theorem of_heldHead {u : State} (h : heldHead u = true) : ∃ (half : Bool) (w : Nat) (b : Bundle) (slot : Nat) (x : Wait), u.head 0 = .bundle half w b
    ∧ (u.core 0).nullifies b = false ∧ b.restart = false ∧ u.reportsNow 0 (issueSlots (u.core 0) w b) = []
    ∧ (u.updCore 0 fun c => { c with inHalf1 := half }).judge 0 (issueSlots (u.core 0) w b) (u.sstepWait 0) = .hold slot x ∧ x.sub ≠ 0 := by
  unfold heldHead at h
  split at h
  · next half w b hb =>
    simp only [Bool.and_eq_true, Bool.not_eq_true', List.isEmpty_iff] at h
    obtain ⟨⟨⟨h1, h2⟩, h3⟩, h4⟩ := h
    split at h4
    · next slot x hj => exact ⟨half, w, b, slot, x, hb, h1, h2, h3, hj, by simpa using h4⟩
    · cases h4
  · cases h
theorem witness_timing_trap : ∀ p, p = .running ∨ p = .sstep → ((channelWait p).core 0).held = some 0 ∧ ((channelWait p).core 0).entering = none
    ∧ (channelWait p).clNext 0 = none ∧ nodeGoesOn (channelWait p) ∧ ((channelWait p).core 0).phase = p ∧ (p = .sstep → (channelWait p).settled 0 = false)
    ∧ (channelWait p).patience 0 ≤ (timed (channelWait p)).counted 0 0 ∧ ((channelWait p).core 0).pend = []
    ∧ (timed (channelWait p)).core 0 = (channelWait p).core 0
    ∧ ∃ (half : Bool) (w : Nat) (b : Bundle) (slot : Nat) (x : Wait), let u := timed (channelWait p)
      u.head 0 = .bundle half w b ∧ (u.core 0).nullifies b = false ∧ b.restart = false ∧ u.reportsNow 0 (issueSlots (u.core 0) w b) = []
      ∧ (u.updCore 0 fun c => { c with inHalf1 := half }).judge 0 (issueSlots (u.core 0) w b) (u.sstepWait 0) = .hold slot x ∧ x.sub ≠ 0 := by
  intro p hp
  rcases hp with rfl | rfl <;>
    exact ⟨by decide +kernel, by decide +kernel, by decide +kernel, node_goes_on rfl, by decide +kernel, by decide +kernel, by decide +kernel,
      by decide +kernel, rfl, of_heldHead (by decide +kernel)⟩
def reported : State :=
  { plain with cores := [(0, { probeCore (escaped 1 (slotWord 0 false 3 0)) with reports := [{ due := 0, trap := { cause := 0x30, sub := 2, defer := true } }] })] }
/-- The head is a bundle that is not nullified, and it takes a report. -/
def takesReport (u : State) : Bool :=
  match u.head 0 with
  | .bundle _ w b => !(u.core 0).nullifies b && (oldestTrap (u.reportsNow 0 (issueSlots (u.core 0) w b))).isSome
  | _ => false
theorem of_takesReport {u : State} (h : takesReport u = true) : ∃ (half : Bool) (w : Nat) (b : Bundle) (r : Trap), u.head 0 = .bundle half w b
    ∧ (u.core 0).nullifies b = false ∧ oldestTrap (u.reportsNow 0 (issueSlots (u.core 0) w b)) = some r := by
  unfold takesReport at h
  split at h
  · next half w b hb =>
    simp only [Bool.and_eq_true, Bool.not_eq_true'] at h
    obtain ⟨r, hr⟩ := Option.isSome_iff_exists.mp h.2
    exact ⟨half, w, b, r, hb, h.1, hr⟩
  · cases h
theorem witness_deferred_report : nextBundle { reported with cur := 0 } 0 ∧ (reported.core 0).dueTraps ≠ []
    ∧ ∃ (half : Bool) (w : Nat) (b : Bundle) (r : Trap), let u : State := { reported with cur := 0 }
      u.head 0 = .bundle half w b ∧ (u.core 0).nullifies b = false ∧ oldestTrap (u.reportsNow 0 (issueSlots (u.core 0) w b)) = some r :=
  ⟨{ running := by decide +kernel, first := by decide +kernel, entering := by decide +kernel, quiet := by decide +kernel, node := node_goes_on rfl }, by decide +kernel,
    of_takesReport (by decide +kernel)⟩
/-- A report that is not due yet reaches the task that ENDT holds. -/
theorem witness_deferred_report_ending : ∃ s : State, (s.core 0).phase = .ending ∧ (s.core 0).entering = none ∧ s.clNext 0 = none ∧ nodeGoesOn s ∧ (s.core 0).dueTraps ≠ []
    ∧ ∃ r, oldestTrap (s.core 0).dueTraps = some r :=
  ⟨task ({ · with phase := .ending, reports := [{ due := 9, trap := { cause := 0x30, sub := 2, defer := true } }] }), by decide, by decide, by decide, node_goes_on rfl,
    by decide +kernel, Option.isSome_iff_exists.mp (by decide +kernel)⟩

/-! ### The memory side and remote packets -/

/-- A task whose image lies at 0, the segment at 3456 holding one code word, unassigned, with no half expanded. -/
def unexpanded : State :=
  { task ({ · with pc := 3472 }) with
    clusters := firstPage, mem := [(3464, 1), (3473, 0x20)]
    node := some { testNode with image := { base := 0, dir := [3456], entries := probeImage.entries } } }
theorem witness_segment_expansion : unexpanded.fetch 0 = .wait 3456 ∧ ∃ h, (unexpanded.segmentMeets 0 3456).expand 0 3456 = some h := by
  refine ⟨?_, Option.isSome_iff_exists.mp (by decide +kernel)⟩
  unfold State.fetch
  simp only [show (unexpanded.core 0).branchFrom = none by decide +kernel, show (unexpanded.core 0).fellFrom = none by decide +kernel,
    show (unexpanded.core 0).pc = 3472 by decide +kernel, show unexpanded.dirHead 0 (3472 : Word).toNat = some 3456 by decide +kernel]
  unfold Core.inSegment
  simp [show (unexpanded.core 0).halfOf 3456 = none by decide +kernel]
/-- The segment at the PC is expanded, and its NEXT, the segment at 3456, is in neither half. -/
def prefetching : State :=
  { unexpanded with
    cores := [(0, { Core.idle with
      phase := .running, pc := 32, fellFrom := some 30
      half0 := some { head := 0, next := 3456, rep := false, items := [{ pc := 32, len := 2, what := .bundle 0 }] } })] }
theorem witness_next_expansion : prefetching.imageBase 0 + 3456 = 3456 ∧ prefetching.imageBase 0 ≠ 3456
    ∧ (∃ i, prefetching.fetch 0 = .item (prefetching.core 0).inHalf1 i ∧ i.what.trap = none)
    ∧ (∃ x, (prefetching.core 0).half = some x ∧ x.rep = false ∧ x.next = 3456) ∧ (prefetching.core 0).inHalf1 = false ∧ (prefetching.core 0).half1 = none
    ∧ ∃ h, (prefetching.segmentMeets 0 3456).expand 0 3456 = some h := by
  refine ⟨by decide +kernel, by decide +kernel, ⟨{ pc := 32, len := 2, what := .bundle 0 }, ?_, rfl⟩, ⟨{ head := 0, next := 3456, rep := false, items := [{ pc := 32, len := 2, what := .bundle 0 }] }, by decide +kernel, rfl, rfl⟩,
    by decide +kernel, by decide +kernel, Option.isSome_iff_exists.mp (by decide +kernel)⟩
  unfold State.fetch
  simp only [show (prefetching.core 0).branchFrom = none by decide +kernel, show (prefetching.core 0).fellFrom = some 30 by decide +kernel,
    show (prefetching.core 0).here.head? = some { pc := 32, len := 2, what := .bundle 0 } by decide +kernel]

def aligning : State := { task ({ · with phase := .aligning }) with node := some { testNode with aligned := false } }
theorem witness_align_complete : ∃ n, aligning.node = some n ∧ n.aligned = false ∧ (∀ k ∈ aligning.tasks, (aligning.core k).phase = .aligning)
    ∧ aligning.alignMasks.1 = aligning.alignMasks.2 := ⟨_, rfl, rfl, by decide +kernel, by decide +kernel⟩

def clStore : ClAcc := { id := 1, core := 0, target := 0, addr := 0x40, perform := 7, vis := 14, slotIx := 4, pc := 0, op := .st 4 5 }
def clLoad : ClAcc := { id := 2, core := 0, target := 0, addr := 0x40, perform := 7, vis := 14, slotIx := 4, pc := 0, op := .ld 1 .b4 false }
def clState (a : ClAcc) : State := { task ({ · with lc := 8 }) with clAccs := [a] }
theorem witness_cluster_access : ∀ a ∈ [clStore, clLoad], (clState a).clAccs.find? (fun b => b.id == a.id) = some a ∧ (clState a).clReady a = true
    ∧ (clState a).clCheck a = none ∧ (clState a).clBad a = none
    ∧ ((clState a).core 0).pend = [] ∧ ((clState a).core 0).lc.toNat < a.vis := by decide +kernel
theorem witness_cluster_access_first : ∀ a ∈ [clStore, clLoad], (clState a).clNext (clState a).cur = some a := by decide +kernel
/-- R80: the store of cycle 7 stands in the scratchpad before the target's bundle of cycle 8. -/
theorem test_cluster_store_before_bundle : ((((clState clStore).clDue 0).core 0).readNat 0x40 4, ((clState clStore).clDue 0).clAccs) = (5, []) := by
  decide +kernel

/-- The last unit of a tile coming in, and an earlier one. -/
def arriving (n : Nat) : State :=
  { oneTile { engine := true, expect := 2, arrived := n } with tileIo := [{ core := 0, tile := 0, out := false, fmt := 1, unit := n, data := [1, 2], order := 0 }] }
theorem witness_tile_unit : ∀ n, n < 2 → ∃ io, (arriving n).tileIo.find? (fun x => x.core == io.core && x.tile == io.tile) = some io
    ∧ (((arriving n).core io.core).tile io.tile).engine = true ∧ (((arriving n).core io.core).tile io.tile).dir = io.out
    ∧ (((arriving n).core io.core).tile io.tile).arrived < (((arriving n).core io.core).tile io.tile).expect
    ∧ (arriving n).tileUnitBad io.core io.tile io = none := by
  intro n hn
  refine ⟨{ core := 0, tile := 0, out := false, fmt := 1, unit := n, data := [1, 2], order := 0 }, ?_⟩
  have : n = 0 ∨ n = 1 := by omega
  rcases this with rfl | rfl <;> decide +kernel

/-- Task 0 before a bundle of ADDI S1, S2, 5 alone. -/
def soloAddi : State := { plain with cores := [(0, probeCore (0xFFFF + 2 ^ 16 * (soloBundle (.addi 1 2 5)).getD 0))] }
theorem witness_step_runs : ∃ (half : Bool) (it : BufItem) (w : BitVec 384) (b : Bundle) (op : SlotOp), soloAddi.agenda = []
    ∧ soloAddi.me.phase = .running ∧ soloAddi.me.entering = none ∧ soloAddi.clNext soloAddi.cur = none ∧ nodeGoesOn soloAddi
    ∧ (∀ p ∈ soloAddi.me.pend, 2 * soloAddi.me.lc.toNat + 1 < p.key) ∧ soloAddi.reportsNow soloAddi.cur (op.alone (.addi 1 2 5)) = []
    ∧ soloAddi.fetch soloAddi.cur = .item half it ∧ it.what = .bundle w ∧ soloBundle (.addi 1 2 5) = some w.toNat ∧ slotOp (.addi 1 2 5) = some op
    ∧ decodeBundle (soloAddi.encCtx soloAddi.cur) soloAddi.me.first w.toNat = .ok b ∧ b.slots.map (·.op) = [.addi 1 2 5] := by
  let w : BitVec 384 := BitVec.ofNat 384 ((soloBundle (.addi 1 2 5)).getD 0)
  have hf : soloAddi.fetch 0 = .item false { pc := 0x400000000010, len := 50, what := .bundle w } := by
    unfold State.fetch
    simp only [show (soloAddi.core 0).branchFrom = none by decide +kernel, show (soloAddi.core 0).fellFrom = none by decide +kernel,
      show (soloAddi.core 0).pc = 0x400000000010 by decide +kernel,
      show soloAddi.dirHead 0 (0x400000000010 : Word).toNat = some 0x400000000000 by decide +kernel]
    unfold Core.inSegment
    let h : Half := { head := 0x400000000000, next := 0, rep := false, items := [{ pc := 0x400000000010, len := 50, what := .bundle w }] }
    rw [show (soloAddi.core 0).halfOf 0x400000000000 = some (false, h) by decide +kernel]
    rfl
  have hd : (decodeBundle (soloAddi.encCtx 0) soloAddi.me.first w.toNat).toOption.map (fun b => b.slots.map (·.op)) = some [.addi 1 2 5] := by
    decide +kernel
  have hb : ∃ b, decodeBundle (soloAddi.encCtx 0) soloAddi.me.first w.toNat = .ok b ∧ b.slots.map (·.op) = [.addi 1 2 5] := by
    revert hd
    cases decodeBundle (soloAddi.encCtx 0) soloAddi.me.first w.toNat with
    | ok b => intro hd; exact ⟨b, rfl, by simpa [Except.toOption] using hd⟩
    | error e => intro hd; simp [Except.toOption] at hd
  obtain ⟨b, hb1, hb2⟩ := hb
  exact ⟨false, _, w, b, _, by decide +kernel, by decide +kernel, by decide +kernel, by decide +kernel, node_goes_on rfl, by decide +kernel, by decide +kernel,
    hf, rfl, by decide +kernel, rfl, hb1, hb2⟩

/-- One access of task 0, of the byte at 8 of the first page. -/
def acc1 (op : AccOp) (place : AccAt) (st : Bool) (n : Nat) : Access :=
  { id := 5, core := 0, pc := 0, lc := 0, op := op, addr := 8, todo := [{ va := 8, n := n, data := 1 }], inLoad := !st, inStore := st, place := place, deps := [] }
def accState (a : Access) : State := { task with accs := [a], nextId := 9, clusters := firstPage, slots := [(0, { valid := true })] }
def at8 : Xlat := { key := 8, word := 3 }
theorem witness_store_enters : ∀ a ∈ [acc1 .st .queue true 4, acc1 (.streamOut 0) .queue true 4, acc1 (.atom 1 .add false 1 0) .queue true 4,
      acc1 (.remote 1 none true 0 0 0) .queue false 8],
    accessFound (accState a) a ∧ a.place = .queue ∧ (accState a).depsMet a.deps = true ∧ (accState a).behindCluster a = false
    ∧ (accState a).streamBehind a a.todo = false ∧ (accState a).behindChase a = false := by
  unfold accessFound; decide +kernel
/-- The state after what the translation of an access has read of the tables. -/
def met (a : Access) : State := (accState a).tablesMet srcCore a
/-- The link store of an ENQ, the place of whose word its unit has found. -/
def linkStore : Access := acc1 (.enqLink 1 8 1 8) .port true 8
theorem witness_store_performed : ∀ a ∈ [acc1 .st .port true 8, linkStore], let e : Elem := { va := 8, n := 8, data := 1 }
    accessFound (accState a) a ∧ a.op.isStore = true ∧ a.place = .port ∧ a.todo = [e] ∧ ((met a).storeReach a = .ok at8 ∨ (met a).storeReach a = .ok { key := 8 })
    ∧ (met a).inTurn a 8 e = true ∧ (met a).portTurn ((met a).corePort a.core) 8 8 = true := by unfold accessFound; decide +kernel
/-- A store to a granted page of host space. -/
def hostStoreAcc : Access := { acc1 .st .port true 4 with addr := 2 ^ 56 + 0x1000, todo := [{ va := 2 ^ 56 + 0x1000, n := 4, data := 1 }] }
def hostStored : State := { accState hostStoreAcc with ats := [{ pasid := 0, page := 0x10000000000001 % 2 ^ 44, hostPage := 7, write := true }] }
theorem witness_store_to_host : accessFound hostStored hostStoreAcc ∧ ∃ x, (hostStored.tablesMet srcCore hostStoreAcc).reach hostStoreAcc true = .ok x ∧ x.host = true :=
  ⟨by unfold accessFound; decide, { host := true, key := 0x7000 }, by decide +kernel, rfl⟩
theorem witness_load_replies : let a := acc1 (.ld 1 .b4 false) .queue false 4
    let e : Elem := { va := 8, n := 4, data := 1 }
    let bad : State := { accState a with poison := [0] }
    accessFound (accState a) a ∧ a.abandoned = false ∧ a.op = .ld 1 .b4 false ∧ a.todo = [e] ∧ a.got = [] ∧ elemTurn (accState a) a e at8
    ∧ at8.host = false ∧ ((met a).elemReads a at8 e).loadPoison a at8.key 4 = none
    ∧ accessFound bad a ∧ elemTurn bad a e at8 ∧ (((bad.tablesMet srcCore a).elemReads a at8 e).loadPoison a at8.key 4).isSome = true := by
  unfold accessFound elemTurn; decide +kernel
/-- A VLD of one element and one that has a second to come, a window's word past the window's size. -/
theorem witness_lane_reply : ∀ a ∈ [acc1 (.vld 1 1 .raw32) .queue false 4, { acc1 (.vld 1 3 .raw32) .queue false 4 with
      todo := [{ va := 8, n := 4, data := 1 }, { va := 12, n := 4, lane := 1 }] }], let e : Elem := { va := 8, n := 4, data := 1 }
    accessFound (accState a) a ∧ a.abandoned = false ∧ a.todo.head? = some e ∧ elemTurn (accState a) a e at8 ∧ at8.host = false ∧ at8.blk = 0
    ∧ ((accState a).core a.core).streamOf 1 = none ∧ ((met a).elemReads a at8 e).loadPoison a at8.key e.n = none := by
  unfold accessFound elemTurn; decide +kernel
theorem witness_window_reply (op : AccOp) (h : op = .ldw 1 .b4 false true ∨ op = .vldw 1 false) : let a := acc1 op .queue false 2
    let e : Elem := { va := 8, n := 2, data := 1 }
    (accessFound (accState a) a ∧ a.abandoned = false ∧ a.todo = [e] ∧ a.got = [] ∧ elemTurn (accState a) a e at8 ∧ at8.host = false
      ∧ ((accState a).core a.core).streamOf 1 = none)
    ∧ ∀ i, i < e.n → let r := (met a).elemReads a at8 e
      (e.va + i) % 2 ^ 64 < 2 ^ 57 ∧ r.translate (clusterOf a.core) a.slot ((e.va + i) % 2 ^ 64) 1 = .ok { key := 8 + i, word := 3 } ∧ r.poisoned (8 + i) 1 = none := by
  rcases h with rfl | rfl <;> (unfold accessFound elemTurn; decide +kernel)
/-- What the units have returned: the old word of an ATOM, two old words of a CASW, the old tail of an ENQ with and without a link store, a pointer. -/
theorem witness_unit_reply : ∀ p ∈ [(AccOp.atom 1 .add true 1 0, [(0, 7)]), (.casw 62 [0, 0] [1, 2], (List.range 2).zip [5, 6]), (.enq 1 9, [(0, 0)]),
      (.enqLink 1 0x40 9 0x40, []), (.chase 1 0 8, [(0, 0)])], let a : Access := { acc1 p.1 .performed true 8 with got := p.2, todo := [] }
    accessFound (accState a) a ∧ a.abandoned = false ∧ a.place = .performed ∧ 62 + [5, 6].length ≤ 64 := by unfold accessFound; decide +kernel
/-- A store of the same task stands in its queue: the load takes its bytes there. -/
def ownStore : State :=
  { accState (acc1 (.ld 1 .b4 false) .queue false 4) with
    accs := [{ olderStore with id := 4, todo := [{ va := 8, n := 4, data := 0x11223344 }] }, acc1 (.ld 1 .b4 false) .queue false 4] }
theorem test_load_takes_own_store : ownStore.loadValue (acc1 (.ld 1 .b4 false) .queue false 4) 8 4 = 0x11223344 := by decide +kernel
/-- A load of host space that the host has granted. -/
theorem witness_load_from_host : ∃ (s : State) (a : Access) (x : Xlat), accessFound s a ∧ a.todo = [{ va := 2 ^ 56 + 0x1000, n := 4 }]
    ∧ s.loadReady a { va := 2 ^ 56 + 0x1000, n := 4 } = true ∧ s.reach a false = .ok x ∧ x.host = true :=
  let a : Access := { acc1 (.ld 1 .b4 false) .queue false 4 with addr := 2 ^ 56 + 0x1000, todo := [{ va := 2 ^ 56 + 0x1000, n := 4 }] }
  ⟨{ accState a with ats := [{ pasid := 0, page := 0x10000000000001 % 2 ^ 44, hostPage := 7, write := true }] }, a, { host := true, key := 0x7000 },
    by unfold accessFound; decide, rfl, by decide +kernel, by decide +kernel, rfl⟩
def replied : State := { accState (acc1 (.remote 1 none true 0 0 0) .sent false 8) with inPkts := [{ pcls := 1, dst := 0, flits := [0] }] }
theorem witness_reply_received : ∃ (a : Access) (p : Packet), accessFound replied a ∧ a.abandoned = false ∧ a.op = .remote 1 none true 0 0 0 ∧ a.place = .sent
    ∧ replied.inPkts.find? (fun p => p.pcls == 1 && p.seq == 0 && p.task == a.core && p.srcDev == (0 : BitVec 13).toNat) = some p
    ∧ bits (p.word 0) 2 4 = 0 :=
  ⟨acc1 (.remote 1 none true 0 0 0) .sent false 8, { pcls := 1, dst := 0, flits := [0] }, by unfold accessFound; decide, rfl, rfl, rfl, by decide +kernel,
    by decide +kernel⟩
/-- Pages of memory that are mapped to themselves: three levels of page table, the third entry a leaf of 1 GiB. -/
def tables : State := { State.reset with slots := [(0, { root := 0x1000 })], mem := [(0x1000, 1), (0x1001, 0x20), (0x2000, 1), (0x2001, 0x30), (0x3000, 3)] }
/-- An access of 8 or 16 bytes at 0x10 to memory that is mapped to itself, with a byte of it. -/
def unitState (a : Access) (b : Byte) : State :=
  { accState a with slots := [(0, { valid := true, root := 0x1000 })], mem := if b = 0 then tables.mem else (0x10, b) :: tables.mem }
def acc16 (op : AccOp) (n : Nat) : Access := { acc1 op .port true n with addr := 0x10, todo := [{ va := 0x10, n := n, data := 1 }] }
def reached16 (s : State) (a : Access) (n : Nat) : Prop :=
  let e : Elem := { va := 0x10, n := n, data := 1 }
  let u := s.tablesMet srcCore a
  accessFound s a ∧ a.place = .port ∧ a.todo = [e] ∧ u.reach a true = .ok { key := 0x10, word := 3 } ∧ u.inTurn a 0x10 e = true
    ∧ u.portTurn (u.corePort a.core) 0x10 n = true ∧ (u.readsLine srcUnit (u.corePort a.core) 0x10 n).poisoned 0x10 n = none
/-- ATOM with a register and without, CASW of two words that hold what it expects and that do not, ENQ to an empty queue. -/
theorem witness_unit_atomic : (∀ op ∈ [AccOp.atom 1 .add true 1 0, .atom 0 .faddbf true 1 0, .enq 1 9], reached16 (unitState (acc16 op 8) 0) (acc16 op 8) 8)
    ∧ reached16 (unitState (acc16 (.casw 8 [0, 0] [1, 2]) 16) 0) (acc16 (.casw 8 [0, 0] [1, 2]) 16) 16
    ∧ unpackNat 64 2 ((unitState (acc16 (.casw 8 [0, 0] [1, 2]) 16) 0).memNat 0x10 16) = [0, 0]
    ∧ reached16 (unitState (acc16 (.casw 8 [0, 0] [1, 2]) 16) 5) (acc16 (.casw 8 [0, 0] [1, 2]) 16) 16
    ∧ unpackNat 64 2 ((unitState (acc16 (.casw 8 [0, 0] [1, 2]) 16) 5).memNat 0x10 16) ≠ [0, 0] := by
  unfold reached16 accessFound; decide +kernel
/-- ENQ behind an element: its link word is at 0x40, or misaligned at 0x41. -/
theorem witness_enq : let a := acc16 (.enq 1 9) 8
    let link (b : Byte) : Reach := let u := (unitState a b).tablesMet srcCore a
      ((u.readsLine srcUnit (u.corePort a.core) 0x10 8).walkMeets srcUnit (unitOf (controllerOf 0x10)) a.slot b.toNat).unitReach (unitOf (controllerOf 0x10)) a
        b.toNat true
    reached16 (unitState a 0x40) a 8 ∧ (unitState a 0x40).memNat 0x10 8 = 0x40 ∧ link 0x40 = .ok { key := 0x40, word := 3 }
    ∧ reached16 (unitState a 0x41) a 8 ∧ (unitState a 0x41).memNat 0x10 8 = 0x41 ∧ (match link 0x41 with | .fault f => f.cause == 0x33 | _ => false) = true := by
  unfold reached16 accessFound; decide +kernel
/-- A hop that the unit of another controller has come to, and one at the controller of the hop before. -/
theorem witness_chase : ∀ d ∈ [0, 1], let a : Access := { acc16 (.chase 1 2 8) 8 with place := .queue, got := [(controllerOf 0x10 + d, 0)] }
    let s := unitState a 0
    let u := s.tablesMet srcUnit a
    accessFound s a ∧ a.place ≠ .performed ∧ s.depsMet a.deps = true ∧ s.behindCluster a = false ∧ s.behindStore a { va := 0x10, n := 8, data := 1 } = false
    ∧ u.unitReach a.caches a 0x10 false = .ok { key := 0x10, word := 3 } ∧ u.portTurn (u.corePort a.core) 0x10 8 = true
    ∧ (u.readsLine srcUnit (u.corePort a.core) 0x10 8).poisoned 0x10 8 = none
    ∧ (a.got.head?.any fun p => p.1 != controllerOf 0x10) = (d != 0) := by
  unfold accessFound; decide +kernel
theorem witness_count_window : (State.reset.window + 1) * 2 ^ 20 ≤ ({ State.reset with clk := 2 ^ 20 } : State).clk := by decide
theorem witness_page_walk : bit 0x1234 56 = false ∧ 0 ≠ noCache
    ∧ ∃ l, (tables.walkMeets srcCore 0 0 0x1234).walk 0x1234 5 (tableKey (tables.slot 0).root.toNat 12) = .ok l := by
  refine ⟨by decide, by decide, ?_⟩
  have h : ((tables.walkMeets srcCore 0 0 0x1234).walk 0x1234 5 (tableKey (tables.slot 0).root.toNat 12)).toOption.isSome = true := by decide +kernel
  obtain ⟨l, hl⟩ := Option.isSome_iff_exists.mp h
  exact ⟨l, ok_of_toOption hl⟩
/-- A load that waits for a page of host space. -/
def hostLoad : Access := { acc1 (.ld 1 .b4 false) .queue false 4 with addr := 2 ^ 56 + 0x1000, todo := [{ va := 2 ^ 56 + 0x1000, n := 4 }] }
theorem witness_page_request : ∃ (s : State) (i : Nat), bit (2 ^ 56 + 0x1000) 56 = true
    ∧ s.pageWanted { index := 0, pasid := (s.slot 0).pasid.toNat, page := hostPage (2 ^ 56 + 0x1000) } = true ∧ s.ats = [] ∧ s.requests = []
    ∧ s.freeTag = some i := ⟨accState hostLoad, 0, by decide, by decide +kernel, rfl, rfl, by decide +kernel⟩

theorem witness_agg_entry : ∃ a : Access, accessFound (accState a) a ∧ a.op = .agg none true 1 3 ∧ a.place = .queue ∧ (accState a).depsMet a.deps = true
    ∧ (∀ x ∈ (accState a).accs, x.core = a.core → x.id < a.id → x.place = .queue → ∀ o w y, x.op ≠ .agg o w y 3)
    ∧ (∀ y ∈ (accState a).aggBufs, y.dst ≠ (3 : BitVec 13).toNat) ∧ (accState a).aggBufs.length < 256 :=
  ⟨acc1 (.agg none true 1 3) .queue false 8, by unfold accessFound; decide, rfl, rfl, by decide, by
    intro x hx _ h; simp [accState] at hx; subst hx; exact absurd h (by decide), by simp [accState, task, State.reset], by decide⟩
def aggEl : AggElem := { id := 5, task := 0, word0 := 0, word1 := 1, pc := 0 }
/-- Fifteen elements fill a buffer: it leaves with the end of the clock. -/
theorem witness_agg_full : ∃ (s : State) (b : AggBuf), s.aggBufs.find? (fun x => x.dst == b.dst) = some b
    ∧ s.aggBufs.filter (fun x => decide (15 ≤ x.elems.length)) = [b] :=
  ⟨{ task with aggBufs := [{ dst := 3, gslot := 0, elems := List.replicate 15 aggEl, openedAt := 0, lastAt := 0 }] },
    { dst := 3, gslot := 0, elems := List.replicate 15 aggEl, openedAt := 0, lastAt := 0 }, by decide +kernel, by decide +kernel⟩
theorem witness_agg_age : ∃ (s : State) (b : AggBuf), s.aggBufs.find? (fun x => x.dst == b.dst) = some b ∧ b.openedAt + 4096 ≤ s.clk :=
  ⟨{ task with clk := 4096, aggBufs := [{ dst := 3, gslot := 0, elems := [aggEl], openedAt := 0, lastAt := 0 }] },
    { dst := 3, gslot := 0, elems := [aggEl], openedAt := 0, lastAt := 0 }, by decide +kernel, by decide⟩
/-- A packet of two elements, stores to address 0, which is mapped to itself. -/
def aggPkt : Packet := { pcls := 2, dst := 0, flits := [BitVec.ofNat 512 (2 * 2 ^ 32)] }
def aggIn : State := { unitState (acc1 .st .queue true 4) 0 with inPkts := [aggPkt] }
theorem witness_agg_apply : let st := aggIn.stream427 true 0 0
    let e := aggPkt.elem st.elem
    let n := wideBytes (bit e.1 58)
    let va := bits e.1 0 57
    let unit := aggIn.unitFor aggPkt.aggSlot va n
    let u := aggIn.walkMeets srcUnit unit aggPkt.aggSlot va
    st.held = [] ∧ aggIn.inPkts.find? (fun p => p.pcls == 2 && p.aggSrc == 0) = some aggPkt ∧ aggIn.arrivalsHeld aggPkt.aggSlot = false ∧ aggPkt.seq = st.next
    ∧ st.elem + 1 < aggPkt.count ∧ bit e.1 59 = false ∧ (aggIn.slot aggPkt.aggSlot).valid = true ∧ va % n = 0
    ∧ u.translateFor unit aggPkt.aggSlot va n true = .ok { key := 0, word := 3 } ∧ u.portTurn fabricPort 0 n = true := by decide +kernel
def aggOut : AggSent := { dst := 0, pseq := 0, gslot := 0, elems := [aggEl], at_ := 0 }
theorem witness_agg_ack : ∃ (s : State) (p : Packet), s.inPkts = p :: [] ∧ p.pcls = 3 ∧ p.src = aggOut.dst
    ∧ s.aggSent.find? (fun x => x.dst == aggOut.dst && x.pseq == p.seq) = some aggOut
    ∧ ∀ i, i < aggOut.elems.length → bit (p.word 0) i = false :=
  ⟨{ task with aggSent := [aggOut], inPkts := [{ pcls := 3, dst := 0, flits := [0] }] }, { pcls := 3, dst := 0, flits := [0] }, rfl, rfl, rfl, by decide +kernel,
    by decide +kernel⟩
def opPkt : Packet := { pcls := 0, dst := 0, flits := [0] }
def opIn : State := { unitState (acc1 .st .queue true 4) 0 with inPkts := [opPkt] }
theorem witness_op_packet : let st := opIn.stream427 false 0 0
    let n := wideBytes (bit (opPkt.word 0) 1)
    let va := bits (opPkt.word 1) 0 57
    let unit := opIn.unitFor opPkt.gslot va n
    let u := opIn.walkMeets srcUnit unit opPkt.gslot va
    st.held = [] ∧ opIn.inPkts.find? (fun p => p.pcls == 0 && p.srcDev == 0 && p.task == 0) = some opPkt ∧ opIn.arrivalsHeld opPkt.gslot = false
    ∧ bit (opPkt.word 0) 6 = false ∧ (∀ y ∈ st.lost, seqBefore y opPkt.seq = false) ∧ opPkt.seq ∉ st.missing ∧ seqBefore opPkt.seq st.next = false
    ∧ bit (opPkt.word 0) 0 = false ∧ (opIn.slot opPkt.gslot).valid = true ∧ va % n = 0
    ∧ u.translateFor unit opPkt.gslot va n false = .ok { key := 0, word := 3 } ∧ u.portTurn fabricPort 0 n = true
    ∧ (u.readsLine srcFabric fabricPort 0 n).poisoned 0 n = none := by decide +kernel
def resending (n : Nat) : State :=
  { accState (acc1 (.remote 1 none true 0 0 0) .sent false 8) with clk := 65536, opsSent := [{ id := 5, task := 0, chip := 0, seq := 0, at_ := 0, resends := n }] }
theorem witness_op_resend : ∀ n ∈ [2, 3], ∃ (a : Access) (o : OpSent), accessFound (resending n) a
    ∧ (resending n).opsSent.find? (fun y => y.id == a.id) = some o ∧ a.op = .remote 1 none true 0 0 0 ∧ o.at_ + 65536 ≤ (resending n).clk ∧ o.resends = n
    ∧ a.abandoned = false := by
  intro n hn
  refine ⟨acc1 (.remote 1 none true 0 0 0) .sent false 8, { id := 5, task := 0, chip := 0, seq := 0, at_ := 0, resends := n }, ?_⟩
  simp only [List.mem_cons, List.not_mem_nil, or_false] at hn
  rcases hn with rfl | rfl <;> exact ⟨by unfold accessFound; decide, by decide, rfl, by decide, rfl, rfl⟩
theorem witness_agg_resend : ∃ s : State, s.aggSent.find? (fun y => y.dst == aggOut.dst && decide (y.at_ + 65536 ≤ s.clk)) = some aggOut ∧ aggOut.resends < 3 :=
  ⟨{ task with aggSent := [aggOut], clk := 65536 }, by decide +kernel, by decide⟩
/-- Of aggregation packets from device 5 number 3 has come and 0 to 2 have not. -/
theorem witness_hold_ends : ∃ (s : State) (n : BitVec 16), nearest (s.stream427 true 5 0).next (s.stream427 true 5 0).held = some n
    ∧ n ≠ (s.stream427 true 5 0).next ∧ (s.stream427 true 5 0).heldAt + 2 ^ 18 ≤ s.clk :=
  ⟨{ task with
     clk := 2 ^ 18
     streams427 := [{ agg := true, dev := 5, task := 0, held := [{ pcls := 2, dst := 0, flits := [BitVec.ofNat 512 (3 * 2 ^ 48)] }] }] }, 3, by decide +kernel,
    by decide +kernel, by decide +kernel⟩
/-- Of operation packets number 2 was lost, and number 3 waits for it. -/
theorem witness_hold_ends_operations : ∃ s : State, (s.stream427 false 5 0).awaited ≠ [] ∧ (s.stream427 false 5 0).heldAt + 2 ^ 18 ≤ s.clk :=
  ⟨{ task with
     clk := 2 ^ 18
     streams427 := [{ agg := false, dev := 5, task := 0, lost := [2], held := [{ pcls := 0, dst := 0, flits := [BitVec.ofNat 512 (3 * 2 ^ 48)] }] }] },
    by decide +kernel, by decide +kernel⟩

theorem witness_node_end : (task).node = some testNode ∧ testNode.stopping = false ∧ (task).commandsOver = true
    ∧ ∃ s : State, s.node = some testNode ∧ s.tasksOver = true ∧ s.accessesLeft = false ∧ s.commandsOver = true := by
  refine ⟨rfl, rfl, by decide, { State.reset with node := some testNode }, rfl, by decide, by decide, by decide⟩
/-- An entry of 4 KiB that may move, at address 0x2000 of memory. -/
def ranged : State :=
  { State.reset with slots := [(0, { rtab := 0x2000 })], mem := [(0x2008, 0xFF), (0x2009, 0x0F), (0x2019, 0x30)] }
theorem witness_migreq : ∃ v : Word, ranged.migration = none ∧ let r := ranged.rangeEntry ranged.regs.migctx (bits v.toNat 0 10)
    bit r.word3 13 = true ∧ bit r.word3 8 = false ∧ r.valid = true ∧ r.malformed = false
    ∧ paOk (v.getLsbD 11) (bits v.toNat 12 40 * 4096 + r.limit - r.base) = true := ⟨0x5000, rfl, by decide +kernel⟩
theorem witness_migreq_refused : ∃ v : Word, ranged.migration = none ∧ bit (ranged.rangeEntry ranged.regs.migctx (bits v.toNat 0 10)).word3 13 = false :=
  ⟨0x5001, rfl, by decide +kernel⟩
def move : Migration := { slot := 0, index := 0, off := 0x5000, tier := false }
theorem witness_migration_hold : ∃ s : State, s.migration = some move ∧ move.copied = false ∧ s.node = none ∧ Memory.wf s.mem = true :=
  ⟨{ ranged with migration := some move }, rfl, rfl, rfl, by decide +kernel⟩
def moved : State := { State.reset with migration := some { move with copied := true } }
theorem moved_reads_zero (k n : Nat) : moved.memNat k n = 0 := by
  have h (l : List Nat) : leNat (l.map fun i => moved.memByte (k + i)) = 0 := by
    induction l with
    | nil => rfl
    | cons _ _ ih => simp only [List.map, leNat, ih]; rfl
  exact h _
theorem moved_leaf (i : Nat) : moved.movedLeaf { move with copied := true } (moved.rangeEntry 0 0) ((moved.rangeEntry 0 0).base + 4096 * i) = none := by
  unfold State.movedLeaf State.walk
  simp only [moved_reads_zero]
  have h : ∀ k n, moved.spoilt k n = false := fun k n => by simp [State.spoilt, State.poisoned, moved, State.reset]
  simp [h, bit]
theorem witness_migration_complete : ∃ (s : State) (m : Migration), s.migration = some m ∧ m.copied = true ∧ m.moved = false ∧ s.packetsFor m.slot = []
    ∧ ∀ i, s.movedLeaf m (s.rangeEntry m.slot m.index) ((s.rangeEntry m.slot m.index).base + 4096 * i) = none :=
  ⟨moved, _, rfl, rfl, rfl, rfl, moved_leaf⟩
/-- A packet for the context stands at the device: it is performed first, and then the move is over. -/
theorem witness_migration_packets : let s : State := { moved with inPkts := [opPkt] }
    let m : Migration := { move with copied := true, moved := true, freed := [opPkt] }
    s.packetsFor move.slot = [opPkt] ∧ m.moved = true ∧ (∃ p ∈ m.freed, p ∈ ({ s with migration := some m } : State).packetsFor m.slot)
    ∧ ∀ p ∈ m.freed, p ∉ ({ moved with migration := some m } : State).packetsFor m.slot := by decide +kernel
theorem witness_save_free : ∃ s : State, s.cmdBusy = .saving ∧ s.graph = none ∧ s.choose = none := ⟨{ State.reset with cmdBusy := .saving }, rfl, rfl, by decide⟩
theorem witness_save_restores : ∃ s : State, s.cmdBusy = .saving ∧ s.graph = none ∧ s.choose = some 0 ∧ (s.slot 0).st = .saved :=
  ⟨{ State.reset with cmdBusy := .saving, level := 2, slots := [(0, { valid := true, st := .saved })] }, rfl, rfl, by decide, by decide⟩
theorem witness_restore : ∃ s : State, s.cmdBusy = .restoring 0 := ⟨{ State.reset with cmdBusy := .restoring 0 }, rfl⟩
theorem witness_submission : ∃ s : State, (s.slot 0).st = .idle ∧ (s.slot 0).valid = true ∧ s.level = 2 ∧ bits (7 : Word).toNat 35 29 = 0 :=
  ⟨{ State.reset with level := 2, slots := [(0, { valid := true })] }, by decide, by decide, rfl, by decide⟩
theorem witness_submission_dropped : (State.reset.slot 0).valid = false := by decide
theorem witness_gctl : (State.reset.slot 0).st = .idle ∧ ∃ s : State, (s.slot 0).st ≠ .idle ∧ (s.slot 0).st ≠ .faulted :=
  ⟨by decide, { State.reset with slots := [(0, { st := .ready })] }, by decide, by decide⟩

/-! Links. -/

def linked (l : Link) : State := { State.reset with links := l :: List.replicate 11 {} }
def upLink : Link := { state := .up }
def dataFlit : BitVec 576 := wireFlit 1 0 0 0 0
theorem witness_wire_flit : (linked upLink).links.length = 12 ∧ wireOk dataFlit = true ∧ wireType dataFlit = 1
    ∧ wireSeq dataFlit = ((linked upLink).link 0).rxSeq.toNat ∧ ((linked upLink).link 0).used < 1024 ∧ ((linked upLink).link 0).state = .up := by
  decide +kernel
/-- Link 0 with a dead sibling. -/
def beside (l : Link) : State := { State.reset with links := l :: { state := .dead } :: List.replicate 10 {} }
/-- A packet of another's stream comes over link 0 for the dead link beside it. -/
theorem witness_wire_packet : (beside upLink).siblingDead 0 = true ∧ (beside upLink).streamLink 0 (wireFlit 4 0 5 0 0) = 1
    ∧ wireOk (wireFlit 4 0 5 0 0) = true ∧ wireType (wireFlit 4 0 5 0 0) = 4 := by decide +kernel
def gapFlit : BitVec 576 := wireFlit 1 5 0 0 0
theorem witness_wire_discard : wireType gapFlit = 1 ∧ wireSeq gapFlit ≠ ((linked upLink).link 0).rxSeq.toNat ∧ ((linked upLink).link 0).nakAt = none
    ∧ ((linked upLink).link 0).consecSent < 15 ∧ ((linked upLink).link 0).state = .up := by
  decide +kernel
/-- R424: the credit of a discarded flit comes back with the next CRED. -/
theorem test_discard_returns_credit : runs (.wireFlitReceived 0 gapFlit { src := 0, dst := 0, left := 0 }) (linked upLink) (fun t =>
    (t.link 0).freed == 1 && (t.link 0).sent.length == 1 && (t.link 0).used == 0) = true := by decide +kernel
def aFlit : Flit := { type := 1, circ := 0, data := 0 }
def waiting1 : Link := { upLink with retry := [(1, aFlit)], oldest := 0 }
def nakFlit : BitVec 576 := wireFlit 6 0 0 0 0
theorem witness_nak : let s := linked { waiting1 with ctlIn := [nakFlit] }
    s.links.length = 12 ∧ controlFlit s 0 6 nakFlit ∧ (s.link 0).state = .up ∧ bits (word512 (wirePayload nakFlit) 1).toNat 0 4 ≠ 4
    ∧ bit (word512 (wirePayload nakFlit) 1).toNat 16 = false ∧ (s.link 0).retry = (1, aFlit) :: []
    ∧ (1 : BitVec 12) = BitVec.ofNat 12 (word512 (wirePayload nakFlit) 0).toNat + 1
    ∧ (∀ y ∈ (s.link 0).retry, y.1 ≠ BitVec.ofNat 12 (word512 (wirePayload nakFlit) 0).toNat) ∧ (s.link 0).replayFrom = none ∧ (s.link 0).backlog = []
    ∧ (s.link 0).consecSeen < 15 ∧ ∀ y ∈ (s.link 0).retry, y.2.err = none := by
  unfold controlFlit; decide +kernel
def ackFlit : BitVec 576 := wireFlit 5 0 0 0 1
theorem witness_ack : let s := linked { waiting1 with ctlIn := [ackFlit] }
    controlFlit s 0 5 ackFlit ∧ bit (word512 (wirePayload ackFlit) 1).toNat 16 = false ∧ (s.link 0).retry = (1, aFlit) :: []
    ∧ (1 : BitVec 12) = BitVec.ofNat 12 (word512 (wirePayload ackFlit) 0).toNat := by
  unfold controlFlit; decide +kernel
theorem witness_ack_timer : ∃ s : State, s.links.length = 12 ∧ (s.link 0).state = .up ∧ 0 < (s.link 0).unacked :=
  ⟨linked { upLink with unacked := 1 }, by decide, by decide, by decide⟩
theorem witness_replay_timer : let s := { linked waiting1 with clk := 256 }
    (s.link 0).state = .up ∧ (s.link 0).retry ≠ [] ∧ (s.link 0).oldest + 256 ≤ s.clk ∧ (s.link 0).consecSeen < 15 ∧ (s.link 0).backlog = []
    ∧ ∀ y ∈ (s.link 0).retry, y.2.err = none := by
  decide +kernel
/-- The flit to be sent again holds an error that cannot be corrected. -/
theorem witness_replay_error : let s := { linked { waiting1 with retry := [(1, { aFlit with err := some true })] } with clk := 256 }
    (s.link 0).state = .up ∧ (s.link 0).retry ≠ [] ∧ (s.link 0).oldest + 256 ≤ s.clk ∧ (s.link 0).consecSeen < 15 ∧ (s.link 0).backlog = []
    ∧ (s.link 0).retry.map (·.2.err) = [some true] ∧ 0 < (s.link 0).credits := by
  decide +kernel
theorem witness_dead_notify : let s : State := { State.reset with clk := 64, links := { upLink with deadSentAt := 0 } :: { state := .dead } :: List.replicate 10 {} }
    s.siblingDead 0 = true ∧ (s.link 0).state = .up ∧ (s.link 0).deadAcked = false ∧ (s.link 0).deadSentAt + 64 ≤ s.clk := by decide +kernel
theorem witness_untrained : State.reset.links.length = 12 ∧ (State.reset.link 0).state = .untrained ∧ State.reset.siblingDead 0 = false := by decide
/-- A link that retrains beside a dead one, before it has taken the other's traffic over and after; a dead link that trains again. -/
theorem witness_training : (beside { state := .retraining }).siblingDead 0 = true ∧ ((beside { state := .retraining }).link 0).failover = false
    ∧ ((beside { state := .retraining, failover := true }).link 0).failover = true ∧ (linked { state := .retraining }).siblingDead 0 = false
    ∧ ((linked { state := .dead, reviving := true }).link 0).reviving = true := by decide
/-- The sibling of a link that dies is up, or is not. -/
theorem witness_sibling : sibling 1 = 0 ∧ ((linked upLink).link (sibling 1)).state = .up ∧ ((linked upLink).link (sibling 0)).state ≠ .up := by decide
theorem witness_retraining : let s := { linked { state := .retraining, retrainAt := [0] } with clk := 4000 * State.reset.mhz }
    (s.link 0).state = .retraining ∧ (s.link 0).retrainAt.headD 0 + 4000 * s.mhz ≤ s.clk := by decide +kernel
theorem witness_retrain : ((linked upLink).link 0).state = .up ∧ ((linked upLink).link 0).retrainAt.length < 2
    ∧ ((linked { state := .dead }).link 0).state = .dead ∧ (linked { state := .dead }).node = none := by decide
def alignFlit : BitVec 576 := wireFlit 7 0 0 0 0
theorem witness_align_flit : controlFlit (linked { upLink with ctlIn := [alignFlit] }) 0 7 alignFlit := by unfold controlFlit; decide +kernel

/-! Routers and messages. -/

theorem witness_router_slot_idle : State.reset.routers.length = 13 ∧ State.reset.slotMoves 3 = [] ∧ State.reset.slotMoves 12 = []
    ∧ State.reset.mismatch 12 [] = none := by decide +kernel
def circ0 : Circuit := { id := 0, links := 0, lat := 0, rtask := 0, stask := 0, rhere := true, shere := true }
/-- Cluster 0's router, whose first slot takes a circuit's flit from port 1 to the cluster. -/
def routed : State :=
  { State.reset with
    circuits := [circ0]
    routers := State.reset.routers.set 0 { primary := [0x41], inq := [[], [{ type := 1, circ := 0, data := 0 }], [], []], pkt := [none, none, none, none] } }
theorem witness_router_slot : routed.slotMoves 0 = [.circuit 0 1] ∧ expectedAt [(1, 0)] 1 = some 0
    ∧ ((routed.routerAt 0).waiting 1).find? (fun f => !f.pkt && f.circ == 0 && decide (f.arrive ≤ (routed.routerAt 0).lc))
      = some { type := 1, circ := 0, data := 0 }
    ∧ routed.endsAt 0 0 0 = true ∧ routed.circuitOf 0 = some circ0 := by decide +kernel
/-- A receiver that holds as much as it has places for. -/
def packed : Circuit := { circ0 with asm := List.replicate (66 + Config.endPlaces 0) { type := 1, circ := 0, data := 0 } }
theorem witness_end_room : routed.endRoom 0 = true ∧ ({ routed with circuits := [packed] } : State).endRoom 0 = false := by
  unfold State.endRoom
  rw [show routed.circuitOf 0 = some circ0 from rfl, show ({ routed with circuits := [packed] } : State).circuitOf 0 = some packed from rfl]
  simp [Circuit.heldFlits, circ0, packed]
  all_goals omega
/-- The router stands at slot 5, and its neighbour has not passed that cycle. -/
def starved : State :=
  { routed with routers := routed.routers.set 0 { lc := 5, primary := List.replicate 6 0x41, inq := [[], [], [], []], pkt := [none, none, none, none] } }
theorem witness_router_waits : starved.slotMoves 0 = [.circuit 0 1] ∧ expectedAt [(1, 0)] 1 = some 0 ∧ starved.circuitFlit 0 1 0 = none
    ∧ starved.inputPast 0 1 (some 0) = false := by decide +kernel
/-- Link 0 presents a flit of circuit 7, which no entry of the node expects there. -/
def mismatched : State :=
  { task with
    circuits := [circ0]
    routers := State.reset.routers.set 12 { (State.reset.routerAt 12) with inq := List.replicate 12 [] ++ [{ type := 1, circ := 7, data := 0 }] :: List.replicate 17 [] } }
theorem witness_router_mismatch : mismatched.mismatch 12 [(12, 0)] = some (12, 0, 7) ∧ mismatched.node = some testNode := ⟨by decide +kernel, rfl⟩
def aMessage : Message := { circ := 0, stamp := 0, kind := 0, len := 1, fmt := 0, sdev := 0, stask := 0, cstep := 0, payload := [] }
def arrived (l : List Flit) : State := { State.reset with circuits := [{ circ0 with asm := l }] }
theorem witness_tag_checks : ∃ (c : Circuit) (l rest : List Flit) (m : Message), (arrived (messageFlits aMessage)).circuitOf 0 = some c
    ∧ frontAsm c.asm = some (l, rest) ∧ checkedMessage l = some m := by
  refine ⟨_, messageFlits aMessage, [], aMessage, rfl, by decide +kernel, by decide +kernel⟩
theorem witness_tag_fails : ∃ (c : Circuit) (l rest : List Flit), (arrived [{ type := 1, circ := 0, data := 0 }, { type := 3, circ := 0, data := 1 }]).circuitOf 0 = some c
    ∧ frontAsm c.asm = some (l, rest) ∧ checkedMessage l = none := by
  refine ⟨_, [{ type := 1, circ := 0, data := 0 }, { type := 3, circ := 0, data := 1 }], [], rfl, by decide +kernel, by decide +kernel⟩
theorem witness_re_request_timer : ∃ (s : State) (c : Circuit), s.circuitOf 0 = some c ∧ c.rx[0]? = some (.failed 0 0 3) ∧ 0 + 65536 ≤ s.clk
    ∧ c.rx[1]? = some (.failed 1 1 3) ∧ ¬ 1 + 65536 ≤ s.clk ∧ c.rx[2]? = some (.ready aMessage) :=
  ⟨{ State.reset with circuits := [{ circ0 with rx := [.failed 0 0 3, .failed 1 1 3, .ready aMessage] }], clk := 65536 }, _, rfl, rfl, by decide, rfl, by decide, rfl⟩
theorem witness_re_request : ∃ (s : State) (p : Packet) (x : Stored), s.circuitOf 0 = some circ0 ∧ s.circuitPacket 4 0 = some p
    ∧ s.store.find? (fun x => x.circ == 0 && x.ordinal == p.seq) = some x ∧ ∀ f ∈ x.flits, f.err = none :=
  ⟨{ State.reset with
     circuits := [circ0], inPkts := [{ pcls := 4, dst := 0, flits := [0] }], store := [{ circ := 0, ordinal := 0, flits := [{ type := 1, circ := 0, data := 0 }] }] },
    { pcls := 4, dst := 0, flits := [0] }, { circ := 0, ordinal := 0, flits := [{ type := 1, circ := 0, data := 0 }] }, rfl, by decide +kernel, by decide +kernel,
    by decide⟩
/-- The one packet of a copy of a short message, for the second of the two places that are kept. -/
def repairs : List Packet := (repairPackets (messageFlits aMessage).length (messageFlits aMessage)).map fun l =>
  { pcls := 7, dst := 0, flits := l.map (·.data), repair := some { circ := 0, ordinal := 1, index := 0 } }
theorem witness_repair_copy : let s : State := { State.reset with circuits := [{ circ0 with rx := [.failed 0 0 3, .failed 1 0 4] }], inPkts := repairs }
    repairs.length = 1 ∧ s.wholeCopy 0 = some (repairs, 1) ∧ failedPlace 1 [.failed 0 0 3, .failed 1 0 4] = some 4
    ∧ checkedMessage ((repairs.flatMap (·.flits)).map fun d => { type := 2, circ := 0, data := d }) = some aMessage := by decide +kernel
theorem witness_confirmation : ∃ (s : State) (p : Packet), s.circuitOf 0 = some circ0 ∧ s.circuitPacket 5 0 = some p ∧ s.coll.run = none ∧ s.coll.queue = [] :=
  ⟨{ State.reset with circuits := [circ0], inPkts := [{ pcls := 5, dst := 0, flits := [0] }] }, { pcls := 5, dst := 0, flits := [0] }, rfl, by decide +kernel, rfl, rfl⟩

/-! Collectives. -/

/-- A template of two members whose buffers lie in local memory, a patience of 1,024 clocks, one FP32 element. -/
def collTmpl : BitVec 512 := payloadOf [0x020000C0, 0, 0, 0, 1 * 2 ^ 32, 0, 1, 0]
/-- The image holds the template; range 0 is valid; the member table at address 0 holds 0 and 1. -/
def collState : State :=
  { State.reset with
    cores := [(0, { Core.idle with phase := .running })], node := some { testNode with image := { probeImage with collT := [collTmpl] } }
    clusters := firstPage, slots := [(0, { rtab := 0x1000 })], mem := [(2, 1), (0x1019, 0x10)] }
def collCmd : Cmd := { id := 3, core := 0, cluster := 0, ch := 2, inc := 1, kind := .coll 0 0, pc := 0, lc := 0, deps := [] }
def ringRun : CollRun := { cmd := 2, core := 0, tmpl := 0, param := 0, ordinal := 0, members := [0, 1], rank := 0, stage := .ring }
def collWaiting : State := { collState with cmds := [collCmd], coll := { run := some ringRun, next := 1 } }
theorem eng_ok {α : Type} {x : Eng α} {a : α} (h : x.2.toOption = some a) : x = (x.1, .ok a) := by rw [← ok_of_toOption h]
theorem witness_coll_accept : collWaiting.nextCmd 0 (fun c => c.kind.engine == 1) = some collCmd
    ∧ (collWaiting.coll.accepted.1 = collWaiting.clk → collWaiting.coll.accepted.2 ≤ 0)
    ∧ let v := (collWaiting.memberTable 0 (collWaiting.collTemplate 0 0)).1
      collWaiting.memberTable 0 (collWaiting.collTemplate 0 0) = (v, .ok [0, 1]) ∧ v.stopping = false ∧ v.coll.run = some ringRun
      ∧ ringRun.vals.length < (CollRun.expected (v.collT ringRun) ringRun).length ∧ v.deviceId.toNat ∈ [0, 1]
      ∧ ({ v.acceptCmd collCmd .coll with coll := { v.coll with next := v.coll.next + 1, accepted := (v.clk, 0) } } : State).bufferHandles
        { cmd := 3, core := 0, tmpl := 0, param := 0, ordinal := v.coll.next, members := [0, 1], rank := 0 } 1 = .ok ()
      ∧ ({ v.acceptCmd collCmd .coll with coll := { v.coll with next := v.coll.next + 1, accepted := (v.clk, 0) } } : State).bufferHandles ringRun 2 = .ok () := by
  refine ⟨by decide +kernel, by decide +kernel, ?_, by decide +kernel, by decide +kernel, by decide +kernel, by decide +kernel, ok_of_toOption (by decide +kernel),
    ok_of_toOption (by decide +kernel)⟩
  exact eng_ok (by decide +kernel)
/-- A long block, so that one message does not complete it. -/
def longTmpl : BitVec 512 := payloadOf [0x020000C0, 0, 0, 0, 4096 * 2 ^ 32, 0, 1, 0]
def stepMessage : Message := { aMessage with cstep := ringRun.cstep 1, payload := [0] }
def collArrived : State :=
  { collState with
    node := some { testNode with image := { probeImage with collT := [longTmpl] } }
    circuits := [{ circ0 with rtask := 0x1FF, rx := [.ready stepMessage] }], coll := { run := some ringRun } }
theorem witness_coll_handles : collArrived.bufferHandles ringRun 2 = .ok () := ok_of_toOption (by decide +kernel)
theorem witness_coll_message : ringRun.stage = .ring ∧ collArrived.coll.run = some ringRun ∧ collArrived.coll.aborts = [] ∧ collArrived.stopping = false
    ∧ collArrived.collHead (kPred (collArrived.collT ringRun)) = some stepMessage
    ∧ collArrived.circuitOf (kPred (collArrived.collT ringRun)) = some { circ0 with rtask := 0x1FF, rx := [.ready stepMessage] }
    ∧ stepMessage.cstep = ringRun.cstep (ringRun.step + 1)
    ∧ ∃ i, (CollRun.expected (collArrived.collT ringRun) ringRun)[ringRun.vals.length]? = some i
      ∧ (ringRun.part ++ stepMessage.payload.flatMap fun d => leBytes 64 d.toNat).length < i.bytes (collArrived.collT ringRun) ringRun.n :=
  ⟨rfl, rfl, rfl, by decide +kernel, by decide +kernel, by decide +kernel, by decide +kernel,
    (by
      have h : ((CollRun.expected (collArrived.collT ringRun) ringRun)[ringRun.vals.length]?).any (fun i =>
        decide ((ringRun.part ++ stepMessage.payload.flatMap fun d => leBytes 64 d.toNat).length < i.bytes (collArrived.collT ringRun) ringRun.n)) = true := by
        decide +kernel
      obtain ⟨i, hi, h⟩ := (Option.any_eq_true _ _).mp h
      exact ⟨i, hi, of_decide_eq_true h⟩)⟩
/-- Two chunks of 64 elements: the first comes whole in one message, and another item follows. -/
def chunkTmpl : BitVec 512 := payloadOf [0x020000C0, 0, 0, 0, 128 * 2 ^ 32, 0, 1, 0]
def chunkMessage : Message := { stepMessage with payload := [0, 0, 0, 0] }
def chunkArrived : State :=
  { collArrived with
    node := some { testNode with image := { probeImage with collT := [chunkTmpl] } }
    circuits := [{ circ0 with rtask := 0x1FF, rx := [.ready chunkMessage] }] }
theorem witness_coll_item_handles : chunkArrived.bufferHandles ringRun 2 = .ok () := ok_of_toOption (by decide +kernel)
theorem witness_coll_item : chunkArrived.coll.run = some ringRun ∧ chunkArrived.coll.aborts = [] ∧ chunkArrived.stopping = false
    ∧ chunkArrived.collHead (kPred (chunkArrived.collT ringRun)) = some chunkMessage
    ∧ chunkArrived.circuitOf (kPred (chunkArrived.collT ringRun)) = some { circ0 with rtask := 0x1FF, rx := [.ready chunkMessage] }
    ∧ ringRun.vals.length + 1 < (CollRun.expected (chunkArrived.collT ringRun) ringRun).length
    ∧ ((CollRun.expected (chunkArrived.collT ringRun) ringRun)[ringRun.vals.length]?).any (fun i =>
        decide (i.bytes (chunkArrived.collT ringRun) ringRun.n ≤ (ringRun.part ++ chunkMessage.payload.flatMap fun d => leBytes 64 d.toNat).length)) = true := by
  decide +kernel
def collLate : State := { collState with clk := 1024, cmds := [{ collCmd with id := 2, st := .running .coll }], coll := { run := some ringRun } }
theorem witness_coll_expiry_handles : collLate.bufferHandles ringRun 2 = .ok () := ok_of_toOption (by decide +kernel)
theorem witness_coll_expiry : collLate.stopping = false ∧ collLate.collHead (kPred (collLate.collT ringRun)) = none
    ∧ ringRun.vals.length < (CollRun.expected (collLate.collT ringRun) ringRun).length ∧ collLate.coll.run = some ringRun ∧ collLate.coll.queue = []
    ∧ collLate.cmdOf ringRun.cmd = some { collCmd with id := 2, st := .running .coll } ∧ ringRun.waitFrom + kPatience (collLate.collT ringRun) ≤ collLate.clk := by
  decide +kernel
/-- The successor has confirmed no message since clock 0, and the last message from the predecessor came at clock 5. -/
def quietRun : CollRun := { ringRun with sent := [(0, 0)], waitFrom := 5 }
def confirmLate : State :=
  { collLate with clk := 1029, coll := { run := some quietRun }, store := [{ circ := 0, ordinal := 0, flits := [] }] }
theorem witness_coll_confirm_handles : confirmLate.bufferHandles quietRun 2 = .ok () := ok_of_toOption (by decide +kernel)
theorem witness_coll_confirm_late : confirmLate.stopping = false ∧ confirmLate.collHead (kPred (confirmLate.collT quietRun)) = none
    ∧ quietRun.vals.length < (CollRun.expected (confirmLate.collT quietRun) quietRun).length ∧ confirmLate.coll.run = some quietRun
    ∧ confirmLate.cmdOf quietRun.cmd = some { collCmd with id := 2, st := .running .coll }
    ∧ quietRun.waitFrom + kPatience (confirmLate.collT quietRun) ≤ confirmLate.clk
    ∧ ((quietRun.sent.find? fun x => confirmLate.unconfirmed (kSucc (confirmLate.collT quietRun)) x.1).any fun x => decide (x.2 < quietRun.waitFrom)) = true := by
  decide +kernel
/-- An abort flit on link 0 at the end of a circuit, whose SUCC circuit goes on by no link, or by link 2 that is up or trains. -/
def aborted (links : BitVec 12) (here : Bool) (l : Link) : State :=
  { State.reset with
    abortIn := [(0, 0, 0)], circuits := [{ circ0 with rtask := 0x1FF, links := links, rhere := here }], lastImage := some { base := 0 }
    links := upLink :: {} :: l :: List.replicate 9 {} }
theorem witness_abort_flit : ∀ l ∈ [upLink, { state := .retraining }], ∀ links ∈ [(0 : BitVec 12), 4],
    let s := aborted links true l
    s.abortIn = (0, 0, 0) :: [] ∧ (s.circuitOf 0).isSome = true ∧ s.links.length = 12 ∧ (s.lastImage.map (·.domtag)) = some (word512 0 2) ∧ s.coll.run = none
    ∧ s.coll.queue = [] ∧ s.coll.aborts = [] ∧ kSucc 0 = 0 ∧ (links = 0 → s.linksOnward 0 none = []) ∧ (links = 4 → s.linksOnward 0 none = [2])
    ∧ s.carrier 2 = 2 ∧ (s.link 2).retry.length < 512 ∧ (s.link 2).replayFrom = none ∧ (s.link 2).backlog = [] := by decide +kernel
/-- At a hub on the route the circuit goes on from link 0 to link 2. -/
theorem witness_abort_onward : (aborted 5 false upLink).abortIn = (0, 0, 0) :: [] ∧ (aborted 5 false upLink).linksOnward 0 (some 0) = [2]
    ∧ (aborted 5 false upLink).carrier 2 = 2 ∧ ((aborted 5 false upLink).link 2).state = .up := by decide +kernel

/-! Copy engines and kilns. -/

/-- Task 0 with a command; range 0 is valid and holds BF16; a page of 2 MiB for the kiln lies behind the first page. -/
def engState (c : Cmd) (m : List (Nat × Byte)) (f : Core → Core := id) (t : BitVec 512 := 0) : State :=
  { State.reset with
    cores := [(0, f { Core.idle with phase := .running })], node := some { testNode with image := { probeImage with copyT := [t] } }, cmds := [c]
    clusters := [0, 12, 13, 14, 22].map fun c => (c, { pages := [{ slot := 0, base := 0, size := 4096, pte := 3 }, { slot := 0, base := 2 ^ 21, size := 2 ^ 21, pte := 0x200223 }] })
    slots := [(0, { rtab := 0x2000 })], mem := m ++ [(0x2018, 2), (0x2019, 0x10)] }
def cmd (kind : CmdKind) (st : CmdState) : Cmd := { id := 3, core := 0, cluster := 0, ch := 2, inc := 1, kind := kind, pc := 0, lc := 0, deps := [], st := st }

/-- Four bytes from address 64 to address 128. -/
def oneWord : BitVec 512 := payloadOf [0, 64, 0, 128, 1]
theorem witness_copy_accept : let s := engState (cmd (.copy 0 0) .waiting) [] id oneWord
    s.nextCmd 0 (fun c => c.kind.engine == 0) = some (cmd (.copy 0 0) .waiting) ∧ ∃ j, s.judgeCopy (cmd (.copy 0 0) .waiting) 0 0 = .ok j :=
  ⟨by decide +kernel, (ok_of_ok1 (p := fun _ => true) (by decide +kernel)).imp fun _ h => h.1⟩
def copyJob : CopyJob := { fmt := 2, uses := [] }
def copying (t : BitVec 512) : State := engState (cmd (.copy 0 0) (.running (.copy copyJob))) [] id t
/-- What a chunk moves in one go is items moved one after another. -/
theorem itemsMoved_of {c : Cmd} {t : BitVec 512} {param : Int} {n : Nat} {s u : State} {j i : CopyJob} (h : State.moveItems c t param n s j = .ok (u, i))
    (hi : tRuns t ≤ i.run ∨ 4096 ≤ i.chunk) : ∃ m, m ≤ n ∧ itemsMoved c t param m s j u i := by
  induction n generalizing s j with
  | zero => cases h; exact ⟨0, Nat.le_refl _, rfl, rfl, hi⟩
  | succ n ih =>
    unfold State.moveItems at h
    split at h
    · cases h; exact ⟨0, Nat.zero_le _, rfl, rfl, hi⟩
    · next hg =>
      split at h
      · cases h
      · next v k hm =>
        obtain ⟨m, hm1, hm2⟩ := ih h
        simp only [Bool.or_eq_true, decide_eq_true_eq, not_or, Nat.not_le] at hg
        exact ⟨m + 1, Nat.succ_le_succ hm1, hg.1, hg.2, v, k, hm, hm2⟩
/-- The job of a chunk that begins, and of one that has one byte left to move. -/
def begun (chunk : Nat) : CopyJob := { copyJob with chunk := chunk, started := true }
/-- The transfer ends in its first chunk; another's chunk ends before it. -/
theorem witness_copy_chunk : ∀ p ∈ [(oneWord, 0, true), (payloadOf [0, 64, 0, 128, 2], 4095, false)],
    let c := cmd (.copy 0 0) (.running (.copy { copyJob with chunk := p.2.1 }))
    let s := engState c [] id p.1
    (s.copyNow 0 false = some (c, { copyJob with chunk := p.2.1 }) ∧ s.stopping = false ∧ copyJob.run < tRuns p.1 ∧ tmplFol p.1 = false)
    ∧ s.copyHandles c p.1 64 128 2 = .ok ()
    ∧ ∃ u i m, m ≤ 4096 ∧ itemsMoved c p.1 0 m s (begun p.2.1) u i ∧ decide (tRuns p.1 ≤ i.run) = p.2.2 := by
  have h : ∀ p ∈ [(oneWord, 0, true), (payloadOf [0, 64, 0, 128, 2], 4095, false)],
      let c := cmd (.copy 0 0) (.running (.copy { copyJob with chunk := p.2.1 }))
      let s := engState c [] id p.1
      (s.copyNow 0 false = some (c, { copyJob with chunk := p.2.1 }) ∧ s.stopping = false ∧ copyJob.run < tRuns p.1 ∧ tmplFol p.1 = false)
      ∧ (s.copyHandles c p.1 64 128 2).toOption = some ()
      ∧ ok1 (State.moveItems c p.1 0 4096 (engState c [] id p.1) (begun p.2.1)) (fun x =>
        (decide (tRuns p.1 ≤ x.2.run) == p.2.2) && (decide (tRuns p.1 ≤ x.2.run) || decide (4096 ≤ x.2.chunk))) = true := by decide +kernel
  intro p hp
  obtain ⟨h1, h2, h3⟩ := h p hp
  obtain ⟨⟨u, i⟩, hu, hq⟩ := ok_of_ok1 h3
  simp only [Bool.and_eq_true, Bool.or_eq_true, beq_iff_eq, decide_eq_true_eq] at hq
  obtain ⟨m, hm, hi⟩ := itemsMoved_of hu hq.2
  exact ⟨h1, ok_of_toOption h2, u, i, m, hm, hi, hq.1⟩
theorem witness_copy_item : let s := copying oneWord
    let c := cmd (.copy 0 0) .waiting
    let d := s.copyDst c oneWord copyJob
    let v := s.copyMeets c oneWord .bf16 (s.copySrc c oneWord 0 copyJob) copyJob.elem
    (fmtOfCode copyJob.fmt = .bf16 ∧ tSrcLocal oneWord = false ∧ tDstLocal oneWord = false ∧ s.copyTurn c oneWord .bf16 (s.copySrc c oneWord 0 copyJob) d copyJob.elem = true)
    ∧ (∃ raw scale, v.readSource c oneWord .bf16 (s.copySrc c oneWord 0 copyJob) copyJob.elem = .ok (raw, scale))
    ∧ (State.engWalks srcCopy c.cluster (s.slotOfCore c.core) 2 d (itemBytes oneWord) v).engPlaces c.cluster (s.slotOfCore c.core) 2 d (itemBytes oneWord)
      = .ok [(d, itemBytes oneWord, { key := 128, word := 3 })] := by
  refine ⟨by decide +kernel, ?_, ok_of_toOption (by decide +kernel)⟩
  obtain ⟨⟨r, z⟩, h, -⟩ := ok_of_ok1 (x := ((copying oneWord).copyMeets (cmd (.copy 0 0) .waiting) oneWord .bf16
    ((copying oneWord).copySrc (cmd (.copy 0 0) .waiting) oneWord 0 copyJob) copyJob.elem).readSource (cmd (.copy 0 0) .waiting) oneWord .bf16
    ((copying oneWord).copySrc (cmd (.copy 0 0) .waiting) oneWord 0 copyJob) copyJob.elem) (p := fun _ => true) (by decide +kernel)
  exact ⟨r, z, h⟩

/-- A follow-on MMA of K 1 on tiles 0 and 1, both BF16. -/
def folTmpl : BitVec 512 := payloadOf [2 ^ 21 + 2 ^ 42]
def followJob : CopyJob := { copyJob with follow := true }
def following : State :=
  engState (cmd (.copy 0 0) (.running (.copy followJob))) [] (fun c =>
    { c.setTile 0 { engine := true, dir := true, fmt := 2, expect := 8 } |>.setTile 1 { engine := true, dir := true, fmt := 2, expect := 8 } with lent := [(0, [3])] }) folTmpl
theorem witness_follow_on : ∃ s2 : State, following.copyNow 0 true = some (cmd (.copy 0 0) (.running (.copy followJob)), followJob) ∧ following.stopping = false
    ∧ following.copyTemplate 0 0 = folTmpl ∧ followBad (following.core 0) folTmpl = false ∧ (∃ l ∈ (following.core 0).lent, l.1 = tmplFaw folTmpl ∧ 3 ∈ l.2)
    ∧ (following.core 0).groupPoison = []
    ∧ State.readUnits 0 (blocksOf 0 (operandBytes .bf16 1) ++ blocksOf 1 (operandBytes .bf16 1)) following = .ok s2 := by
  obtain ⟨s2, h, -⟩ := ok_of_ok1 (x := State.readUnits 0 (blocksOf 0 (operandBytes .bf16 1) ++ blocksOf 1 (operandBytes .bf16 1)) following) (p := fun _ => true)
    (by decide +kernel)
  exact ⟨s2, by decide +kernel, by decide +kernel, by decide +kernel, by decide +kernel, ⟨(0, [3]), by decide +kernel, by decide +kernel, by decide⟩, by decide +kernel, h⟩

/-- A reduction of two sources and 1,025 elements: its block, from address 64. -/
def redBlock : List Nat := [2 + 1025 * 2 ^ 32] ++ List.replicate 39 0
def wordsAt (a : Nat) (l : List Nat) : List (Nat × Byte) := writeMem [] a (l.flatMap fun w => leBytes 8 w)
def redState (st : CmdState) : State := engState (cmd (.kred 64 0) st) (wordsAt 64 redBlock)
/-- A part of an engine's work comes to a value that passes a test. -/
theorem eng_of_ok1 {α : Type} {x : Eng α} {p : α → Bool} (h : ok1 x.2 p = true) : ∃ v a, x = (v, .ok a) ∧ p a = true := by
  obtain ⟨a, ha, hp⟩ := ok_of_ok1 h
  exact ⟨x.1, a, by rw [← ha], hp⟩
theorem eng_then_ok {α : Type} {x : Eng α} {p : State → Bool} (h : (ok1 x.2 (fun _ => true) && p x.1) = true) :
    ∃ v a, x = (v, .ok a) ∧ p v = true := by
  obtain ⟨h1, h2⟩ := Bool.and_eq_true_iff.mp h
  obtain ⟨v, a, rfl, -⟩ := eng_of_ok1 h1
  exact ⟨v, a, rfl, h2⟩
theorem witness_kred_accept : (redState .waiting).nextKiln 0 (fun | .kred _ _ => true | _ => false) = some (cmd (.kred 64 0) .waiting)
    ∧ ∃ v, (redState .waiting).judgeRed (cmd (.kred 64 0) .waiting) 0 64 = (v, .ok redBlock) := ⟨by decide +kernel, _, eng_ok (by decide +kernel)⟩
def redBuf : RedBuf := { handle := 0, off := 0, fmt := .bf16 }
/-- The kiln may write its sums now, and they have their places. -/
def turnAndPlaces (v : State) (chunk n : Nat) : Prop :=
  let a := v.engAddr 14 0 redBuf.handle (redBuf.off + 1024 * chunk * elemBytes redBuf.fmt)
  v.engTurns (kilnPort 0) 14 0 true false (n / 64 + 2) a n = true
    ∧ ∃ p, (State.engWalks srcKiln 14 0 (n / 64 + 2) a n v).engPlaces 14 0 (n / 64 + 2) a n = .ok p
def turnAndPlacesB (v : State) (chunk n : Nat) : Bool :=
  let a := v.engAddr 14 0 redBuf.handle (redBuf.off + 1024 * chunk * elemBytes redBuf.fmt)
  v.engTurns (kilnPort 0) 14 0 true false (n / 64 + 2) a n && ok1 ((State.engWalks srcKiln 14 0 (n / 64 + 2) a n v).engPlaces 14 0 (n / 64 + 2) a n) fun _ => true
theorem turnAndPlaces_of {v : State} {chunk n : Nat} (h : turnAndPlacesB v chunk n = true) : turnAndPlaces v chunk n :=
  (Bool.and_eq_true_iff.mp h).imp id fun h => (ok_of_ok1 h).imp fun _ h => h.1
theorem witness_kred_chunk : let s := redState (.running (.kred redBlock 0))
    s.cmdOf 3 = some (cmd (.kred 64 0) (.running (.kred redBlock 0))) ∧ s.stopping = false ∧ s.kilnBad.contains 0 = false ∧ 1024 * 0 + 1024 < redLen redBlock
    ∧ s.redHandles 14 0 redBlock (1024 * 0) 2 = .ok () ∧ s.redBufs 14 0 redBlock = redBuf :: [redBuf, redBuf]
    ∧ ∃ v l, State.redReads 0 0 (1024 * 0) 1024 [redBuf, redBuf] s = (v, .ok l)
      ∧ turnAndPlaces v 0 2048 := by
  refine ⟨by decide +kernel, by decide +kernel, by decide +kernel, by decide +kernel, ok_of_toOption (by decide +kernel), by decide +kernel, ?_⟩
  obtain ⟨v, l, h, hp⟩ := eng_then_ok (x := State.redReads 0 0 (1024 * 0) 1024 [redBuf, redBuf] (redState (.running (.kred redBlock 0))))
    (p := fun v => turnAndPlacesB v 0 2048)
    (by decide +kernel)
  exact ⟨v, l, h, turnAndPlaces_of hp⟩
/-- The second chunk is the last. -/
theorem witness_kred_last : let s := redState (.running (.kred redBlock 1))
    s.cmdOf 3 = some (cmd (.kred 64 0) (.running (.kred redBlock 1))) ∧ s.stopping = false ∧ 1024 * 1 < redLen redBlock ∧ redLen redBlock ≤ 1024 * 1 + 1024
    ∧ redFlag redBlock = false ∧ s.redHandles 14 0 redBlock (1024 * 1) 2 = .ok () ∧ s.redBufs 14 0 redBlock = redBuf :: [redBuf, redBuf]
    ∧ ∃ v l, State.redReads 0 0 (1024 * 1) 1 [redBuf, redBuf] s = (v, .ok l)
      ∧ turnAndPlaces v 1 2 := by
  refine ⟨by decide +kernel, by decide +kernel, by decide +kernel, by decide +kernel, by decide +kernel, ok_of_toOption (by decide +kernel), by decide +kernel, ?_⟩
  obtain ⟨v, l, h, hp⟩ := eng_then_ok (x := State.redReads 0 0 (1024 * 1) 1 [redBuf, redBuf] (redState (.running (.kred redBlock 1))))
    (p := fun v => turnAndPlacesB v 1 2)
    (by decide +kernel)
  exact ⟨v, l, h, turnAndPlaces_of hp⟩

/-- SCALE of one BF16 element in banks 0 and 1 of the page at 2 MiB. -/
def opBlock : List Nat := [1 + 2 ^ 20, 2 ^ 21, 0, 0, 2, 1, 0, 0]
def opState (st : CmdState) : State := engState (cmd (.kop 64 0) st) (wordsAt 64 opBlock)
theorem witness_kop_accept : let s := opState .waiting
    s.nextKiln 0 (fun | .kop _ _ => true | _ => false) = some (cmd (.kop 64 0) .waiting)
    ∧ (let v := (s.blockWords (cmd (.kop 64 0) .waiting) 0 64 8).1
      s.blockWords (cmd (.kop 64 0) .waiting) 0 64 8 = (v, .ok opBlock)
      ∧ (v.walkMeets srcKiln (kilnCluster 0) (s.slotOfCore 0) (opBlock.getD 1 0)).opPage (kilnCluster 0) (s.slotOfCore 0) 0 (opBlock.getD 1 0) = some (2 ^ 21, 2))
    ∧ opBad opBlock = none ∧ kilnFmt 2 = true ∧ kilnTapered 2 = false ∧ ∀ p ∈ opExtents opBlock .bf16, p.2.1 + p.2.2 ≤ 0x20000 :=
  ⟨by decide +kernel, ⟨eng_ok (by decide +kernel), by decide +kernel⟩, by decide +kernel, by decide, by decide, by decide +kernel⟩
theorem witness_kop_bank : ∀ b ∈ [0, 1], let s := opState (.running (.kop opBlock (2 ^ 21) .bf16 b none))
    s.cmdOf 3 = some (cmd (.kop 64 0) (.running (.kop opBlock (2 ^ 21) .bf16 b none))) ∧ s.stopping = false ∧ s.kilnBad.contains 0 = false
    ∧ (∃ x, s.engXl 14 0 (opBlock.getD 1 0 + b * 0x20000 + opBlock.getD 4 0) 1 true = .ok x)
    ∧ s.opTurn 0 opBlock .bf16 (2 ^ 21 + b * 0x20000) = true
    ∧ (∃ u, State.opRun 3 0 opBlock .bf16 (2 ^ 21 + b * 0x20000) (opCount opBlock) 0 s = (u, none)) ∧ opCount opBlock = 1
    ∧ ∃ v l, s.opReads 0 opBlock .bf16 (2 ^ 21 + b * 0x20000) 0 = (v, .ok l) := by
  intro b hb
  simp only [List.mem_cons, List.not_mem_nil, or_false] at hb
  rcases hb with rfl | rfl <;>
    refine ⟨by decide +kernel, by decide +kernel, by decide +kernel, (ok_of_ok1 (p := fun _ => true) (by decide +kernel)).imp fun _ h => h.1,
      by decide +kernel, ⟨_, Prod.ext rfl (by decide +kernel)⟩, by decide +kernel, ?_⟩
  · obtain ⟨l, h, -⟩ := ok_of_ok1 (x := ((opState (.running (.kop opBlock (2 ^ 21) .bf16 0 none))).opReads 0 opBlock .bf16 (2 ^ 21 + 0 * 0x20000) 0).2)
      (p := fun _ => true) (by decide +kernel)
    exact ⟨_, l, Prod.ext rfl h⟩
  · obtain ⟨l, h, -⟩ := ok_of_ok1 (x := ((opState (.running (.kop opBlock (2 ^ 21) .bf16 1 none))).opReads 0 opBlock .bf16 (2 ^ 21 + 1 * 0x20000) 0).2)
      (p := fun _ => true) (by decide +kernel)
    exact ⟨_, l, Prod.ext rfl h⟩

/-- A search of one dimension: the packet at address 64, the descriptor with one shard of one vector at 1,024, the query at 2,048. -/
def packetWords : List Nat := [0, 1, 0, 1024, 0, 2048, 0, 16, 0] ++ List.replicate 7 0
def searchState (st : CmdState) : State := engState (cmd (.ksrch 64 0) st) (wordsAt 64 packetWords ++ wordsAt 1024 [1, 0, 3072, 0, 3080, 2])
theorem witness_ksrch_accept : let s := searchState .waiting
    s.nextKiln 0 (fun | .ksrch _ _ => true | _ => false) = some (cmd (.ksrch 64 0) .waiting) ∧ s.contexts 0 < 1024
    ∧ ∃ v x, s.judgeQuery (cmd (.ksrch 64 0) .waiting) 0 64 = (v, .ok x) ∧ x.members ≠ [] := by
  obtain ⟨v, x, h, hp⟩ := eng_of_ok1 (x := (searchState .waiting).judgeQuery (cmd (.ksrch 64 0) .waiting) 0 64) (p := fun x => decide (x.members ≠ []))
    (by decide +kernel)
  exact ⟨by decide +kernel, by decide +kernel, v, x, h, of_decide_eq_true hp⟩
def query1 : QueryCtx :=
  { qp := { nip := false, e := 1, k := 1, b := 1, g := 1, dim := 1, budget := 1, rhandle := 0, roff := 16, shards := [[1, 0, 3072, 0, 3080, 2]], vfmt := .bf16, q := [0],
            handles := [] }
    members := [0, 1] }
theorem witness_distance_request : let s := searchState (.running (.ksrch query1))
    s.cmdOf 3 = some (cmd (.ksrch 64 0) (.running (.ksrch query1))) ∧ s.stopping = false ∧ 0 ∈ query1.members ∧ (∀ z ∈ query1.asked ++ query1.replies, z.id ≠ 0)
    ∧ ∃ v y, s.distance (cmd (.ksrch 64 0) (.running (.ksrch query1))) (query1.passTo 0) 0 = (v, .ok y) :=
  ⟨by decide +kernel, by decide +kernel, by decide, by decide, by
    obtain ⟨v, y, h, -⟩ := eng_of_ok1 (x := (searchState (.running (.ksrch query1))).distance (cmd (.ksrch 64 0) (.running (.ksrch query1))) (query1.passTo 0) 0)
      (p := fun _ => true) (by decide +kernel)
    exact ⟨v, y, h⟩⟩
theorem witness_distance_reply : ∃ x : QueryCtx, (searchState (.running (.ksrch x))).cmdOf 3 = some (cmd (.ksrch 64 0) (.running (.ksrch x)))
    ∧ x.asked.find? (fun y => y.id == 0) = some { dist := 0, id := 0 } ∧ x.replies.length + 1 < x.members.length :=
  ⟨{ query1 with asked := [{ dist := 0, id := 0 }] }, by decide +kernel, by decide, by decide⟩

/-! The host. -/

theorem witness_rvk : keyOk (ranged.rangeKey 0 0) 64 = true ∧ (ranged.rangeEntry 0 0).gen ≠ 7 := by decide +kernel
/-- At L2 the window lies over the first bytes of tier 0. -/
def served : State := { State.reset with level := 2 }
def hostReads (s : State) (key n : Nat) : State := s.readsLine srcHost hostPort key n
theorem witness_host_atomic_split : served.bar2Key 8 = 8 ∧ 8 % 4 = 0 ∧ 8 + 4 ≤ 2 ^ 36 ∧ keyOk 8 4 = true ∧ served.served 8 = true
    ∧ served.portTurn hostPort 8 4 = true ∧ served.hostRmw = none ∧ (hostReads served 8 4).poisoned 8 4 = none
    ∧ ((hostReads served 8 4).physAttrs 8).1 = false := by decide +kernel
theorem witness_host_atomic_poisoned : ∃ s : State, s.bar2Key 8 = 8 ∧ s.served 8 = true ∧ s.portTurn hostPort 8 4 = true ∧ s.hostRmw = none
    ∧ ((hostReads s 8 4).poisoned 8 4).isSome = true := ⟨{ served with errs := [(0, true)] }, by decide +kernel⟩
/-- The page of address 0 has SYSAT. -/
def sysat : State :=
  { served with
    slots := [(0, { root := 0x1000, valid := true })], mem := [(0x1000, 1), (0x1001, 0x20), (0x2000, 1), (0x2001, 0x30), (0x3000, 0x43)] }
theorem witness_host_atomic : sysat.bar2Key 8 = 8 ∧ sysat.served 8 = true ∧ sysat.portTurn hostPort 8 4 = true ∧ sysat.hostRmw = none
    ∧ (hostReads sysat 8 4).poisoned 8 4 = none ∧ ((hostReads sysat 8 4).physAttrs 8).1 = true := by
  refine ⟨by decide +kernel, by decide +kernel, by decide +kernel, rfl, by decide +kernel, ?_⟩
  have h : (((hostReads sysat 8 4).slots.filter (·.2.valid)).flatMap fun p => (hostReads sysat 8 4).leafAttrs 8 5 (tableKey p.2.root.toNat 12)).any (·.1) = true := by
    decide +kernel
  unfold State.physAttrs
  simp only [List.any_append, h, Bool.or_true]
theorem witness_host_rmw : ∃ (s : State) (w : HostRmw), s.bar2Key 8 = 8 ∧ s.served 8 = true ∧ s.portTurn hostPort 8 4 = true ∧ s.hostRmw = some w
    ∧ s.portTurn hostPort w.key w.n = true ∧ w.new = some 5 :=
  ⟨{ served with hostRmw := some { key := 8, n := 4, old := 0, new := some 5 } }, _, by decide +kernel, by decide +kernel, by decide +kernel, rfl,
    by decide +kernel, rfl⟩
theorem witness_bar2 : served.bar2Key 64 = 64 ∧ 64 + 8 ≤ 2 ^ 36 ∧ keyOk 64 8 = true ∧ served.served 64 = true ∧ served.portTurn hostPort 64 8 = true
    ∧ (hostReads served 64 8).poisoned 64 8 = none ∧ served.hostRmw = none
    ∧ ((hostReads { served with poison := [1] } 64 8).poisoned 64 8).isSome = true := by decide +kernel
theorem witness_service : State.reset.level = 0 ∧ State.reset.bar2Key 64 = 64 ∧ keyOk 64 8 = true
    ∧ ({ served with level := 1 } : State).bar2Key 64 < 2 ^ 52 := by decide +kernel
theorem witness_register_read : ∃ t : State, exec (.registerWrite 0x1C0118 5) State.reset = .next t := by
  have h : (match exec (.registerWrite 0x1C0118 5) State.reset with | .next _ => true | _ => false) = true := by decide +kernel
  split at h
  · next t ht => exact ⟨t, ht⟩
  · cases h
theorem witness_page_response : ∃ (s : State) (r : PageRequest), s.requests.find? (fun r => r.index == 0) = some r :=
  ⟨{ State.reset with requests := [{ index := 0, pasid := 0, page := 0 }] }, _, rfl⟩
theorem witness_ats_invalidation : ∀ a ∈ State.reset.accs, State.reset.usesPage { index := 0, pasid := 0, page := hostPage 0 } a = false := by decide
theorem witness_register_write : (State.reset.slot 0).st = .idle := by decide
theorem witness_scrub : paOk false 0 = true ∧ memKey false (0 / 64 * 64) / 64 ∉ State.reset.poison
    ∧ memKey false 0 / 64 ∈ ({ State.reset with poison := [0] } : State).poison := by decide
theorem witness_scrub_counts : ∃ s : State, memKey false 0 / 64 ∉ s.poison ∧ (Sparse.find? (ceRow (memKey false 0)) s.ceCounts).isSome = true
    ∧ s.ceCount (memKey false 0) + 1 ≠ bits s.regs.faqctl.toNat 16 16 :=
  ⟨{ State.reset with ceCounts := [(ceRow (memKey false 0), 1)] }, by decide, by decide +kernel, by decide +kernel⟩
theorem witness_ce_window : ∃ s : State, Sparse.get 0 s.ceWindows 5 + 2 ^ s.regs.cewin ≤ s.clk := ⟨{ State.reset with clk := 2 ^ 36 }, by decide +kernel⟩
theorem witness_bpl : (State.reset.regs.bplstat ≠ 1) ∧ ∃ s : State, s.regs.bplstat = 1 ∧ s.bplRefused s.regs.bplpend = false :=
  ⟨by decide, { State.reset with regs := { bplstat := 1, bplpend := 0x8000000000000000 } }, rfl, by decide +kernel⟩
theorem witness_bpl_full : ∃ s : State, s.regs.bplstat = 1 ∧ s.nv.bpl.length = 1024 :=
  ⟨{ State.reset with regs := { bplstat := 1 }, nv := { State.reset.nv with bpl := List.replicate 1024 0 } }, rfl, List.length_replicate ..⟩
theorem witness_levels : State.reset.level = 0 ∧ State.reset.bootFailed = false ∧ ∃ s : State, s.level = 1 ∧ s.node = none ∧ s.firmware ≠ [] :=
  ⟨rfl, rfl, { State.reset with level := 1, firmware := [0] }, rfl, rfl, by decide⟩

/-! Attestation: whether an image verifies is the configuration's, so the witness holds for either answer. -/

theorem witness_spdm : ∃ s : State, s.spdm.versioned = true ∧ s.spdm.capable = true ∧ s.spdm.negotiated = true ∧ s.nv.leaf < 2 ^ 40 :=
  ⟨{ State.reset with spdm := { versioned := true, capable := true, negotiated := true } }, rfl, rfl, rfl, by decide⟩
theorem witness_measurement : ∃ b l, b ≠ 0 ∧ b ≠ 0xFF ∧ ({ State.reset with firmware := [0] } : State).block b = some l := by
  have h : ((({ State.reset with firmware := [0] } : State).block 1)).isSome = true := by decide +kernel
  obtain ⟨l, hl⟩ := Option.isSome_iff_exists.mp h
  exact ⟨1, l, by decide, by decide, hl⟩
theorem witness_boot : State.reset.level = 0 ∧ State.reset.bootFailed = false ∧ 1 = State.reset.firmware.length + 1
    ∧ (Config.firmwareVerifies 1 [] = true ∨ Config.firmwareVerifies 1 [] = false) :=
  ⟨rfl, rfl, rfl, by cases Config.firmwareVerifies 1 [] <;> simp⟩

/-! The machine. -/

theorem witness_agenda : ∃ s : State, s.agenda = (3, .coldReset) :: [] ∧ slotOp .coldReset = none ∧ ∀ b ∈ s.aggBufs, b.elems.length < 15 :=
  ⟨{ State.reset with agenda := [(3, .coldReset)] }, rfl, rfl, by decide⟩
/-- Code of the first page that holds an unassigned word, an escape and a word of the dictionary. -/
def coded (w : List (Nat × Byte)) : State := { task with clusters := firstPage, mem := w }
theorem witness_code_unassigned : (coded [(17, 0x20)]).codeAt 0 (0 + 16 + 2 * 0) 2 = .ok 0x2000 ∧ (coded [(16, 0xFE), (17, 0xFF)]).codeAt 0 16 2 = .ok 0xFFFE :=
  ⟨ok_of_toOption (by decide +kernel), ok_of_toOption (by decide +kernel)⟩
theorem witness_code_dictionary : (coded [(16, 0xFF), (17, 0x1F)]).codeAt 0 16 2 = .ok 0x1FFF ∧ (List.replicate 8192 (0 : BitVec 384))[0x1FFF]? = some 0 :=
  ⟨ok_of_toOption (by decide +kernel), List.getElem?_replicate_of_lt (by decide)⟩
theorem witness_code_escape : let s := coded [(16, 0xFF), (17, 0xFF)]
    s.codeAt 0 16 2 = .ok 0xFFFF ∧ 0 + 25 ≤ 25 ∧ ∀ j, j < 24 → s.codeAt 0 (16 + 2 + 2 * j) 2 = .ok ((fun _ => 0) j) := by
  refine ⟨ok_of_toOption (by decide +kernel), by decide, fun j hj => ok_of_toOption ?_⟩
  revert j; decide +kernel
theorem witness_slot_decodes : (Instr.add 1 2 3).wf = true ∧ admittedCmd .a (.add 1 2 3) = true ∧ (Instr.copygo 0 12).wf = true := by decide +kernel
theorem witness_result_frames : (task).me.pend = [] ∧ (task).me.phase = .running ∧ (task).me.lc.toNat + 1 < 2 ^ 64 ∧ (task).me.streamOf 3 = none := by
  decide +kernel
theorem witness_issue_keeps : ∃ (op : SlotOp) (t : State), slotOp (.add 1 2 3) = some op ∧ exec (.add 1 2 3) task = .next t := by
  obtain ⟨op, h⟩ := Option.isSome_iff_exists.mp (show (slotOp (.add 1 2 3)).isSome = true by decide)
  have : runs (.add 1 2 3) task (fun _ => true) = true := by decide +kernel
  unfold runs at this
  split at this
  · next t ht => exact ⟨op, t, h, ht⟩
  · cases this
theorem witness_memory_form : ∃ t : State, (Memory.wf State.reset.mem = true ∧ ∀ p ∈ State.reset.cores, p.2.Wf) ∧ step State.reset = .next t := by
  have h : (match step State.reset with | .next _ => true | _ => false) = true := by decide +kernel
  split at h
  · next t ht => exact ⟨t, ⟨by decide, fun _ h => absurd h List.not_mem_nil⟩, ht⟩
  · cases h
/-- The core of a task that runs meets the form. -/
theorem witness_core_form : ∀ p ∈ (task).cores, p.2.Wf := by
  intro p hp
  obtain rfl : p = (0, { Core.idle with phase := .running }) := by simpa [task] using hp
  exact { scratch := rfl, s0 := rfl, p0 := rfl, m0 := by decide, shadow := fun h => absurd rfl h }
theorem witness_ternary : loadLane .tri5 242 0 = -1 ∧ elemReserved .tri5 242 0 = false ∧ elemReserved .tri5 243 0 = true ∧ elemReserved .tri2 2 0 = true := by
  decide +kernel
/-- A block of the scribe's records with one that is BAD. -/
theorem witness_scribe_bad : ∃ s : State, s.spdm.negotiated = true ∧ (s.block 0xC0).isSome = true
    ∧ (s.scribe.blockPlaces 0).any s.scribe.bad.contains = true ∧ s.scribe.bad.all s.scribe.found.contains = false
    ∧ ∃ f : Scribe, (f.blockPlaces 0).any f.bad.contains = true ∧ f.bad.all f.found.contains = true :=
  ⟨{ State.reset with spdm := { negotiated := true }, scribe := { ring := [(0, 1)], head := 1, bad := [0] } }, rfl, by decide +kernel, by decide +kernel, by decide +kernel,
    { ring := [(0, 1)], head := 1, bad := [0], found := [0] }, by decide +kernel, by decide +kernel⟩

end Sys2Proof.Tests
end

section
/-! SUPPORT. How an operation issues that its operands alone can hold, where some of them are bound to streams. -/

namespace Sys2Proof.Numbers

open Sys2Proof.Machine

/-- Each read as its register and its distance names the register again. -/
theorem map_fst_reads (reads : List Reg) : (reads.map fun r => (r, 0)).map (·.1) = (reads : List Reg) := by
  rw [List.map_map]
  exact List.map_id reads

/-! ## Popping streams leaves the mask registers -/

/-- A stream that asks for groups moves its own count and adds accesses. -/
theorem refill_keeps (s : State) (k n : Nat) (f : Fin 8) :
    (State.refill k f n s).cur = s.cur ∧ ((State.refill k f n s).core k).m = (s.core k).m := by
  induction n generalizing s with
  | zero => exact ⟨rfl, rfl⟩
  | succ n ih =>
    unfold State.refill
    split
    · exact ⟨rfl, rfl⟩
    · dsimp only
      split
      · rw [(ih _).1, (ih _).2, State.core_updCore_same]
        exact ⟨rfl, rfl⟩
      · exact ⟨rfl, rfl⟩

theorem m_verifyTiles (c : Core) (ts : List Nat) (tc : Bool) : (c.verifyTiles ts tc).m = c.m := by
  unfold Core.verifyTiles
  split
  · exact List.foldlRecOn (motive := fun d : Core => d.m = c.m) _ _ rfl fun _ hd _ _ => hd
  · rfl

theorem pop_keeps (s : State) (k lat slot : Nat) (f : Fin 8) :
    (s.pop k lat slot f).cur = s.cur ∧ ((s.pop k lat slot f).core k).m = (s.core k).m := by
  unfold State.pop
  dsimp only
  split
  · exact ⟨rfl, rfl⟩
  · split
    · rw [State.core_setCore_same]
      exact ⟨rfl, rfl⟩
    · split
      · rw [(refill_keeps ..).1, (refill_keeps ..).2, State.core_setCore_same]
        split <;> exact ⟨rfl, rfl⟩
      · rw [State.core_setCore_same]
        split <;> exact ⟨rfl, m_verifyTiles ..⟩

/-- The groups that streams give change no mask register of the core that the step concerns. -/
@[simp] theorem rdM_fed (s : State) (slot lat : Nat) (reads : List Reg) (n : MReg) : (s.fed slot lat reads).me.rdM n = s.me.rdM n := by
  have key : (s.fed slot lat reads).cur = s.cur ∧ ((s.fed slot lat reads).core s.cur).m = (s.core s.cur).m :=
    List.foldlRecOn (motive := fun t : State => t.cur = s.cur ∧ (t.core s.cur).m = (s.core s.cur).m) _ _ ⟨rfl, rfl⟩
      fun t ⟨htcur, htm⟩ f _ => ⟨(pop_keeps t ..).1.trans htcur, (pop_keeps t ..).2.trans htm⟩
  obtain ⟨hcur, hm⟩ := key
  simp only [State.me, Core.rdM, hcur, hm]

/-- Where no vector register is read no stream gives a group. -/
theorem fed_of_noV (s : State) (slot lat : Nat) {reads : List Reg} (h : ∀ r ∈ reads, ∀ n, r ≠ .v n) : s.fed slot lat reads = s := by
  refine State.popped_unbound (State.unbound_of_noV fun r hr => h r ?_)
  rwa [operands, map_fst_reads] at hr

/-! ## An operation that its operands alone can hold -/

/-- An operation that has no condition of its own. -/
def acting (slot lat : Nat) (reads writes : List Reg) (act : State → State) : SlotOp := { operands slot lat reads writes with act := act }

theorem streamsGo_acting {s : State} {slot lat : Nat} {reads writes : List Reg} (act : State → State)
    (h : s.StreamsGo (operands slot lat reads writes)) : s.StreamsGo (acting slot lat reads writes act) where
  misuse := h.misuse
  waits := h.waits
  settled := h.settled
  tiles := h.tiles
  check := h.check

/-- It issues once nothing stands against its registers, and acts in the state in which its streams have given their groups. -/
theorem run_acting {s : State} {slot lat : Nat} {reads writes : List Reg} {op : SlotOp} (i : Instr)
    (hop : op = acting slot lat reads writes op.act) (h : s.Ready slot lat reads writes) :
    op.run i s = .next (s.issues (fun _ => op.act (s.fed slot lat reads)) (predWrites [op])) := by
  rw [hop]
  generalize op.act = act
  have hr : (acting slot lat reads writes act).reads.map (·.1) = reads := map_fst_reads reads
  have hp : s.Passes (i := i) (acting slot lat reads writes act) :=
    { tiles := State.tilesFree_nil, wait := rfl, instead := rfl, place := fun e => absurd e Bool.false_ne_true, takes := rfl,
      scales := fun _ hx => absurd hx List.not_mem_nil, check := rfl, owner := rfl, pop := rfl, last := rfl, stuck := rfl }
  exact SlotOp.run_issues (hr.symm ▸ h.clear) (streamsGo_acting act h.streams) hp

/-- The same for one that reads no vector register: it acts in the state that it meets. -/
theorem run_acting_of_noV {s : State} {slot lat : Nat} {reads writes : List Reg} {op : SlotOp} (i : Instr)
    (hop : op = acting slot lat reads writes op.act) (hv : ∀ r ∈ reads, ∀ n, r ≠ .v n) (h : s.Ready slot lat reads writes) :
    op.run i s = .next (s.issues (fun _ => op.act s) (predWrites [op])) := by
  rw [run_acting i hop h, fed_of_noV s slot lat hv]

/-- An issue takes an action at the state in which the bundle stands. -/
theorem issues_at (s : State) (act : State → State) (writes : BitVec 16) : s.issues act writes = s.issues (fun _ => act s) writes := rfl

end Sys2Proof.Numbers
end

section
/-! SUPPORT. Lanes of a vector, bits of a mask, counts of bits. -/

namespace Sys2Proof.Numbers

open Sys2Proof.Machine

/-- Field i of packed fields. -/
theorem packNat_field (w : Nat) (l : List Nat) (i : Nat) : packNat w l / 2 ^ (w * i) % 2 ^ w = l.getD i 0 % 2 ^ w := by
  induction l generalizing i with
  | nil => simp [packNat]
  | cons x r ih =>
    cases i with
    | zero => simp [packNat]
    | succ i =>
      have hx : (x % 2 ^ w + 2 ^ w * packNat w r) / 2 ^ w = packNat w r := by
        rw [Nat.add_mul_div_left _ _ (Nat.two_pow_pos w), Nat.div_eq_of_lt (Nat.mod_lt _ (Nat.two_pow_pos w)), Nat.zero_add]
      rw [packNat, Nat.mul_succ, Nat.add_comm (w * i), Nat.pow_add, ← Nat.div_div_eq_div_mul, hx, ih, List.getD_cons_succ]

theorem packNat_lt (w : Nat) (l : List Nat) : packNat w l < 2 ^ (w * l.length) := by
  induction l with
  | nil => simp [packNat]
  | cons x r ih =>
    have hx : x % 2 ^ w < 2 ^ w := Nat.mod_lt _ (Nat.two_pow_pos w)
    have hr : 2 ^ w * (packNat w r + 1) ≤ 2 ^ w * 2 ^ (w * r.length) := Nat.mul_le_mul_left _ ih
    rw [packNat, List.length_cons, Nat.mul_succ, Nat.add_comm (w * _), Nat.pow_add]
    rw [Nat.mul_succ] at hr
    omega

/-- Packed fields fit in as many bits as they take together. -/
theorem toNat_ofNat_packNat {w n : Nat} {l : List Nat} (h : w * l.length = n) : (BitVec.ofNat n (packNat w l)).toNat = packNat w l := by
  rw [BitVec.toNat_ofNat, Nat.mod_eq_of_lt (h ▸ packNat_lt w l)]

/-- A vector of 64 lanes has them. -/
theorem lane_vecOf (f : Nat → W32) {i : Nat} (hi : i < 64) : lane (vecOf ((List.range 64).map f)) i = f i := by
  apply BitVec.eq_of_toNat_eq
  rw [lane, vecOf, BitVec.toNat_ofNat, toNat_ofNat_packNat (by simp), packNat_field]
  simp [List.getD_eq_getElem?_getD, hi, Nat.mod_eq_of_lt (f i).isLt]

theorem lane_mergeLanes (mask : BitVec 64) (old new : BitVec 2048) {i : Nat} (hi : i < 64) :
    lane (mergeLanes mask old new) i = if mask.getLsbD i then lane new i else lane old i :=
  lane_vecOf _ hi

theorem getLsbD_maskOf (p : Nat → Bool) {n : Nat} (hn : n ≤ 64) (i : Nat) : (maskOf p n).getLsbD i = (decide (i < n) && p i) := by
  induction n with
  | zero => simp [maskOf]
  | succ n ih =>
    have hbit : (if p n then BitVec.ofNat 64 (2 ^ n) else 0).getLsbD i = (decide (i = n) && p n) := by
      split
      · next h =>
        rw [BitVec.getLsbD_ofNat, Nat.testBit_two_pow, h, Bool.and_true, ← Bool.decide_and]
        exact decide_eq_decide.mpr (by omega)
      · next h => simp [h]
    rw [maskOf, BitVec.getLsbD_or, ih (by omega), hbit]
    rcases Nat.lt_trichotomy i n with h | h | h
    · simp [h, Nat.lt_succ_of_lt h, Nat.ne_of_lt h]
    · simp [h]
    · simp [Nat.not_lt_of_gt h, Nat.ne_of_gt h, show ¬ i < n + 1 by omega]

theorem popCount_eq_countP {w : Nat} (n : Nat) (x : BitVec w) : popCount n x.toNat = (List.range n).countP fun i => x.getLsbD i := by
  have hbit : bit x.toNat = fun i => x.getLsbD i := funext fun i => by
    rw [bit, BitVec.getLsbD, Nat.testBit_eq_decide_div_mod_eq]
    rfl
  rw [popCount, hbit, List.countP_eq_length_filter]

end Sys2Proof.Numbers
end

section
/-! The ternary formats (R57, R58). -/

namespace Sys2Proof.Numbers

open Sys2Proof.Machine

/-- R57: the four codes of TRI2. -/
theorem tri2_codes : ∀ code : Fin 4,
    BitVec.ofInt 32 (decodeTri2 code.val).1 = (if code.val = 1 then 1 else if code.val = 3 then -1 else 0 : W32)
      ∧ (decodeTri2 code.val).2 = (code.val == 2) := by
  decide

theorem tri5_digit_of_lt {byte : Nat} (h : byte < 243) (j : Nat) (d : Fin 3) (hd : byte / 3 ^ j % 3 = d.val) :
    decodeTri5 byte j = (if d = 1 then 1 else if d = 2 then -1 else 0, false) := by
  rw [decodeTri5, if_neg (Nat.not_le_of_lt h), hd]
  match d with
  | 0 | 1 | 2 => rfl

/-- Five digits of base 3, the first the lowest. -/
def tri5Byte (t : Fin 5 → Fin 3) : Nat := (t 0).val + 3 * (t 1).val + 9 * (t 2).val + 27 * (t 3).val + 81 * (t 4).val

theorem tri5Byte_lt (t : Fin 5 → Fin 3) : tri5Byte t < 243 := by
  unfold tri5Byte
  omega

theorem tri5Byte_digit (t : Fin 5 → Fin 3) (i : Fin 5) : tri5Byte t / 3 ^ i.val % 3 = (t i).val := by
  unfold tri5Byte
  match i with
  | 0 => exact show _ / 1 % 3 = _ by omega
  | 1 => exact show _ / 3 % 3 = _ by omega
  | 2 => exact show _ / 9 % 3 = _ by omega
  | 3 => exact show _ / 27 % 3 = _ by omega
  | 4 => exact show _ / 81 % 3 = _ by omega

/-- A byte holds n elements, and an element lies as many bytes on as its number has whole bytes. -/
theorem elemAddr_of_lt {f : Fmt} {a i : Nat} (h1 : elemBytes f = 1) (h : a + i < 2 ^ 57) : elemAddr f a i = a + i / perByte f := by
  have hd : i / perByte f ≤ i := Nat.div_le_self _ _
  rw [elemAddr, h1, Nat.mul_one, Nat.mod_eq_of_lt (by omega)]

/-- Settles O60: the four codes of TRI2 by cases, a TRI5 byte digit by digit. -/
theorem ternaryCodes : Obligations.TernaryCodes := by
  unfold Obligations.TernaryCodes
  refine ⟨fun raw i _ => ?_, fun t b i => ?_, fun raw i h243 _ => ?_, fun a i h => ⟨elemAddr_of_lt rfl h, elemAddr_of_lt rfl h⟩⟩
  · exact tri2_codes ⟨bits raw (2 * (i % 4)) 2, Nat.mod_lt _ (by decide)⟩
  · have hj : (5 * b + i.val) % 5 = i.val := by omega
    have hd := tri5_digit_of_lt (tri5Byte_lt t) i.val (t i) (tri5Byte_digit t i)
    unfold tri5Byte at hd
    refine ⟨?_, decide_eq_false (Nat.not_le_of_lt (tri5Byte_lt t))⟩
    rw [loadLane, hj, hd]
    split
    · rfl
    · split <;> rfl
  · refine ⟨?_, decide_eq_true h243⟩
    rw [loadLane, decodeTri5, if_pos h243]
    rfl

end Sys2Proof.Numbers
end

section
/-! Scalar floating point and conversion (R68, R172, R174). -/

namespace Sys2Proof.Numbers

open Sys2Proof.Machine

theorem fpOf_eq (a : Word) : fpOf a = fp32 (a.setWidth 32) := by rw [fpOf, BitVec.ofNat_toNat]

theorem ofFp_eq (x : W32) : ofFp x = x.setWidth 64 := BitVec.ofNat_toNat ..

theorem convertD_of_ok {sf df : Fmt} {x y : Nat} {rm : RM} {ov : OV} (h : convert sf df x rm ov = .ok y) : convertD sf df x rm ov = y := by
  rw [convertD, h]

/-- R174: what SCVT does with a code that its conversion takes. -/
theorem opScvt_act_of_ok {s : State} {d a : SReg} {sf df : Fmt} {rm : RM} {ov : OV} {y : Nat}
    (h : convert sf df ((s.me.rdS a).toNat % 2 ^ Fmt.width sf) rm ov = .ok y) :
    (opScvt d a sf df rm ov).act s
      = if reservedCode sf ((s.me.rdS a).toNat % 2 ^ Fmt.width sf)
        then (s.putS 1 d ((cvtExtend df y).setWidth 64) 4).updMe (·.later 4 1 (.sticky 1))
        else s.putS 1 d ((cvtExtend df y).setWidth 64) 4 := by
  have hd : convertD sf df (cvtCode sf (s.me.rdS a)) rm ov = y := convertD_of_ok h
  simp only [opScvt, hd, ofFp_eq]
  rfl

/-- R172: the results of SFADD, SFMUL and SFFMA. -/
theorem scalarFloatResults_holds : scalarFloatResults := by
  intro s d a b rm h
  simp only [← fpOf_eq, ← ofFp_eq]
  refine ⟨run_alu2 (i := .sfadd d a b rm) h, run_alu2 (i := .sfmul d a b rm) h, fun c hc => ?_⟩
  exact SlotOp.run_simple (op := opSffma d a b c rm) (i := .sffma d a b c rm) hc (by simp [opSffma, rS])
    rfl rfl rfl rfl rfl rfl rfl rfl rfl rfl rfl rfl

/-- R174, R376: SCVT's check lets a code pass that the conversion takes, and traps with its sub-cause on one that it refuses. -/
theorem scalarConversion_holds : scalarConversion := by
  intro s d a sf df rm ov h
  have hv : ∀ r ∈ (opScvt d a sf df rm ov).reads.map (·.1) ++ (opScvt d a sf df rm ov).writes, ∀ n, r ≠ .v n := by simp [opScvt, rS]
  dsimp only
  split
  · next y hy =>
    have hcheck : (opScvt d a sf df rm ov).check s = none := by simp only [opScvt, cvtCode, hy]
    have hrun := SlotOp.run_simple (i := .scvt d a sf df rm ov) h hv rfl rfl rfl hcheck rfl rfl rfl rfl rfl rfl rfl rfl
    rw [show (opScvt d a sf df rm ov).pre s = s from rfl, opScvt_act_of_ok hy] at hrun
    cases df <;> exact hrun
  · next sub hsub =>
    have hcheck : (opScvt d a sf df rm ov).check s
        = some { cause := 0x20, sub := sub, info1 := BitVec.ofNat 64 ((s.me.rdS a).toNat % 2 ^ Fmt.width sf) } := by
      simp only [opScvt, cvtCode, hsub]
    exact SlotOp.run_traps (i := .scvt d a sf df rm ov) h (State.streamsGo_of_unbound (State.unbound_of_noV hv) s.settled_nil)
      State.tilesFree_nil rfl rfl (fun e => absurd e Bool.false_ne_true) rfl (fun _ hx => absurd hx List.not_mem_nil) hcheck
      (fun e => absurd (show 0x20 = 0x21 from e.1) (by decide))

/-- Settles O4: the arithmetic by its issue, the conversion by cases on what it answers. -/
theorem scalarFloatResults : Obligations.ScalarFloatResults := ⟨scalarFloatResults_holds, scalarConversion_holds⟩

end Sys2Proof.Numbers
end

section
/-! Vector masks (R186, R187). -/

namespace Sys2Proof.Numbers

open Sys2Proof.Machine

/-! ## Comparisons (R169, R186) -/

/-- The order of R169 on patterns of n bits, in the bit vectors' own comparisons. -/
def bvCompare {n : Nat} (cc : ICC) (x y : BitVec n) : Bool :=
  match cc with
  | .eq => x == y
  | .ne => x != y
  | .lt => x.slt y
  | .le => x.sle y
  | .gt => y.slt x
  | .ge => y.sle x
  | .ltn => x.ult y
  | .len => x.ule y
  | .gtn => y.ult x
  | .gen => y.ule x

theorem compareInt_eq (n : Nat) (cc : ICC) (a b : Nat) : compareInt n cc a b = bvCompare cc (BitVec.ofNat n a) (BitVec.ofNat n b) := by
  have heq : (a % 2 ^ n == b % 2 ^ n) = (BitVec.ofNat n a == BitVec.ofNat n b) := by
    rw [Bool.eq_iff_iff, beq_iff_eq, beq_iff_eq, ← BitVec.toNat_inj, BitVec.toNat_ofNat, BitVec.toNat_ofNat]
  cases cc with
  | eq => exact heq
  | ne => exact congrArg (!·) heq
  | lt | le | gt | ge | ltn | len | gtn | gen => rfl

theorem compareInt_lanes (cc : ICC) (x y : W32) : compareInt 32 cc x.toNat y.toNat = bvCompare cc x y := by
  rw [compareInt_eq, BitVec.ofNat_toNat, BitVec.ofNat_toNat, BitVec.setWidth_eq, BitVec.setWidth_eq]

/-! ## The compares into masks (R186) -/

section

variable {s : State} {vd va vb : VReg} {md ma mb m : MReg}

/-- The registers that a compare into a mask reads: the old mask where it combines with it. -/
def compareReads (va vb : VReg) (md m : MReg) (w : MaskOp) : List Reg :=
  [.v va.val, .v vb.val, .m m.val] ++ (if w = .set then [] else [.m md.val])

theorem run_vcompare {lat : Nat} {w : MaskOp} {f : W32 → W32 → Bool} (i : Instr) (h : s.Ready 2 lat (compareReads va vb md m w) [.m md.val]) :
    let u := s.fed 2 lat (compareReads va vb md m w)
    (vcompare lat md va vb m w f).run i s
      = .next (s.issues fun _ => u.putM 2 md (s.me.rdM m)
          (maskOf (fun i => maskCombine w ((s.me.rdM md).getLsbD i) (f (lane (u.me.rdV va) i) (lane (u.me.rdV vb) i))) 64) lat) := by
  dsimp only
  rw [run_acting (op := vcompare lat md va vb m w f) i (by cases w <;> rfl) h]
  simp only [vcompare, Core.mask, rdM_fed]
  rfl

/-- The mask's lanes of VA, the others of VB. -/
theorem exec_vsel (h : s.Ready 2 1 [.v va.val, .v vb.val, .m m.val] [.v vd.val]) :
    let u := s.fed 2 1 [.v va.val, .v vb.val, .m m.val]
    exec (.vsel vd va vb m) s
      = .next (s.issues fun _ => u.putV 2 vd (BitVec.allOnes 64) (mergeLanes (s.me.rdM m) (u.me.rdV vb) (u.me.rdV va)) 1) := by
  have hrun := run_acting (op := opVsel vd va vb m) (.vsel vd va vb m) rfl h
  simp only [opVsel, Core.mask, rdM_fed] at hrun
  exact hrun

theorem exec_mlog (h : s.Ready 2 1 [.m ma.val, .m mb.val] [.m md.val]) (fn : BitVec 4) :
    exec (.mlog md ma mb fn) s
      = .next (s.issues fun t => t.putM 2 md (BitVec.allOnes 64)
          (maskOf (fun i => logicFn fn ((s.me.rdM ma).getLsbD i) ((s.me.rdM mb).getLsbD i)) 64) 1) := by
  rw [issues_at]
  exact run_acting_of_noV (op := opMlog md ma mb fn) (.mlog md ma mb fn) rfl (by simp) h

theorem exec_mpop {d : SReg} (h : s.Ready 2 1 [.m ma.val] [.s d.val]) :
    exec (.mpop d ma) s = .next (s.issues fun t => t.putS 2 d (BitVec.ofNat 64 (popCount 64 (s.me.rdM ma).toNat)) 1) := by
  rw [issues_at]
  exact run_acting_of_noV (op := opMpop d ma) (.mpop d ma) rfl (by simp) h

theorem exec_viota (h : s.Ready 2 1 [.m m.val] [.v vd.val]) :
    exec (.viota vd m) s
      = .next (s.issues fun t => t.putV 2 vd (BitVec.allOnes 64)
          (vecOf ((List.range 64).map fun i => BitVec.ofNat 32 (popCount i (s.me.rdM m).toNat))) 1) := by
  rw [issues_at]
  exact run_acting_of_noV (op := opViota vd m) (.viota vd m) rfl (by simp) h

end

/-- Settles O16: what each operation issues, read lane by lane. -/
theorem vectorMaskResults : Obligations.VectorMaskResults := by
  unfold Obligations.VectorMaskResults
  intro s vd va vb md ma mb m
  refine ⟨?_, ?_, ?_, ?_, ?_⟩
  · intro lat w reads h u a b gives
    have hgives (i : Instr) (f : W32 → W32 → Bool) {c : W32 → W32 → Bool} (hi : exec i s = (vcompare lat md va vb m w f).run i s)
        (hf : f = c) : gives i c := by
      subst hf
      refine ⟨_, hi.trans (run_vcompare i h), fun j hj => ?_⟩
      rw [getLsbD_maskOf _ (Nat.le_refl _), decide_eq_true hj, Bool.true_and]
      cases w <;> rfl
    clear_value gives
    refine ⟨fun hlat cc => ?_, fun hlat cc => ?_, fun hlat ty cc => ?_⟩ <;> subst hlat
    · refine hgives (.vcmp md va vb m cc w) (fun x y => compareInt 32 cc x.toNat y.toNat) rfl ?_
      funext x y
      exact (compareInt_lanes cc x y).trans (by cases cc <;> rfl)
    · exact hgives (.vfcmp md va vb m cc w) (fun x y => compareFp cc (fp32 x) (fp32 y)) rfl rfl
    · refine hgives (.vtcmp md va vb m ty cc w) (fun x y => compareTap (TTy.width ty) cc x.toNat y.toNat) rfl ?_
      funext x y
      refine (compareInt_eq ..).trans ?_
      rw [BitVec.ofNat_toNat, BitVec.ofNat_toNat]
      cases cc <;> rfl
  · exact fun h => ⟨_, exec_vsel h, fun i hi => lane_mergeLanes _ _ _ hi⟩
  · intro h fn
    refine ⟨_, exec_mlog h fn, fun i hi => ?_⟩
    rw [getLsbD_maskOf _ (Nat.le_refl _), decide_eq_true hi, Bool.true_and, logicFn]
  · intro d h
    rw [← popCount_eq_countP]
    exact exec_mpop h
  · intro h
    refine ⟨_, exec_viota h, fun i hi => ?_⟩
    have hle : popCount i (s.me.rdM m).toNat ≤ i := Nat.le_trans (List.length_filter_le _ _) (Nat.le_of_eq List.length_range)
    rw [lane_vecOf _ hi, BitVec.toNat_ofNat, Nat.mod_eq_of_lt (by omega), popCount_eq_countP]

end Sys2Proof.Numbers
end

section
/-! Lane reductions (R196, R197). -/

namespace Sys2Proof.Numbers

open Sys2Proof.Machine

/-! ## The tree of the lanes (R196) -/

/-- A level of the tree pairs the members of even number with those after them. -/
theorem treeLevel_range {α : Type} (op : α → α → α) (n : Nat) (y : Nat → Option α) :
    treeLevel op ((List.range (2 * n)).map y) = (List.range n).map fun i => pairUp op (y (2 * i)) (y (2 * i + 1)) := by
  induction n generalizing y with
  | zero => rfl
  | succ n ih =>
    have h2 : (List.range (2 * (n + 1))).map y = y 0 :: y 1 :: (List.range (2 * n)).map fun i => y (i + 2) := by
      rw [Nat.mul_succ, List.range_succ_eq_map, List.range_succ_eq_map]
      simp [Function.comp_def]
    rw [h2, treeLevel, ih fun i => y (i + 2), List.range_succ_eq_map, List.map_cons, List.map_map]
    rfl

/-- Member i of the level above. -/
def levelUp {α : Type} (op : α → α → α) (y : Nat → Option α) (i : Nat) : Option α := pairUp op (y (2 * i)) (y (2 * i + 1))

/-- Six levels leave one member of 64. -/
theorem laneTree_range {α : Type} (op : α → α → α) (y : Nat → Option α) :
    laneTree op ((List.range 64).map y) = levelUp op (levelUp op (levelUp op (levelUp op (levelUp op (levelUp op y))))) 0 := by
  unfold laneTree
  rw [treeLevel_range op 32, treeLevel_range op 16, treeLevel_range op 8, treeLevel_range op 4, treeLevel_range op 2, treeLevel_range op 1]
  rfl

/-! ## The reductions (R197) -/

section

variable {s : State} {d : SReg} {va : VReg} {m : MReg}

/-- Lane i of what VA gives, where the mask has it. -/
def activeLane (s : State) (va : VReg) (m : MReg) (i : Nat) : Option W32 :=
  if (s.me.rdM m).getLsbD i then some (lane ((s.fed 2 6 [.v va.val, .m m.val]).me.rdV va) i) else none

/-- The active lanes combined. -/
def activeTree (s : State) (va : VReg) (m : MReg) (op : W32 → W32 → W32) : Option W32 :=
  levelUp op (levelUp op (levelUp op (levelUp op (levelUp op (levelUp op (activeLane s va m)))))) 0

theorem laneTree_presentLanes (op : W32 → W32 → W32) :
    let u := s.fed 2 6 [.v va.val, .m m.val]
    laneTree op (presentLanes (u.me.rdV va) (u.me.mask m)) = activeTree s va m op := by
  dsimp only
  rw [presentLanes, laneTree_range, Core.mask, rdM_fed]
  rfl

theorem exec_vred (h : s.Ready 2 6 [.v va.val, .m m.val] [.s d.val]) (isUnsigned : Bool) (fn : RedFn) :
    let r := (activeTree s va m (redOp isUnsigned fn)).getD (redNone isUnsigned fn)
    exec (.vred d va m isUnsigned fn) s
      = .next (s.issues fun _ => (s.fed 2 6 [.v va.val, .m m.val]).putS 2 d (if isUnsigned then r.setWidth 64 else r.signExtend 64) 6) := by
  dsimp only
  rw [← laneTree_presentLanes]
  exact run_acting (op := opVred d va m isUnsigned fn) (.vred d va m isUnsigned fn) rfl h

theorem exec_vfred (h : s.Ready 2 6 [.v va.val, .m m.val] [.s d.val]) (fn : FRedFn) (rm : RM) :
    exec (.vfred d va m fn rm) s
      = .next (s.issues fun _ => (s.fed 2 6 [.v va.val, .m m.val]).putS 2 d
          (((activeTree s va m (fredOp fn rm)).getD (fredNone fn)).setWidth 64) 6) := by
  rw [← laneTree_presentLanes]
  exact run_acting (op := opVfred d va m fn rm) (.vfred d va m fn rm) rfl h

end

/-- Settles O19: the statement's tree is `activeTree`, and `redOp` and `fredOp` are its functions. -/
theorem vectorReductionResults : Obligations.VectorReductionResults := by
  unfold Obligations.VectorReductionResults
  intro s d va m h u x pair level tree done red fred
  have hpair (op : W32 → W32 → W32) (p q : Option W32) : pair op p q = pairUp op p q := by cases p <;> cases q <;> rfl
  have hlevel : level = levelUp := funext fun op => funext fun y => funext fun i => hpair op (y (2 * i)) (y (2 * i + 1))
  have htree (op : W32 → W32 → W32) : tree op = activeTree s va m op := by
    show level op (level op (level op (level op (level op (level op x))))) 0 = _
    rw [hlevel]
    rfl
  have hred {n : Bool} {fn : RedFn} {op : W32 → W32 → W32} {e : W32} (hop : redOp n fn = op) (he : redNone n fn = e) : red n fn op e := by
    subst hop he
    simp only [red, htree]
    exact exec_vred h n fn
  have hfred {fn : FRedFn} {rm : RM} {op : W32 → W32 → W32} {e : W32} (hop : fredOp fn rm = op) (he : fredNone fn = e) : fred fn rm op e := by
    subst hop he
    simp only [fred, htree]
    exact exec_vfred h fn rm
  exact ⟨fun _ => hred rfl rfl, hred rfl rfl, hred rfl rfl, hred rfl rfl, hred rfl rfl, fun _ => hred rfl rfl, fun _ => hred rfl rfl,
    fun _ => hred rfl rfl, fun _ => hfred rfl rfl, fun _ => hfred rfl rfl, fun _ => hfred rfl rfl⟩

end Sys2Proof.Numbers
end

section
/-! The issue of matrix operations (R205-R208). -/

namespace Sys2Proof.Numbers

open Sys2Proof.Machine

/-- R89: no follow-on command of a lend is open, so that nothing holds an access to its groups. -/
theorem lendWait_of_groupsFree {s : State} {g h : Nat} (hf : s.GroupsFree g h) : s.lendWait g h = [] := by
  unfold State.lendWait
  rw [List.filterMap_eq_nil_iff]
  intro l hl
  obtain ⟨hl, hm⟩ := List.mem_filter.mp hl
  simp only [lendMeets, Bool.and_eq_true, decide_eq_true_eq] at hm
  have hopen : l.2.filter s.cmdOpen = [] := by
    rw [List.filter_eq_nil_iff]
    intro id hid
    simp only [State.cmdOpen, Bool.not_eq_true, List.any_eq_false]
    intro c hc
    by_cases he : c.id = id
    · rcases hf l hl hm.1 hm.2 id hid c hc he with h | h | h <;> simp [h]
    · simp [he]
  simp [hopen]

theorem poisonTrap_none {c : Core} {aw : Nat} (h : ∀ g ∈ c.groupPoison, g.group < aw ∨ aw + 7 < g.group) : c.poisonTrap aw = none := by
  have hnil : (c.groupPoison.filter fun g => aw ≤ g.group && g.group ≤ aw + 7) = [] := by
    rw [List.filter_eq_nil_iff]
    intro g hg
    have := h g hg
    simp only [Bool.and_eq_true, decide_eq_true_eq, not_and, Nat.not_le]
    omega
  unfold Core.poisonTrap
  rw [hnil]
  rfl

/-- R131, R205: the latencies of the matrix operations. -/
theorem matLat_eq (mmt : Bool) (f : Fmt) (k : Nat) (sum : Shape) :
    matLat mmt f k sum
      = if mmt then (k + 7) / 8 + 6 else if f = .fp32 ∨ sum = .exact then 4 * k + 6 else if f = .tap8 then (k + 1) / 2 + 6 else k + 6 := by
  simp [matLat, ceilDiv]

/-- MMA or MMT. -/
def matrixInstr (mmt : Bool) (aw : Window) (ta tb : TReg) (neg clr : Bool) (sum : Shape) : Instr :=
  if mmt then .mmt aw ta tb neg clr sum else .mma aw ta tb neg clr sum

section

variable {s : State} {mmt : Bool} {aw : Window} {ta tb : TReg} {neg clr : Bool} {sum : Shape}

theorem exec_matrixInstr :
    exec (matrixInstr mmt aw ta tb neg clr sum) s = (matrixOp mmt aw ta tb neg clr sum).run (matrixInstr mmt aw ta tb neg clr sum) s := by
  cases mmt <;> rfl

theorem matrixOp_noV :
    ∀ r ∈ (matrixOp mmt aw ta tb neg clr sum).reads.map (·.1) ++ (matrixOp mmt aw ta tb neg clr sum).writes, ∀ n, r ≠ .v n := by
  simp [matrixOp, rT, rCfg]

/-- R205-R208: a core once a matrix operation has issued whose operands are those of core c. -/
def matIssued (c : Core) (mmt : Bool) (aw : Window) (ta tb : TReg) (neg clr : Bool) (sum : Shape) (lat : Nat) (d : Core) : Core :=
  let d := ((d.takeBack aw.val (aw.val + 7)).touchUntil aw.val (aw.val + (cfgRows c.tcfg[ta] - 1) / 8) (d.lc.toNat + lat)).later lat 3
    (.mat (c.matOp mmt aw ta tb neg clr sum) (c.badWords ta) (c.badWords tb))
  { d with busyUntil := d.lc.toNat + lat - 6 }

/-- Updates that agree on the core of the step. -/
theorem updMe_congr {f g : Core → Core} (h : f s.me = g s.me) : s.updMe f = s.updMe g :=
  congrArg (s.setCore s.cur) h

theorem matrixOp_act :
    (matrixOp mmt aw ta tb neg clr sum).act s
      = s.updMe (matIssued s.me mmt aw ta tb neg clr sum (matLat mmt (fmtOfCode (cfgFmt s.me.tcfg[ta])) (cfgCols s.me.tcfg[ta]) sum)) := by
  dsimp only [matrixOp]
  exact updMe_congr rfl

/-- Good operands that meet idle arrays issue. -/
theorem exec_matrixInstr_issues
    (h : s.Clear [.t ta.val, .tcfg ta.val, .t tb.val, .tcfg tb.val] []) (hf : s.GroupsFree aw.val (aw.val + 7))
    (hok : matOk mmt s.me.tcfg[ta] s.me.tcfg[tb] = true) (hidle : s.me.busyUntil ≤ s.me.lc.toNat)
    (hgood : ∀ g ∈ s.me.groupPoison, g.group < aw.val ∨ aw.val + 7 < g.group) :
    exec (matrixInstr mmt aw ta tb neg clr sum) s
      = .next (s.issues fun u => u.updMe
          (matIssued s.me mmt aw ta tb neg clr sum (matLat mmt (fmtOfCode (cfgFmt s.me.tcfg[ta])) (cfgCols s.me.tcfg[ta]) sum))) := by
  have hcheck : (matrixOp mmt aw ta tb neg clr sum).check s = none := by
    simp only [matrixOp, hok, if_true, if_neg (Nat.not_lt_of_le hidle), poisonTrap_none hgood, Option.orElse_eq_orElse,
      Option.orElse_eq_or, Option.none_or]
  have hrun := SlotOp.run_simple (i := matrixInstr mmt aw ta tb neg clr sum) (op := matrixOp mmt aw ta tb neg clr sum) h
    matrixOp_noV rfl (lendWait_of_groupsFree hf) rfl hcheck rfl rfl rfl rfl rfl rfl rfl rfl
  rw [show (matrixOp mmt aw ta tb neg clr sum).pre s = s from rfl, matrixOp_act] at hrun
  exact exec_matrixInstr.trans hrun

/-- Arrays that an earlier operation occupies trap. -/
theorem exec_matrixInstr_traps
    (h : s.Clear [.t ta.val, .tcfg ta.val, .t tb.val, .tcfg tb.val] []) (hf : s.GroupsFree aw.val (aw.val + 7))
    (hok : matOk mmt s.me.tcfg[ta] s.me.tcfg[tb] = true) (hbusy : s.me.lc.toNat < s.me.busyUntil) :
    exec (matrixInstr mmt aw ta tb neg clr sum) s
      = .next (s.trap s.cur { cause := 0x11, sub := 4, slot := 3, info0 := BitVec.ofNat 64 (s.me.busyUntil - 1), info1 := s.me.lc }
          s.me.pc s.me.lc) := by
  have hcheck : (matrixOp mmt aw ta tb neg clr sum).check s
      = some { cause := 0x11, sub := 4, info0 := BitVec.ofNat 64 (s.me.busyUntil - 1), info1 := s.me.lc } := by
    simp only [matrixOp, hok, if_true, if_pos hbusy, Option.orElse_eq_orElse, Option.orElse_eq_or, Option.none_or, Option.some_or]
  have hs := State.streamsGo_of_unbound (op := matrixOp mmt aw ta tb neg clr sum)
    (State.unbound_of_noV matrixOp_noV) s.settled_nil
  exact exec_matrixInstr.trans
    (SlotOp.run_traps h hs State.tilesFree_nil (lendWait_of_groupsFree hf) rfl (fun e => absurd e Bool.false_ne_true) rfl
      (fun _ hx => absurd hx List.not_mem_nil) hcheck (fun e => absurd (show 0x11 = 0x21 from e.1) (by decide)))

end

/-- R205, R207, R208: idle arrays take the operation, busy ones trap. -/
theorem matrixIssueResults_holds : matrixIssueResults := by
  intro s mmt aw ta tb neg clr sum h hf c ca cb fa k i lat hok
  refine ⟨fun hidle hgood => ?_, exec_matrixInstr_traps h hf hok⟩
  have hlat : lat = matLat mmt fa k sum := (matLat_eq mmt fa k sum).symm
  rw [hlat]
  exact exec_matrixInstr_issues h hf hok hidle hgood

end Sys2Proof.Numbers
end

section
/-! What matrix operations leave (R73, R75, R207). -/

namespace Sys2Proof.Numbers

open Sys2Proof.Machine

/-! ## Rows of the accumulator store -/

/-- Rows written one after the other. -/
theorem foldl_setAccRow (row : Nat → Nat) (v : Nat → BitVec 2048) (l : List Nat) (c : Core) :
    l.foldl (fun d i => d.setAccRow (row i) (v i)) c = { c with acc := l.foldl (fun m i => Sparse.set 0 m (row i) (v i)) c.acc } := by
  induction l generalizing c with
  | nil => rfl
  | cons i r ih => exact ih _

/-- n rows from row a on read as written, and every other row as before. -/
theorem get_foldl_set (m : Sparse (BitVec 2048)) (a n : Nat) (v : Nat → BitVec 2048) (r : Nat) :
    Sparse.get 0 ((List.range n).foldl (fun m i => Sparse.set 0 m (a + i) (v i)) m) r
      = if a ≤ r ∧ r < a + n then v (r - a) else Sparse.get 0 m r := by
  induction n with
  | zero => rw [if_neg (by omega)]; rfl
  | succ n ih =>
    rw [List.range_succ, List.foldl_append, List.foldl_cons, List.foldl_nil]
    by_cases hr : r = a + n
    · subst hr
      rw [Sparse.get_set_same, if_pos (by omega), Nat.add_sub_cancel_left]
    · rw [Sparse.get_set_ne _ _ _ hr, ih]
      exact ite_congr (propext (by omega)) (fun _ => rfl) (fun _ => rfl)

/-! ## What a matrix operation leaves (R207) -/

theorem setSticky_eq (c : Core) (cycle : Nat) (v : BitVec 2) :
    ∃ st now, c.setSticky cycle v = { c with sticky := st, stickyNow := now } := by
  unfold Core.setSticky
  split
  · exact ⟨c.sticky, c.stickyNow, rfl⟩
  · exact ⟨_, _, rfl⟩

/-- The rows that an operation writes in the accumulator store. -/
def resultRows (o : MatOp) (c : Core) (badA badB : List Nat) (free : Nat) : Sparse (BitVec 2048) :=
  (List.range o.m).foldl (fun m i => Sparse.set 0 m (o.row0 + i) (o.row (c.accRow (o.row0 + i)) badA badB c.bad free i)) c.acc

/-- A matrix operation writes its rows, marks of bad words and poisoned groups, and STICKY. -/
theorem core_commitMat (s : State) (k cycle : Nat) (pc : Word) (o : MatOp) (badA badB : List Nat) :
    ∃ bad gp st now, (s.commitMat k cycle pc o badA badB).core k
      = { s.core k with
          acc := resultRows o (s.core k) badA badB s.free, bad := bad, groupPoison := gp, sticky := st, stickyNow := now } := by
  have hfree (t : State) (n : Nat) : ({ t with free := n } : State).core k = t.core k := rfl
  unfold State.commitMat
  dsimp only
  rw [hfree, State.core_setCore_same, foldl_setAccRow]
  split
  · obtain ⟨st, now, h⟩ := setSticky_eq _ cycle stickyRsvd
    exact ⟨_, _, st, now, h⟩
  · exact ⟨_, _, _, _, rfl⟩

theorem derived_of_good {o : MatOp} {bad : List BadCell} {i j : Nat} (h : BadCell.acc (o.row0 + i) j ∉ bad) : o.derived [] [] bad i j = false := by
  simp [MatOp.derived, rowTouches, h]

/-- Rows of a result from good data. -/
theorem lane_row {o : MatOp} {old : BitVec 2048} {bad : List BadCell} {free i j : Nat} (hj : j < 64) (h : BadCell.acc (o.row0 + i) j ∉ bad) :
    lane (o.row old [] [] bad free i) j = if o.n ≤ j then lane old j else o.word (lane old j) i j := by
  rw [MatOp.row, lane_vecOf _ hj, derived_of_good h]
  rfl

/-- The accumulator store after an operation on good operands. -/
theorem lane_commitMat {s : State} {k cycle : Nat} {pc : Word} {o : MatOp} (hbad : ∀ r j, .acc r j ∉ (s.core k).bad) {r j : Nat} (hj : j < 64) :
    lane (((s.commitMat k cycle pc o [] []).core k).accRow r) j
      = if o.row0 ≤ r ∧ r < o.row0 + o.m ∧ j < o.n then o.word (lane ((s.core k).accRow r) j) (r - o.row0) j
        else lane ((s.core k).accRow r) j := by
  obtain ⟨bad, gp, st, now, hcore⟩ := core_commitMat s k cycle pc o [] []
  have hrow : ((s.commitMat k cycle pc o [] []).core k).accRow r
      = if o.row0 ≤ r ∧ r < o.row0 + o.m then o.row ((s.core k).accRow (o.row0 + (r - o.row0))) [] [] (s.core k).bad s.free (r - o.row0)
        else (s.core k).accRow r := by
    rw [hcore]
    exact get_foldl_set ..
  rw [hrow]
  split
  · next hr =>
    rw [lane_row hj (hbad _ _), show o.row0 + (r - o.row0) = r by omega]
    by_cases hn : j < o.n
    · rw [if_neg (by omega), if_pos ⟨hr.1, hr.2, hn⟩]
    · rw [if_pos (by omega), if_neg (by omega)]
  · rw [if_neg (by omega)]

/-! ## The words (R73, R75) -/

/-- A common factor of the terms of a sum. -/
theorem foldl_add_map_mul (g a b : Int) (h : Nat → Int) (l : List Nat) :
    (l.map fun x => g * h x).foldl (· + ·) (a + g * b) = a + g * l.foldl (fun t x => t + h x) b := by
  induction l generalizing b with
  | nil => rfl
  | cons x r ih =>
    rw [List.map_cons, List.foldl_cons, List.foldl_cons, ← ih, Int.mul_add, Int.add_assoc]

/-- R75: MMT's word. -/
theorem word_of_mmt {o : MatOp} (hm : o.mmt = true) (w : W32) (i j : Nat) :
    o.word w i j = BitVec.ofInt 32 (((List.range o.k).map fun x => (if o.neg then -1 else 1) * (o.aInt i x * (o.bInt j x).1)).foldl (· + ·)
      (if o.clr then 0 else w.toInt)) := by
  have hsum := foldl_add_map_mul (if o.neg then -1 else 1) (if o.clr then 0 else w.toInt) 0 (fun x => o.aInt i x * (o.bInt j x).1) (List.range o.k)
  rw [Int.mul_zero, Int.add_zero] at hsum
  rw [MatOp.word, if_pos hm, intWord, hsum, List.foldl_map]
  cases o.neg <;> simp

/-- R73: MMA's word. -/
theorem word_of_mma {o : MatOp} (hm : ¬ o.mmt = true) (w : W32) (i j : Nat) :
    o.word w i j = roundFp32 .rne (sumShape o.sum (if o.clr then Val.zero else fp32 w)
      ((List.range o.k).map fun x => if o.neg then ((o.aVal i x).mul (o.bVal j x)).neg else (o.aVal i x).mul (o.bVal j x))) := by
  rw [MatOp.word, if_neg hm, valWord, List.map_map]
  rfl

/-- R73, R75, R206, R207: the words of the result, and the frame. -/
theorem matrixCommit_holds : matrixCommit := by
  intro s k cycle pc o c word _ hn hbad d
  refine ⟨fun i j hi hj => ?_, fun r j hj hr => ?_, ?_⟩
  · rw [lane_commitMat hbad (by omega), if_pos ⟨by omega, by omega, hj⟩, Nat.add_sub_cancel_left]
    split
    · next hm => exact word_of_mmt hm ..
    · next hm => exact word_of_mma hm ..
  · rw [lane_commitMat hbad hj, if_neg (by omega)]
  · obtain ⟨bad, gp, st, now, hcore⟩ := core_commitMat s k cycle pc o [] []
    simp only [d, hcore]
    exact ⟨rfl, rfl, rfl, rfl, rfl, rfl, rfl, rfl, rfl⟩

/-- Settles O20: the issue and the commit. -/
theorem matrixResults : Obligations.MatrixResults := ⟨matrixIssueResults_holds, matrixCommit_holds⟩

end Sys2Proof.Numbers
end
